-- ==== Sys2Proof/Word.lean ====
section
/-!
DEFINITION. The word types of the NR416 model and their plainest arithmetic.  Field extraction, sign extension and byte order
live in Machine/Bits.lean.
-/

namespace Sys2Proof

/-- A byte of memory. -/
abbrev Byte := BitVec 8

/-- A 64-bit register of a lane or of a Zawick core. -/
abbrev Word := BitVec 64

/-- A sector: an aligned 128-byte block, byte i in bits [8i + 7:8i] (08_caches_and_quire, R10). -/
abbrev Sector := BitVec 1024

/-- A flit of 256 bytes (R14), byte i in bits [8i + 7:8i]. -/
abbrev Flit := BitVec 2048

end Sys2Proof
end

