-- ==== Sys2Proof/Syntax.lean ====
section
/-!
DEFINITION. The commands of the block: one constructor of Instr for each row of spec/opcode_table.json, with the operands the
row's rules name, and the types of those operands (messages, flits, samples and results that arrive from outside the step).
-/

namespace Sys2Proof

/-- Where a flit arrives: one end of a die-to-die link (R12; end false lies on the lower die ID, R333) or an Etmos port. -/
inductive FlitPort where
  | link (l : BitVec 3) (e : Bool)
  | etmos (p : BitVec 4)
deriving DecidableEq, Repr

/-- A message of VC0, VC1 or VC3 (R16, R224, R225).  `ctl` is the payload unit that is no sector data: the byte mask of WrMask,
the operand and compare value of Atomic, the maintenance command of Maint, the reduction control unit of RedOrd and RedInt, the old
value of AtomRes, the counts of MaintDone. -/
structure MemMsg where
  vc : BitVec 2
  op : BitVec 8
  src : BitVec 12
  tag : BitVec 16
  ctx : BitVec 12 := 0
  hint : BitVec 2 := 0
  noAlloc : Bool := false
  gen : BitVec 4 := 0
  attr : BitVec 12 := 0
  pa : BitVec 48 := 0
  ctl : BitVec 128 := 0
  data : Sector := 0
deriving DecidableEq, Repr

/-- A coherence message of VC2 (R273, R274). -/
structure CohMsg where
  op : BitVec 8
  src : BitVec 12
  tag : BitVec 16
  core : BitVec 6
  age : BitVec 4 := 0
  dst : BitVec 6 := 0
  attr : BitVec 8 := 0
  pa : BitVec 48
  data : Sector := 0
deriving DecidableEq, Repr

/-- An Etmos message: the route header of R369 and the units after it (R370), unit 2 first. -/
structure EMsg where
  vc : BitVec 2
  len : BitVec 6
  op : BitVec 8
  dst : BitVec 24
  src : BitVec 24
  d : Bool := false
  epoch : BitVec 4 := 0
  legIdx : BitVec 3 := 0
  legCnt : BitVec 4 := 0
  hops : BitVec 12 := 0
  relay : Bool := false
  route : BitVec 128 := 0
  units : List (BitVec 128) := []
deriving DecidableEq, Repr

/-- A wrong symbol: codeword of the sector, symbol position, and the 4-bit value added to the symbol (R247). -/
structure SymErr where
  cw : BitVec 2
  pos : BitVec 7
  val : BitVec 4
deriving DecidableEq, Repr

/-- What a channel's training found (R253, R254): a failed phase 1 or 2, and the symbol positions whose lanes the lane test or the
timing windows marked. -/
structure ChannelTraining where
  phaseFail : Bool
  marked : List (BitVec 7)
deriving DecidableEq, Repr

/-- What an Etmos port's lane training, training-word exchange and round-trip measurement found (R365, R366): the marked lanes, the peer's
training word, the round trip, and, in an ordered retrain, the credit totals and the Ack that the peer sent (R27). -/
structure PortTraining where
  marked : BitVec 8
  peerModuleId : BitVec 64
  peerPort : BitVec 4
  peerVersion : BitVec 4
  peerWidth : BitVec 4 := 8
  rtt : BitVec 32
  peerCredits : List (BitVec 16) := []
  peerAck : BitVec 16 := 0
deriving DecidableEq, Repr

/-- One message of the attested handshake (R384). -/
inductive HandshakeStep where
  | hello (key : BitVec 768) (nonce : BitVec 256)
  | certificate (cert : List Byte)
  | verify (evidence : List Byte) (sig : BitVec 768)
  | finished (mac : BitVec 384)
deriving DecidableEq, Repr

/-- Who asks for a change that an admin queue or a Zawick core may ask for (R213, R216): the admin entry running in queue 0
(false) or queue 1 (true), or a core. -/
inductive PartitionBy where
  | admin (aq : Bool)
  | core (n : BitVec 6) (half : Bool) (value : Word)
deriving DecidableEq, Repr

/-- A Quire maintenance command comes from an admin entry or as a Maint message from a core (R216). -/
inductive MaintBy where
  | admin (aq : Bool)
  | message (m : MemMsg)
deriving DecidableEq, Repr

/-- What is done with a bank's refresh command that falls due (R264). -/
inductive RefreshAction where
  | issue
  | postpone
  | pullIn
deriving DecidableEq, Repr

/-- What the loop-back of a link port found (R32): the port (link times 2 plus end), the lanes that the lane test marked (lane group and
lane), how many of the 65,536 flits came back with a bad CRC, and how many with changed content. -/
structure LoopBack where
  port : BitVec 4
  marks : List (BitVec 7 × BitVec 6) := []
  badCrc : BitVec 17 := 0
  changed : BitVec 17 := 0
deriving DecidableEq, Repr

/-- Findings of a cold-start step that come from outside the step (R452, R454, R456): the PUF capture, self-test results by die,
agent self-test results, and what the loop-back of some ports found; an unlisted port ran clean. -/
structure ColdFindings where
  puf : List Byte := []
  selfTestFail : BitVec 7 := 0
  agentFail : BitVec 2 := 0
  loopBack : List LoopBack := []
deriving DecidableEq, Repr

/-- How flash programming and read-back ended (R464). -/
inductive ProgrammingResult where
  | written
  | programError
  | readBackMismatch
deriving DecidableEq, Repr

/-- A Data message as it reaches its requester; `bad` says that its data fails its code check on the way (R287, R318, log 14). -/
structure DataIn where
  m : MemMsg
  bad : Bool
deriving DecidableEq, Repr

/-- A thread group as its park reads it; `bad` says that its register image or convergence stack fails its code check (R435, log 14). -/
structure GroupIn where
  g : BitVec 6
  bad : Bool
deriving DecidableEq, Repr

/-- What fails its code check as a core attempts an instruction (R287, log 14): nothing, the sector it fetches from, data that it reads. -/
inductive CoreBad where
  | none
  | fetch
  | data
deriving DecidableEq, Repr

/-- Where a host write goes (R311, R346, R347): an offset of the ingress aperture, of BAR4, or of the configuration space. -/
inductive HostPlace where
  | aperture (off : BitVec 40)
  | bar4 (off : BitVec 16)
  | config (off : BitVec 12)
deriving DecidableEq, Repr

/-- A command of the block.  Indices carry the width the spec gives them: cluster 7 bits, group 6, queue 14, context 12, core 6,
copy engine 6, channel 8, stack 4, Etmos port 4 (0 to 11), link 3 (0 to 6), die 3, rail 4 (0 to 13).  `h` false is West, `aq` false is
queue 0.  `bad` operands say what a code check finds on the data the command reads. -/
inductive Instr where
  -- flits and die-to-die links
  | payloadFlit (a : FlitPort) (f : Flit)
  | idleFlit (a : FlitPort) (f : Flit)
  | retryRequest (a : FlitPort) (f : Flit)
  | retryRequestResend (a : FlitPort)
  | ackTimeout (a : FlitPort)
  | linkTraining (l : BitVec 3) (ordered : Bool) (capLow capHigh : Word)
  | linkTrainingDone (l : BitVec 3) (marks : List (BitVec 7 × BitVec 6))
  | siteSwitch (die : BitVec 3) (k : BitVec 2)
  -- the Press
  | product (c : BitVec 7) (g : BitVec 6)
  | exponentPass (c : BitVec 7) (g : BitVec 6)
  | merge (c : BitVec 7) (g : BitVec 6)
  | anchorLoad (c : BitVec 7) (g : BitVec 6)
  | drain (c : BitVec 7) (g : BitVec 6)
  | ownExponentPassStart (c : BitVec 7)
  | ownExponentPassEnd (c : BitVec 7)
  | arrayPhaseStart (c : BitVec 7)
  | arrayPhaseEnd (c : BitVec 7) (bad : Bool)
  | finishStart (c : BitVec 7)
  | finishEnd (c : BitVec 7) (bad : Bool)
  | pressCreditReturn (c : BitVec 7)
  | dhTwait (c : BitVec 7) (g : BitVec 6)
  -- the Stream Engine
  | dhStream (c : BitVec 7) (g : BitVec 6)
  | rowVectorLoad (c : BitVec 7)
  | streamFirstRead (c : BitVec 7) (bad : Option Nat)
  | streamComplete (c : BitVec 7)
  | dhSwait (c : BitVec 7) (g : BitVec 6)
  | dhOcfill (c : BitVec 7) (g : BitVec 6)
  | dhOcflush (c : BitVec 7) (g : BitVec 6)
  | fillStart (c : BitVec 7) (bad : Bool)
  | fillComplete (c : BitVec 7)
  -- lane base instructions
  | baseAlu (c : BitVec 7) (g : BitVec 6)
  | baseBranch (c : BitVec 7) (g : BitVec 6)
  | baseJump (c : BitVec 7) (g : BitVec 6)
  | baseLoad (c : BitVec 7) (g : BitVec 6)
  | baseStore (c : BitVec 7) (g : BitVec 6)
  | baseMulDiv (c : BitVec 7) (g : BitVec 6)
  | fpArithmetic (c : BitVec 7) (g : BitVec 6)
  | fpConversion (c : BitVec 7) (g : BitVec 6)
  | csrAccess (c : BitVec 7) (g : BitVec 6)
  | baseFence (c : BitVec 7) (g : BitVec 6)
  | ecall (c : BitVec 7) (g : BitVec 6)
  | ebreak (c : BitVec 7) (g : BitVec 6)
  | illegalInstruction (c : BitVec 7) (g : BitVec 6)
  -- group life cycle
  | groupPark (c : BitVec 7) (x : GroupIn)
  | yieldWakeTimeout (c : BitVec 7) (g : BitVec 6)
  | groupLivelock (c : BitVec 7) (g : BitVec 6)
  | groupRetire (c : BitVec 7) (g : BitVec 6)
  | clusterKernelComplete (c : BitVec 7)
  -- votes and shuffles
  | dhVany (c : BitVec 7) (g : BitVec 6)
  | dhVall (c : BitVec 7) (g : BitVec 6)
  | dhBallot (c : BitVec 7) (g : BitVec 6)
  | dhElect (c : BitVec 7) (g : BitVec 6)
  | dhVsum (c : BitVec 7) (g : BitVec 6)
  | dhVmin (c : BitVec 7) (g : BitVec 6)
  | dhVmax (c : BitVec 7) (g : BitVec 6)
  | dhVprefix (c : BitVec 7) (g : BitVec 6)
  | dhShfl (c : BitVec 7) (g : BitVec 6)
  | dhShflXor (c : BitVec 7) (g : BitVec 6)
  | dhShflUp (c : BitVec 7) (g : BitVec 6)
  | dhShflDown (c : BitVec 7) (g : BitVec 6)
  -- local store, hinted accesses, deadhead, fences
  | dhLsLoad (c : BitVec 7) (g : BitVec 6) (bad : List Nat)
  | dhLsStore (c : BitVec 7) (g : BitVec 6) (bad : List Nat)
  | dhHintedLoad (c : BitVec 7) (g : BitVec 6)
  | dhHintedStore (c : BitVec 7) (g : BitVec 6)
  | dhDeadhead (c : BitVec 7) (g : BitVec 6)
  | dhFence (c : BitVec 7) (g : BitVec 6)
  -- atomics and locks
  | dhAmoswap (c : BitVec 7) (g : BitVec 6)
  | dhAmoadd (c : BitVec 7) (g : BitVec 6)
  | dhAmoand (c : BitVec 7) (g : BitVec 6)
  | dhAmoor (c : BitVec 7) (g : BitVec 6)
  | dhAmoxor (c : BitVec 7) (g : BitVec 6)
  | dhAmomin (c : BitVec 7) (g : BitVec 6)
  | dhAmomax (c : BitVec 7) (g : BitVec 6)
  | dhAmominu (c : BitVec 7) (g : BitVec 6)
  | dhAmomaxu (c : BitVec 7) (g : BitVec 6)
  | dhAmocas (c : BitVec 7) (g : BitVec 6)
  | dhFamoaddS (c : BitVec 7) (g : BitVec 6)
  | dhFamominS (c : BitVec 7) (g : BitVec 6)
  | dhFamomaxS (c : BitVec 7) (g : BitVec 6)
  | dhAcq (c : BitVec 7) (g : BitVec 6)
  | dhSpinacq (c : BitVec 7) (g : BitVec 6)
  | dhRel (c : BitVec 7) (g : BitVec 6)
  -- tokens and control
  | dhTksig (c : BitVec 7) (g : BitVec 6)
  | tokenArrival (c : BitVec 7) (n : Nat)
  | dhTkwait (c : BitVec 7) (g : BitVec 6)
  | dhTkread (c : BitVec 7) (g : BitVec 6)
  | dhExit (c : BitVec 7) (g : BitVec 6)
  | dhPark (c : BitVec 7) (g : BitVec 6)
  -- memory messages at the Quire
  | rdSec (m : MemMsg) (bad : Bool)
  | wrFull (m : MemMsg) (bad : Bool)
  | wrMask (m : MemMsg) (bad : Bool)
  | atomic (m : MemMsg) (bad : Bool)
  | dead (m : MemMsg)
  | redInt (m : MemMsg) (bad : Bool)
  | redOrd (m : MemMsg) (bad : Bool)
  -- answers at their requesters
  | data (x : DataIn)
  | done (m : MemMsg)
  | atomRes (m : MemMsg)
  | err (m : MemMsg)
  | retry (m : MemMsg)
  | redDone (m : MemMsg)
  | maintDone (m : MemMsg)
  | invalidMessage (l : BitVec 3) (m : MemMsg)
  -- Quire and channel events
  | sectorArrival (ch : BitVec 8) (pa : BitVec 48) (errs : List SymErr)
  | quireRetryResend (src : BitVec 12) (tag : BitVec 16)
  | redordResend (src : BitVec 12) (tag : BitVec 16)
  | reductionStall (h : Bool) (pa : BitVec 48)
  | storeTrackerExpiry (h : Bool) (src : BitVec 12)
  | writeAroundDrain (h : Bool)
  | quirePartition (by_ : PartitionBy)
  | scratchWaysChangeDone (h : Bool)
  | quirePreload (by_ : MaintBy)
  | quirePreloadAndLock (by_ : MaintBy)
  | quireUnlock (by_ : MaintBy)
  | quireWriteBack (by_ : MaintBy)
  | quireWriteBackInvalidate (by_ : MaintBy)
  | channelTrainingDone (ch : BitVec 8) (r : ChannelTraining)
  | symbolThreshold (ch : BitVec 8) (pos : BitVec 7)
  | patrolScrub (ch : BitVec 8) (errs : List (BitVec 4 × SymErr))
  | channelFetch (ch : BitVec 8)
  | channelWrite (ch : BitVec 8)
  | refresh (ch : BitVec 8) (bank : BitVec 5) (act : RefreshAction)
  | stackTemperatureSample (stack : BitVec 4) (t : BitVec 8)
  -- Zawick cores and coherence
  | coreInstruction (n : BitVec 6) (bad : CoreBad)
  | cboClean (n : BitVec 6)
  | cboFlush (n : BitVec 6)
  | cboInval (n : BitVec 6)
  | cboZero (n : BitVec 6)
  | rdShared (m : CohMsg)
  | rdUnique (m : CohMsg)
  | upgrade (m : CohMsg)
  | wbFull (m : CohMsg)
  | evictClean (m : CohMsg)
  | compAck (m : CohMsg)
  | snpFwdS (m : CohMsg)
  | snpFwdU (m : CohMsg)
  | snpInv (m : CohMsg)
  | snpDown (m : CohMsg)
  | snpRecall (m : CohMsg)
  | snpDrop (m : CohMsg)
  | grant (m : CohMsg)
  | wbAck (m : CohMsg)
  | snpAck (m : CohMsg)
  | snpData (m : CohMsg)
  | coherentRetryResend (n : BitVec 6) (tag : BitVec 16)
  | starvationRecordExpiry (h : Bool) (bank : BitVec 6)
  -- translation, windows, copy faults
  | translationInvalidate (aq : Bool)
  | windowSet (aq : Bool)
  | faultResumeRetry (aq : Bool)
  | faultResumeAbort (aq : Bool)
  | copyStall (e : BitVec 6)
  | translationFaultRecord (e : BitVec 6)
  | hostIngressWrite (place : HostPlace) (bytes : List Byte)
  -- doorbells, entries, kernels
  | doorbell (host : Bool) (off : BitVec 26) (value : Word)
  | entryFetch (q : BitVec 14)
  | entryArrival (q : BitVec 14)
  | stampReread (q : BitVec 14)
  | stampTimeout (q : BitVec 14)
  | kernelLaunch (q : BitVec 14)
  | kernelDispatch (q : BitVec 14)
  | clusterReady (c : BitVec 7)
  | start (c : BitVec 7)
  | go (c : BitVec 7)
  | kernelReplay (q : BitVec 14)
  | copy (q : BitVec 14)
  | copyComplete (e : BitVec 6)
  | fenceWait (q : BitVec 14)
  | fenceWaitSatisfied (q : BitVec 14)
  | nop (q : BitVec 14)
  | invalidEntry (q : BitVec 14)
  | waitGraphWalk (q : BitVec 14)
  -- admin commands
  | contextOpen (aq : Bool)
  | contextClose (aq : Bool)
  | contextReset (aq : Bool)
  | contextResetComplete (x : BitVec 12)
  | queueCreate (aq : Bool)
  | queueDestroy (aq : Bool)
  | queueReset (aq : Bool)
  | groupAccessRead (aq : Bool)
  | groupAccessWrite (aq : Bool)
  | inspectionApertureWrite (n : BitVec 6) (off : BitVec 27) (wide : Bool) (value : Word)
  | groupResumeReplay (aq : Bool)
  | groupResumeSkip (aq : Bool)
  | groupResumeDiscard (aq : Bool)
  | groupStop (aq : Bool)
  | registerRead (aq : Bool)
  | registerWrite (aq : Bool)
  | apertureWrite (n : BitVec 6) (off : BitVec 24) (value : Word)
  | linkStatusRead (l : BitVec 3) (e : Bool)
  | channelStatusRead (ch : BitVec 8)
  | quireCounterRead (x : BitVec 12)
  | contextStatusRead (x : BitVec 12)
  | portStatusRead (p : BitVec 4)
  | timedStatusRead (upper : Bool)
  -- the host link
  | hostAttach (aq : Bool)
  | hostDetach (aq : Bool) (unsent : Nat)
  | hostApertureSet (aq : Bool)
  | completionRingSet (aq : Bool)
  | eventResend (aq : Bool)
  | hostRead (bar : BitVec 3) (off : BitVec 40) (len : BitVec 10)
  | pcieLinkDown (unsent : Nat)
  | perst (unsent : Nat)
  | hotReset (unsent : Nat)
  | flr (unsent : Nat)
  | msixUnmask (v : BitVec 5)
  | msixHoldoffExpiry (v : BitVec 5)
  -- the Etmos fabric
  | etmosPortTraining (p : BitVec 4) (r : PortTraining)
  | etmosPortLoss (p : BitVec 4) (why : BitVec 4)
  | portRestart (p : BitVec 4)
  | handshake (p : BitVec 4) (m : EMsg)
  | etmosForward (p : BitVec 4) (m : EMsg)
  | winWrite (p : BitVec 4) (m : EMsg)
  | winRead (p : BitVec 4) (m : EMsg)
  | winRedInt (p : BitVec 4) (m : EMsg)
  | winRedOrd (p : BitVec 4) (m : EMsg)
  | winData (p : BitVec 4) (m : EMsg)
  | winRedDone (p : BitVec 4) (m : EMsg)
  | winErr (p : BitVec 4) (m : EMsg)
  | windowResponseTimeout (tag : BitVec 16)
  | mgmt (p : BitVec 4) (m : EMsg)
  | ptp (p : BitVec 4) (m : EMsg)
  | counterSync (p : BitVec 4) (m : EMsg)
  | delayProbe (p : BitVec 4) (m : EMsg)
  | delayReply (p : BitVec 4) (m : EMsg)
  | counterSyncTimer (p : BitVec 4)
  | delayProbeTimer
  | rekey (p : BitVec 4)
  | trellisGathering (bytes : List Byte)
  | budgetGathering (bytes : List Byte)
  | gatheringCommit (cls : BitVec 8)
  -- jobs
  | jobGateSet (aq : Bool)
  | jobStart (aq : Bool)
  | jobGateClear (aq : Bool)
  | jobArm (p : BitVec 4) (m : EMsg)
  | armAck (p : BitVec 4) (m : EMsg)
  | armNack (p : BitVec 4) (m : EMsg)
  | jobConfirm (p : BitVec 4) (m : EMsg)
  | jobAbort (p : BitVec 4) (m : EMsg)
  | jobGuardExpiry (gate : BitVec 4)
  | jobStartCount (gate : BitVec 4)
  -- power, clocks, sleep, cooling
  | clusterPowerGate (c : BitVec 7)
  | dozeEntry
  | dormantEntry
  | sleepEntryStep
  | clocheTimer
  | wakeComplete
  | powerPolicy (aq : Bool)
  | powerSample (avgMs avgSec : BitVec 12)
  | powerControlTick
  | railOvercurrent (rail : BitVec 4)
  | railLimiterStep (rail : BitVec 4) (exceeded : Bool)
  | droop (die : BitVec 3)
  | droopRelease (die : BitVec 3)
  | throttleCoalesceWindow
  | heartbeat (h : Bool) (far : Bool)
  | heartbeatTimeout (h : Bool) (own : Bool)
  | splitNotice (h : Bool)
  | splitRelease
  | splitTimeout
  | coolantSample (flow inlet : BitVec 8)
  | flowLoss
  | dieTemperatureSample (die : BitVec 3) (t : BitVec 8)
  -- timed mode and digests
  | timedMode (aq : Bool)
  | regionDigest (aq : Bool)
  | digestChunkDone
  -- start-up, update, identity, test access, sideband
  | coldStart
  | coldStartStep (r : ColdFindings)
  | inputLoss
  | modEnFall
  | modEnRise
  | epBegin (len : BitVec 32) (digest : BitVec 384)
  | epData (off : BitVec 32) (bytes : List Byte)
  | epEnd
  | epAbort
  | epStatus
  | endpaperVerifyDone
  | endpaperProgrammingDone (r : ProgrammingResult)
  | attest (aq : Bool)
  | measureExtend (aq : Bool)
  | measureExtendRegister (n : BitVec 6) (v : BitVec 384)
  | bypass (tdi : Bool)
  | idcode
  | samplePreload (pins shiftIn : List Bool)
  | extest (pins shiftIn : List Bool)
  | unlockChal
  | unlockToken (token : List Byte)
  | ijtag (shiftIn : List Bool)
  | intest (shiftIn : List Bool)
  | smbusPowerStatus
  | smbusIdentity
  | smbusModuleState
  | smbusWake
  | smbusAlertCause
  | smbusAlertResponse
  -- rows added last to the table
  | portSleepNotice (p : BitVec 4)
  | portActivityWake (p : BitVec 4)
  | hostTlpWake
  | spineTemperatureSample (t : BitVec 8)
  | channelFailedOutsideColdStart (ch : BitVec 8)
deriving DecidableEq, Repr

end Sys2Proof
end

