-- ==== Sys2Proof/Decode.lean ====
section
/-!
DEFINITION. The command that a word of the opcode table spells.  The table gives no row any bits: the module's commands are
events at its units, and a lane's instruction words are decoded where a lane fetches them (Machine/Lane.lean, log 8).
-/

namespace Sys2Proof

/-- No row of the opcode table has bits (log 8), so no word spells a command. -/
def decodeTableWord (_nbits _w : Nat) : Option Instr := none

end Sys2Proof
end

