-- ==== Sys2Proof/Config.lean ====
section
/-!
DEFINITION. What the spec leaves open: opaque constants with no body, applied to the operands they depend on or to the counter
`free` of State.  No proof can see their values, so every statement holds whatever they are.
-/

namespace Sys2Proof.Config

/-- Which FP32 value within the error bound of R111 the exp2 unit gives, by input bits: an index among the allowed values
(log 10). -/
opaque exp2Choice : BitVec 32 → Nat

/-- As `exp2Choice`, for log2 (R111, log 10). -/
opaque log2Choice : BitVec 32 → Nat

/-- As `exp2Choice`, for tanh, by the bits of the magnitude (R111, log 10). -/
opaque tanhChoice : BitVec 32 → Nat

/-- A 64-bit value the spec leaves open (log 9). -/
opaque freeWord : Nat → Word

/-- What the identification CSRs of a Zawick core hold (R268, log 30). -/
opaque coreCsr : Nat → Word

/-- Whether an agnostic element or bit of a vector destination of a Zawick core is overwritten with ones, by the instruction with its
settings and the place (R268, R426, log 30). -/
opaque agnostic : Nat → Nat → Bool

/-- The unordered floating-point sum of a Zawick core, with its flags, by the instruction's settings, the scalar and the elements (R426,
log 30). -/
opaque coreSum : Nat → Nat → List Nat → Nat × Nat

/-- What a sector of a kernel's frame region holds after the kernel, by the counter `free` and the sector's address (R139, log 74). -/
opaque freeSector : Nat → Nat → BitVec 1024

/-- The loop-back of a link port that bits shifted into the open test network run, with what it finds, if they run one (R33, R466, log 46). -/
opaque ijtagLoopBack : List Bool → Option LoopBack

/-- A bit the spec leaves open (log 9). -/
opaque freeBit : Nat → Bool

/-- Random bits of the security controller: nonces, ephemeral private keys, unlock challenges (log 11). -/
opaque random : Nat → BitVec 384

/-- The 384-bit seed that this module's PUF gives with helper data that corrects it (R457, log 12). -/
opaque pufSeed : List Byte → BitVec 384

/-- The PUF region as it stood at enrolment (R457, log 12). -/
opaque pufEnrolled : List Byte

/-- Whether helper data corrects a PUF capture with more than 15 % of its bits flipped (R457, log 12). -/
opaque pufFortune : List Byte → List Byte → Bool

/-- A PUF capture at a wake from Dormant, by a counter (R452, log 12). -/
opaque pufCapture : Nat → List Byte

/-- The random scalar of one ECDSA signature (R461, log 11). -/
opaque signatureScalar : Nat → BitVec 384

/-- The LMS root public key of 56 bytes in the Spine boot ROM (R447, log 11). -/
opaque rootLmsKey : List Byte

/-- The ECDSA root public key of 96 bytes in the Spine boot ROM (R447, log 11). -/
opaque rootEcdsaKey : List Byte

/-- The SHA-384 digest of the Spine boot ROM (M0, R460, log 11). -/
opaque romDigest : BitVec 384

end Sys2Proof.Config
end

