-- ==== Sys2Proof/Machine/Bits.lean ====
section
/-!
DEFINITION. Bit fields, byte order, and the sparse tables in which the model keeps everything that is indexed (registers of
4,096 contexts, memory bytes ...).  A table is a list of key and value pairs in one canonical form: keys strictly rising, and no
value equal to the table's default.
-/

namespace Sys2Proof.Machine

/-- A sparse table: keys strictly rising, no value equal to what an unlisted key reads as. -/
abbrev Tbl (α : Type) := List (Nat × α)

/-- The value at a key; an unlisted key reads as `d`. -/
def tget {α : Type} (d : α) : Tbl α → Nat → α
  | [], _ => d
  | (k, v) :: t, i => if k = i then v else tget d t i

/-- Remove a key. -/
def tdel {α : Type} (t : Tbl α) (i : Nat) : Tbl α := t.filter (fun p => decide (p.1 ≠ i))

/-- Insert or replace a key, keeping the keys rising. -/
def tins {α : Type} : Tbl α → Nat → α → Tbl α
  | [], i, x => [(i, x)]
  | (k, v) :: t, i, x =>
    if i < k then (i, x) :: (k, v) :: t
    else if k = i then (i, x) :: t
    else (k, v) :: tins t i x

/-- Write a value, keeping the canonical form: writing the default removes the entry. -/
def tput {α : Type} [DecidableEq α] (d : α) (t : Tbl α) (i : Nat) (x : α) : Tbl α :=
  if x = d then tdel t i else tins t i x

/-- Keys strictly rising from a bound on. -/
def tsorted {α : Type} : Nat → Tbl α → Bool
  | _, [] => true
  | b, (k, _) :: t => decide (b ≤ k) && tsorted (k + 1) t

/-- The canonical form of a table with default `d`. -/
def Tbl.wf {α : Type} [DecidableEq α] (d : α) (t : Tbl α) : Bool :=
  tsorted 0 t && t.all (fun p => decide (p.2 ≠ d))

/-- The table of the first `n` values of a function. -/
def tblOf {α : Type} [DecidableEq α] (d : α) (n : Nat) (f : Nat → α) : Tbl α :=
  ((List.range n).map (fun i => (i, f i))).filter (fun p => decide (p.2 ≠ d))

/-- Change the value at a key. -/
def tmod {α : Type} [DecidableEq α] (d : α) (t : Tbl α) (i : Nat) (f : α → α) : Tbl α :=
  tput d t i (f (tget d t i))

/-- Change every listed value, dropping those that become the default. -/
def tmap {α : Type} [DecidableEq α] (d : α) (t : Tbl α) (f : Nat → α → α) : Tbl α :=
  (t.map (fun p => (p.1, f p.1 p.2))).filter (fun p => decide (p.2 ≠ d))

/-- Bits hi to lo of a vector, as a number. -/
def fld {w : Nat} (v : BitVec w) (hi lo : Nat) : Nat := (v.toNat >>> lo) % 2 ^ (hi + 1 - lo)

/-- One bit of a vector. -/
def bit {w : Nat} (v : BitVec w) (i : Nat) : Bool := v.getLsbD i

/-- A field of a vector that is being put together: the number `x` at bit `lo`, cut to `w` bits. -/
def put (x w lo : Nat) : Nat := (x % 2 ^ w) <<< lo

/-- A bit of a vector that is being put together. -/
def putb (x : Bool) (lo : Nat) : Nat := if x then 2 ^ lo else 0

/-- Replace `n` bits at `lo` of a number. -/
def setBits (v n lo x : Nat) : Nat :=
  (v >>> (lo + n)) <<< (lo + n) + put x n lo + v % 2 ^ lo

/-- Replace bits hi to lo of a vector. -/
def setF {w : Nat} (v : BitVec w) (hi lo x : Nat) : BitVec w := BitVec.ofNat w (setBits v.toNat (hi + 1 - lo) lo x)

/-- Replace one bit of a vector. -/
def setB {w : Nat} (v : BitVec w) (i : Nat) (x : Bool) : BitVec w := setF v i i (if x then 1 else 0)

/-- The number that bytes spell, least significant first (R10). -/
def leNat : List Byte → Nat
  | [] => 0
  | b :: bs => b.toNat + 256 * leNat bs

/-- The low `n` bytes of a number, least significant first (R10). -/
def leBytes : Nat → Nat → List Byte
  | 0, _ => []
  | n + 1, v => BitVec.ofNat 8 v :: leBytes n (v / 256)

/-- The number that bytes spell, most significant first. -/
def beNat (bs : List Byte) : Nat := leNat bs.reverse

/-- The low `n` bytes of a number, most significant first. -/
def beBytes (n v : Nat) : List Byte := (leBytes n v).reverse

/-- `n` bytes of a byte table from an address on; addresses rise. -/
def readBytes (t : Tbl Byte) : Nat → Nat → List Byte
  | _, 0 => []
  | a, n + 1 => tget 0 t a :: readBytes t (a + 1) n

/-- Write bytes into a byte table from an address on. -/
def writeBytes (t : Tbl Byte) : Nat → List Byte → Tbl Byte
  | _, [] => t
  | a, b :: bs => writeBytes (tput 0 t a b) (a + 1) bs

/-- A little-endian number of `n` bytes in a byte table. -/
def readLe (t : Tbl Byte) (a n : Nat) : Nat := leNat (readBytes t a n)

/-- Write the low `n` bytes of a number, little-endian. -/
def writeLe (t : Tbl Byte) (a n v : Nat) : Tbl Byte := writeBytes t a (leBytes n v)

/-- Set `n` bytes from an address on to zero. -/
def clearBytes (t : Tbl Byte) (a n : Nat) : Tbl Byte := t.filter (fun p => decide (p.1 < a ∨ a + n ≤ p.1))

/-- `n` bytes at an offset of a byte list. -/
def sub_ (bs : List Byte) (off n : Nat) : List Byte := (bs.drop off).take n

/-- A signed number from its two's-complement form in `w` bits. -/
def sint (w v : Nat) : Int :=
  let m := v % 2 ^ w
  if m < 2 ^ (w - 1) then (m : Int) else (m : Int) - (2 ^ w : Nat)

/-- The two's-complement form of a signed number in `w` bits. -/
def unsint (w : Nat) (i : Int) : Nat := (i % ((2 ^ w : Nat) : Int)).toNat

/-- Add with saturation at the largest number of `w` bits. -/
def satAdd (w a b : Nat) : Nat := min (a + b) (2 ^ w - 1)

/-- The numbers below n, rising. -/
def upto (n : Nat) : List Nat := List.range n

/-- The bit positions set in a lane mask, rising (R160). -/
def lanesOf (m : BitVec 32) : List Nat := (List.range 32).filter (fun l => m.getLsbD l)

/-- The mask with the given lanes set. -/
def maskOf (ls : List Nat) : BitVec 32 := ls.foldl (fun m l => m ||| (1#32 <<< l)) 0#32

/-- Byte i of a sector. -/
def sectorByte (d : Sector) (i : Nat) : Byte := d.extractLsb' (8 * i) 8

/-- The 128 bytes of a sector. -/
def sectorBytes (d : Sector) : List Byte := leBytes 128 d.toNat

/-- A sector from its bytes. -/
def ofSectorBytes (bs : List Byte) : Sector := BitVec.ofNat 1024 (leNat bs)

/-- Spread a byte mask over the bits of a sector. -/
def spreadMask (mask : BitVec 128) : Sector :=
  BitVec.ofNat 1024 ((List.range 128).foldl (fun acc i => acc + (if mask.getLsbD i then 255 <<< (8 * i) else 0)) 0)

/-- The bytes of `new` where the mask is set, of `old` elsewhere. -/
def mergeSector (old new : Sector) (mask : BitVec 128) : Sector :=
  let m := spreadMask mask
  (old &&& ~~~m) ||| (new &&& m)

/-- The first element of a list that satisfies a test, and the list without it. -/
def takeFirst {α : Type} (p : α → Bool) : List α → Option (α × List α)
  | [] => none
  | x :: xs => if p x then some (x, xs) else (takeFirst p xs).map (fun r => (r.1, x :: r.2))

/-- Change the element at a position of a list. -/
def modAt {α : Type} (l : List α) (i : Nat) (f : α → α) : List α :=
  match l, i with
  | [], _ => []
  | x :: xs, 0 => f x :: xs
  | x :: xs, i + 1 => x :: modAt xs i f

end Sys2Proof.Machine
end

