-- ==== Sys2Proof/Machine/Ecc.lean ====
section
/-!
DEFINITION. The symbol code of stacked memory (R246-R249): the fields GF(256) and GF(16), the check equations, and what a receiver makes
of the wrong symbols of a codeword.
-/

namespace Sys2Proof.Machine

/-- Multiply by x in GF(256) on the polynomial 0x11D (R247). -/
def gfTwice (a : Nat) : Nat := if 128 ≤ a then (2 * a) ^^^ 0x11D else 2 * a

/-- Product in GF(256). -/
def gfMul (a b : Nat) : Nat := (List.range 8).foldl (fun acc i => gfTwice acc ^^^ (if b.testBit (7 - i) then a else 0)) 0

/-- The power of an element, for exponents below 256: by squaring, from the exponent's highest bit down. -/
def gfPow (a n : Nat) : Nat :=
  (List.range 8).foldl (fun p i => let q := gfMul p p; if n.testBit (7 - i) then gfMul q a else q) 1

/-- α to the k. -/
def gfAlpha (k : Nat) : Nat := gfPow 2 (k % 255)

/-- The inverse of a nonzero element. -/
def gfInv (a : Nat) : Nat := gfPow a 254

/-- The logarithm to the base α of a nonzero element (R248). -/
def gfLog (a : Nat) : Nat := ((List.range 255).find? (fun j => gfAlpha j == a)).getD 255

/-- The element of GF(256) that a symbol value stands for: b0 + b1 γ + b2 γ^2 + b3 γ^3 with γ = α^17 (R247). -/
def symElement (v : BitVec 4) : Nat :=
  (List.range 4).foldl (fun a i => if v.getLsbD i then a ^^^ gfAlpha (17 * i) else a) 0

/-- The symbol value of an element of GF(16). -/
def elementSym (e : Nat) : BitVec 4 :=
  BitVec.ofNat 4 (((List.range 16).find? (fun v => symElement (BitVec.ofNat 4 v) == e)).getD 0)

/-- Syndrome i of elements at symbol positions (R248). -/
def syndrome (c : List (Nat × Nat)) (i : Nat) : Nat := c.foldl (fun a p => a ^^^ gfMul p.2 (gfAlpha (i * p.1))) 0

/-- A codeword: 72 symbols that satisfy the four check equations (R247). -/
def isCodeword (c : List (BitVec 4)) : Bool :=
  c.length == 72 && (List.range 4).all (fun i =>
    syndrome (c.zipIdx.map (fun p => (p.2, symElement p.1))) (i + 1) == 0)

/-- The generator of the code, without its leading one and lowest coefficient first: the product over i from 1 to 4 of x - α^i and its conjugate
x - α^16i, whose coefficients lie in GF(16) (R247). -/
def checkGenerator : List Nat :=
  ([1, 16, 2, 32, 3, 48, 4, 64].foldl (fun (p : List Nat) k =>
    (List.range (p.length + 1)).map (fun i => (if i = 0 then 0 else p.getD (i - 1) 0) ^^^ gfMul (gfAlpha k) (p.getD i 0))) [1]).take 8

/-- The check symbols 0-7 of 64 data symbols: the remainder of the data, placed at positions 8 to 71, by the generator, so that the codeword is a
multiple of it and the four check equations hold (R247). -/
def checkSymbols (data : List (BitVec 4)) : List (BitVec 4) :=
  (data.reverse.foldl (fun (r : List Nat) d =>
    let top := r.getD 7 0 ^^^ symElement d
    (List.range 8).map (fun i => (if i = 0 then 0 else r.getD (i - 1) 0) ^^^ gfMul top (checkGenerator.getD i 0)))
    (List.replicate 8 0)).map elementSym

/-- The data symbols of codeword `w` of a sector: that of lane DQ(k) has in bit b the lane's bit in beat b (R246). -/
def dataSymbols (d : Sector) (w : Nat) : List (BitVec 4) :=
  (List.range 64).map (fun k => BitVec.ofNat 4 ((List.range 4).foldl (fun a b => a + putb (d.getLsbD (256 * w + 64 * b + k)) b) 0))

/-- Codeword `w` as a writer sends it: its check symbols, then its data symbols (R246, R247). -/
def codeword (d : Sector) (w : Nat) : List (BitVec 4) := checkSymbols (dataSymbols d w) ++ dataSymbols d w

/-- What the receiver makes of a codeword (R248). -/
inductive Checked where
  | good
  | corrected (pos : Nat) (val : BitVec 4)
  | uncorrectable
deriving DecidableEq, Repr

/-- The check of R248 on the syndromes. -/
def checkSyndromes (s1 s2 s3 s4 : Nat) : Checked :=
  if s1 = 0 ∧ s2 = 0 ∧ s3 = 0 ∧ s4 = 0 then .good
  else if s1 ≠ 0 ∧ s2 ≠ 0 then
    let a := gfMul s2 (gfInv s1)
    let j := gfLog a
    let e := gfMul s1 (gfInv a)
    if j < 72 ∧ gfPow e 16 = e ∧ s3 = gfMul s1 (gfPow a 2) ∧ s4 = gfMul s1 (gfPow a 3) then .corrected j (elementSym e)
    else .uncorrectable
  else .uncorrectable

/-- The check of a codeword whose symbols are wrong by the errors given; a codeword's own syndromes are zero, so only the errors count
(R247, R248). -/
def checkErrors (es : List SymErr) : Checked :=
  let c := es.map (fun e => (e.pos.toNat, symElement e.val))
  checkSyndromes (syndrome c 1) (syndrome c 2) (syndrome c 3) (syndrome c 4)

/-- The errors of one codeword of a sector. -/
def errsOf (es : List SymErr) (w : Nat) : List SymErr := es.filter (fun e => e.cw.toNat == w && e.val != 0)

/-- What is found on the four codewords of a sector. -/
def checkSector (es : List SymErr) : List Checked := (List.range 4).map (fun w => checkErrors (errsOf es w))

/-- Whether a sector holds an uncorrectable codeword (R249). -/
def errsUncorrectable (es : List SymErr) : Bool := es != [] && (checkSector es).any (· == .uncorrectable)

/-- Symbol positions corrected in a sector, one for each corrected codeword (R251). -/
def correctedAt (es : List SymErr) : List Nat :=
  if es = [] then [] else (checkSector es).filterMap (fun c => match c with | .corrected j _ => some j | _ => none)

/-- The data bits that one wrong symbol changes: lane DQ(pos - 8), bit b in beat b of codeword w (R246). -/
def symFlip (w pos : Nat) (v : BitVec 4) : Nat :=
  if pos < 8 then 0 else (List.range 4).foldl (fun a b => if v.getLsbD b then a + 2 ^ (256 * w + 64 * b + (pos - 8)) else a) 0

/-- The data bits still wrong in a sector after correction. -/
def residualFlip (es : List SymErr) : Sector :=
  if es = [] then 0 else
  (List.range 4).foldl (fun acc w =>
    let mine := errsOf es w
    let left : List SymErr := match checkErrors mine with
      | .corrected j v => mine ++ [{ cw := BitVec.ofNat 2 w, pos := BitVec.ofNat 7 j, val := v }]
      | _ => mine
    left.foldl (fun acc e => acc ^^^ BitVec.ofNat 1024 (symFlip w e.pos.toNat e.val)) acc) 0

end Sys2Proof.Machine
end

