-- ==== Sys2Proof/Machine/Parts.lean ====
section
/-!
DEFINITION. The parts of the machine state that belong to the clusters: thread groups, Press, Stream Engine, cluster store; and the
translation structures and outstanding requests that every requester shares.  Plain data only.
-/

namespace Sys2Proof.Machine

/-- A message on its way: sent by one unit, not yet taken up by the other (log 6). -/
inductive Msg where
  | mem (m : MemMsg)
  | coh (m : CohMsg)
  | etmos (p : BitVec 4) (m : EMsg)
deriving DecidableEq, Repr

/-- Why a source sent a request: what its answer is for (R224, R226). -/
inductive Purpose where
  /-- A cluster-cache sector fill for waiting lane loads (R207). -/
  | fill
  /-- A sector fill whose line has been invalidated since it was sent: it answers the loads that wait for it and leaves nothing valid
  (R192, R198). -/
  | fillOnce
  /-- A lane's write-through store (R196). -/
  | laneStore (g : BitVec 6) (lane : BitVec 5)
  /-- A lane's memory atomic or lock (R178). -/
  | laneAtomic (g : BitVec 6) (lane : BitVec 5)
  /-- A dh.deadhead (R240). -/
  | laneDead (g : BitVec 6)
  /-- A write-back of the cluster cache (R208). -/
  | writeBack
  /-- A Press Aux write (R77). -/
  | press (ticket : BitVec 8)
  /-- A Stream Engine, fill-unit or flush write (R102, R115). -/
  | stream (ticket : BitVec 8)
  /-- A walker's read for the walk of a context's page (R294); `seq` tells a walk from one begun anew. -/
  | walk (x : BitVec 12) (page : BitVec 48) (seq : Nat)
  /-- A copy engine's read of `n` bytes at its next byte (R318). -/
  | copyRead (n : Nat)
  /-- A copy engine's write or reduction of `n` bytes at its next byte (R318). -/
  | copyWrite (n : Nat)
  /-- An uncached access of a Zawick core (R270). -/
  | coreAccess
  /-- The access at the head of a window (R308, R371). -/
  | window (win : BitVec 12)
deriving DecidableEq, Repr

/-- An outstanding request of the module (R226, R230): the message as sent, what its answer is for, whether it waits to be sent again
after a Retry (R235, R238), and whether its source still holds it for want of a tag (R230). -/
structure Req where
  msg : MemMsg
  why : Purpose
  again : Bool := false
  held : Bool := false
deriving DecidableEq, Repr

/-- A look-aside entry (R296): a region of 2^lg bytes of a context's virtual space and where it lies. -/
structure TlbEnt where
  ctx : BitVec 12
  gen : BitVec 4
  lo : BitVec 48
  lg : BitVec 6
  base : BitVec 48
  pin : Bool
  r : Bool
  w : Bool
  x : Bool
  remote : Bool
  slot : BitVec 128
deriving DecidableEq, Repr

/-- A walk-cache entry (R296): the table that a pointer entry of a level names. -/
structure WcEnt where
  ctx : BitVec 12
  gen : BitVec 4
  level : BitVec 2
  lo : BitVec 48
  table : BitVec 48
deriving DecidableEq, Repr

/-- A walk in flight (R291, R294): who asked, the level to be read next, the table; `leaf` is the remote leaf whose outbound slot is
being read (R305); `seq` numbers the walks begun. -/
structure Walk where
  src : BitVec 12
  ctx : BitVec 12
  gen : BitVec 4
  va : BitVec 48
  level : BitVec 2
  table : BitVec 48
  leaf : Option (BitVec 64)
  leafLevel : BitVec 2
  seq : Nat
deriving DecidableEq, Repr

/-- How a walk failed, kept for the access that waits for it: reason of R302 and the level. -/
structure WalkFail where
  src : BitVec 12
  ctx : BitVec 12
  page : BitVec 48
  reason : BitVec 4
  level : BitVec 2
deriving DecidableEq, Repr

/-! ### Thread groups (R126-R156) -/

/-- State of a convergence-stack entry (R134). -/
inductive EntryState where
  | ready
  | yielded
  | waiting
deriving DecidableEq, Repr

/-- What a waiting entry waits for (R135, R167, R185). -/
inductive WaitFor where
  | nothing
  | press (tickets : List (BitVec 8))
  | stream (tickets : List (BitVec 8))
  | tokens (ts : List (BitVec 6 × BitVec 16))
deriving DecidableEq, Repr

/-- Kind of an outstanding lane access. -/
inductive AccKind where
  | load
  | store
  | atomic
  | dead
deriving DecidableEq, Repr

/-- A lane access that is outstanding for an entry: its instruction, the lanes that issued it, the lanes still to be answered with their
addresses, the values already returned, and the lanes that failed with the error code (R146, R205).  Lanes that reach its PC meanwhile have
not issued it (R136). -/
structure LaneAcc where
  kind : AccKind
  insn : BitVec 32
  mask : BitVec 32
  wait : List (BitVec 5 × BitVec 48 × BitVec 48)
  vals : Tbl Word
  fails : List (BitVec 5 × BitVec 48 × BitVec 12)
deriving DecidableEq, Repr

/-- A convergence-stack entry (R134). -/
structure Entry where
  pc : BitVec 48
  mask : BitVec 32
  st : EntryState
  wait : WaitFor := .nothing
  out : Option LaneAcc := none
  issued : Bool := false
  walking : Bool := false
deriving DecidableEq, Repr

/-- A reason to park that has not yet made its record (R145, R148). -/
structure ParkCause where
  cause : BitVec 8
  reason : BitVec 8 := 0
  ticket : Option (BitVec 8) := none
  addr : Option (BitVec 48) := none
  flanes : BitVec 32 := 0
  rs : Bool := true
  pc : BitVec 48 := 0
  mask : BitVec 32 := 0
  insn : BitVec 32 := 0
  entries : BitVec 6 := 0
  notify : Bool := true
deriving DecidableEq, Repr

/-- Status of a group (R153).  `idle` is a slot the kernel does not use. -/
inductive GroupStatus where
  | running
  | parked
  | retired
  | discarded
  | idle
deriving DecidableEq, Repr

/-- A thread group.  Registers are tables keyed by lane * 32 + register; fcsr is keyed by lane. -/
structure Group where
  status : GroupStatus := .idle
  x : Tbl Word := []
  f : Tbl (BitVec 32) := []
  fcsr : Tbl (BitVec 32) := []
  instret : Tbl Word := []
  stack : List Entry := []
  park : BitVec 256 := 0
  parking : Option ParkCause := none
  causes : List ParkCause := []
  acqFails : BitVec 17 := 0
  livelock : Bool := false
deriving DecidableEq, Repr

/-! ### The Press (R66-R93) -/

/-- Where a Press operation stands. -/
inductive OpPhase where
  | queued
  | array
  | arrayDone
  | finishing
  | writing
deriving DecidableEq, Repr

/-- Where an own exponent pass stands (R80). -/
inductive ExpPhase where
  | unneeded
  | needed
  | running
  | staged
deriving DecidableEq, Repr

/-- A queued Press operation: ticket, group, descriptor, phases, slot of its finish, and the values that a
stand-alone exponent pass has formed and its finish writes, and whether its tile has been given up while it runs (R90, R92). -/
structure PressOp where
  ticket : BitVec 8
  group : BitVec 6
  desc : BitVec 256
  phase : OpPhase := .queued
  exp : ExpPhase := .unneeded
  slot : BitVec 2 := 0
  formed : Tbl (BitVec 16) := []
  orphan : Bool := false
deriving DecidableEq, Repr

/-- An accumulator element with its class tag and NaN origin (R49, R50). -/
structure AccEl where
  val : BitVec 96 := 0
  tag : BitVec 2 := 0
  org : Bool := false
deriving DecidableEq, Repr

/-- Mode of an accumulator buffer (R71). -/
inductive BufMode where
  | none
  | exact
  | fp32
  | slice
deriving DecidableEq, Repr

/-- What a buffer holds: mode, owner, products per element, records merged, its shape, and whether its window dropped a bit. -/
structure BufState where
  mode : BufMode := .none
  owner : Option (BitVec 6) := none
  count : BitVec 40 := 0
  merged : BitVec 16 := 0
  mm1 : BitVec 7 := 0
  nm1 : BitVec 7 := 0
  clip : Bool := false
deriving DecidableEq, Repr

/-- State of a finished-tile slot (R84, R85). -/
inductive SlotState where
  | free
  | filling
  | visible
  | taken
deriving DecidableEq, Repr

/-- A finished-tile slot (R84). -/
structure Slot where
  st : SlotState := .free
  hdr : BitVec 64 := 0
  status : BitVec 64 := 0
  bytes : Tbl Byte := []
deriving DecidableEq, Repr

/-- The Press of a cluster.  `window` keeps, for a tile of slice mode, the anchor entries with which its sums were formed (R58). -/
structure Press where
  ops : List PressOp := []
  nextTicket : BitVec 8 := 0
  ended : Tbl Bool := []
  acc : Tbl AccEl := []
  buf0 : BufState := {}
  buf1 : BufState := {}
  anchor : Tbl (BitVec 16) := []
  window : Tbl (BitVec 16) := []
  staging : Tbl (BitVec 16) := []
  slots : List Slot := [{}, {}, {}, {}]
  nextSlot : BitVec 2 := 0
  order : List (BitVec 2) := []
  credits : BitVec 3 := 4
  creditsComing : BitVec 3 := 0
deriving DecidableEq, Repr

/-! ### The Stream Engine (R94-R126) -/

/-- A Sprig record as read at issue (R103). -/
structure Sprig where
  ks : List Word := []
  ins : List (BitVec 32) := []
deriving DecidableEq, Repr

/-- Where a stream, fill or flush stands. -/
inductive StreamPhase where
  | queued
  | executing
  | writing
deriving DecidableEq, Repr

/-- A stream in the stream queue: row vectors loaded (keyed input * 128 + row) and whether their read met uncorrectable data, status
and row records as the stream's last read left them. -/
structure StreamOp where
  ticket : BitVec 8
  group : BitVec 6
  desc : BitVec 512
  s1 : Sprig
  s2 : Sprig := {}
  rows : Option (Tbl Word) := none
  rowsBad : Bool := false
  phase : StreamPhase := .queued
  status : BitVec 64 := 0
  records : List Byte := []
deriving DecidableEq, Repr

/-- A fill or a flush in the fill queue (R115), and the bytes that one in progress has read. -/
structure FillOp where
  ticket : BitVec 8
  group : BitVec 6
  flush : Bool
  va : Word
  off : BitVec 18
  len : BitVec 19
  phase : StreamPhase := .queued
  data : List Byte := []
deriving DecidableEq, Repr

/-- The Stream Engine of a cluster. -/
structure StreamEngine where
  ops : List StreamOp := []
  fills : List FillOp := []
  nextTicket : BitVec 8 := 0
  ended : Tbl Bool := []
  oc : Tbl Byte := []
  ocBad : List Nat := []
  side0 : Tbl Word := []
  side1 : Tbl Word := []
  pend0 : Tbl Word := []
  pend1 : Tbl Word := []
  rowf : Tbl (BitVec 32) := []
deriving DecidableEq, Repr

/-! ### The cluster -/

/-- A line of the cluster cache (R207, R212): way, line address, sector valid bits, sectors being fetched, dirty bytes and data by
sector. -/
structure CLine where
  set : BitVec 8
  way : BitVec 3
  line : BitVec 37
  valid : BitVec 16
  filling : BitVec 16
  age : BitVec 2
  hint : BitVec 2
  dirty : Tbl (BitVec 128)
  data : Tbl Sector
deriving DecidableEq, Repr

/-- The kernel that runs on a cluster (R315, R317, R138, R119). -/
structure Kernel where
  queue : BitVec 14
  id : BitVec 32
  ctx : BitVec 12
  gen : BitVec 4
  entry : BitVec 48
  arg : Word
  groupCfg : BitVec 64
  sideCfg : BitVec 16
  rep : Bool
deriving DecidableEq, Repr

/-- An increment by dh.tksig on its way to a token (R181, R184): the signalling cluster, group and lane, the token, the amount. -/
structure TokenInc where
  cluster : BitVec 7
  group : BitVec 6
  lane : BitVec 5
  token : BitVec 6
  amount : BitVec 16
deriving DecidableEq, Repr

/-- Clock state of a cluster (R398). -/
inductive ClusterClock where
  | running
  | clockGated
  | powerGated
deriving DecidableEq, Repr

/-- A logical cluster.  `xlat` are the translations that accesses which still wait for others have obtained, by who makes the access: a group
by its number, 64 the Press in an array phase, 65 in a finish, 66 the Stream Engine, 67 the fill unit; `waits` are the pages whose walks
each of them waits for (R294).  `spilled` says that its spill slot holds its state for this kernel (R37). -/
structure Cluster where
  runList : List Kernel := []
  ready : Bool := false
  started : Bool := false
  acked : Bool := false
  kernel : Option Kernel := none
  clock : ClusterClock := .clockGated
  resident : Bool := true
  spilled : Bool := false
  groups : Tbl Group := []
  nextGroup : BitVec 6 := 0
  ls : Tbl Byte := []
  lsBad : List Nat := []
  frame : Tbl Byte := []
  cache : List CLine := []
  tokens : Tbl (BitVec 16) := []
  incoming : List TokenInc := []
  tlb : List TlbEnt := []
  xlat : List (Nat × TlbEnt) := []
  waits : List (Nat × Nat) := []
  press : Press := {}
  stream : StreamEngine := {}
  eventDone : Bool := false
  num : BitVec 5 := 0
  discarded : Bool := false
  accBad : Bool := false
  cycle : Word := 0
deriving DecidableEq, Repr

def Group.reset : Group := {}
def Cluster.reset : Cluster := {}
def CLine.wayKey (l : CLine) : Nat := l.set.toNat * 8 + l.way.toNat

end Sys2Proof.Machine
end

