-- ==== Sys2Proof/Machine/Units.lean ====
section
/-!
DEFINITION. The parts of the machine state outside the clusters: links and ports, the Quire and the channels, the Zawick cores and
their directory, contexts, queues, copy engines, windows, the host link, the fabric, power, digests, start-up and identity.
Plain data only.
-/

namespace Sys2Proof.Machine

/-! ### Flit transport of a link end or an Etmos port (R13-R27, R367, R368) -/

/-- A payload flit held for replay: sequence number, First field and its fifteen units. -/
structure HeldFlit where
  seq : BitVec 16
  first : BitVec 4
  units : List (BitVec 128)
deriving DecidableEq, Repr

/-- One end of a flit link or port: next sequence number, replay buffer, messages that wait for credits (class and units), units ready to
fill flits (each with whether a message starts in it), credits held, last totals seen and totals freed by class (links 4, ports 8; an empty
list is all zero), the pair of classes whose totals the next flit of a port carries, the sequence number expected, the number named by a
retry request that is still out, the units of a message that is not complete, errors counted, consecutive retry requests and the number
they named, time of the last ordered retrain, whether a retrain is ordered, whether a credit is 32 bytes, and the flits put on the
wire. -/
structure FlitEnd where
  txSeq : BitVec 16 := 0
  replay : List HeldFlit := []
  waiting : List (BitVec 3 × List (BitVec 128)) := []
  txUnits : List (BitVec 128 × Bool) := []
  credits : List Nat := []
  seen : List Nat := []
  freed : List Nat := []
  pair : BitVec 2 := 0
  rxSeq : BitVec 16 := 0
  retryFor : Option (BitVec 16) := none
  rxUnits : List (BitVec 128) := []
  errors : Nat := 0
  again : BitVec 4 := 0
  againSeq : BitVec 16 := 0
  lastRetrain : Option Word := none
  ordered : Bool := false
  wide : Bool := false
  wire : List Flit := []
deriving DecidableEq, Repr

/-- Why a die-to-die link failed (R26, R27, R30, R32). -/
inductive LinkWhy where
  | none
  | laneMarked
  | incompatibleStepping
  | secondRetrain
  | loopBack
deriving DecidableEq, Repr

/-- One end of a die-to-die link (R29, R31): status register, own and peer capability words, whether the port has passed its loop-back since
the cold start (R33), and why the link failed (R30). -/
structure LinkEnd where
  status : Word := 0
  cap : Word := 0
  peerCap : Word := 0
  tested : Bool := false
  why : LinkWhy := .none
  flit : FlitEnd := {}
deriving DecidableEq, Repr

/-! ### The Quire (R209-R244) -/

/-- A Quire line (R211): line address (PA bits [47:11]), sector bits, sectors whose stored bits fail their check (R243), sectors being fetched, age, lock, hint, data by sector, and
whether its eviction waits for recalls (R272). -/
structure QLine where
  present : Bool := false
  line : BitVec 37 := 0
  valid : BitVec 16 := 0
  dirty : BitVec 16 := 0
  lost : BitVec 16 := 0
  weak : BitVec 16 := 0
  filling : BitVec 16 := 0
  age : BitVec 2 := 0
  lock : Bool := false
  busy : Bool := false
  evicting : Bool := false
  hint : BitVec 2 := 0
  data : Tbl Sector := []
deriving DecidableEq, Repr

/-- A sequential-store tracker (R222). -/
structure SeqTracker where
  src : BitVec 12
  next : BitVec 48
  run : BitVec 32
deriving DecidableEq, Repr

/-- An ordered-reduction tracker (R234). -/
structure RedTracker where
  pa : BitVec 48
  ctx : BitVec 12
  redId : BitVec 32
  count : BitVec 24
  next : BitVec 24
deriving DecidableEq, Repr

/-- A maintenance command in progress (R216, R217): its range of lines, the next line's index, lines processed and lines not locked per
half, whether the next line found no victim (R217), whether a half's MaintDone has gone, and who asked. -/
structure MaintJob where
  op : BitVec 4
  hint : BitVec 2
  start : BitVec 48
  count : BitVec 32
  next : BitVec 32 := 0
  doneW : BitVec 32 := 0
  doneE : BitVec 32 := 0
  unlockedW : BitVec 32 := 0
  unlockedE : BitVec 32 := 0
  noVictim : Bool := false
  sentW : Bool := false
  sentE : Bool := false
  src : BitVec 12
  tag : BitVec 16
deriving DecidableEq, Repr

/-- A directory entry (R271). -/
structure DirEnt where
  dstate : BitVec 2 := 0
  owner : BitVec 6 := 0
  sharers : BitVec 64 := 0
deriving DecidableEq, Repr

/-- What a coherence transaction serves: a core request, a non-coherent request (R282), a maintenance command that keeps lines (`down`)
or not (R282), or a recall of a victim (R272). -/
inductive TransFor where
  | core (m : CohMsg)
  | noncoh (m : MemMsg)
  | maint (down : Bool)
  | recall
deriving DecidableEq, Repr

/-- An open transaction at a home bank (R276-R279, R282): cores whose answers it awaits and has asked for, whether the owner supplies the
data, the state granted, held write-backs. -/
structure Transaction where
  pa : BitVec 48
  what : TransFor
  waitFor : List (BitVec 6)
  snooped : List (BitVec 6)
  ownerSends : Bool := false
  granted : Option (BitVec 2) := none
  wbSlot : List CohMsg := []
deriving DecidableEq, Repr

/-- A starvation record of a bank (R281). -/
structure Starved where
  src : BitVec 12
  tag : BitVec 16
  pa : BitVec 48
  age : BitVec 4
deriving DecidableEq, Repr

/-- A one-step write that waits: its sector, the bytes it writes, the data, and its context if it carries one. -/
structure LateWrite where
  pa : BitVec 48
  mask : BitVec 128
  data : Sector
  ctx : Option (BitVec 12)
deriving DecidableEq, Repr

/-- A Quire half with its directory.  `queue` are the requests in the queues of its banks (R227, R228), `wait` those that have left them and
wait for a fetch or another request; `noted` are the requests of both that have made their access to a line once already (R212, R242);
`late` are one-step writes that wait for an ordered reduction or a coherent transaction (R238, R282). -/
structure QHalf where
  lines : Tbl QLine := []
  part : Word := 0
  scratch : Tbl Sector := []
  around : List (BitVec 48 × Sector) := []
  seqs : List SeqTracker := []
  queue : List MemMsg := []
  wait : List MemMsg := []
  noted : List MemMsg := []
  late : List LateWrite := []
  reds : List RedTracker := []
  staged : List MemMsg := []
  filter : List (BitVec 37 × BitVec 12) := []
  bad : List Nat := []
  dir : Tbl DirEnt := []
  trans : List Transaction := []
  starved : Tbl (Option Starved) := []
deriving DecidableEq, Repr

/-! ### Channels (R245-R267) -/

/-- A line fetch in a channel (R218, R262): the sectors still to be delivered, in order. -/
structure Fetch where
  sectors : List (BitVec 48)
  src : BitVec 12
  ctx : BitVec 12
  issued : Bool
deriving DecidableEq, Repr

/-- A memory channel: queues, when each symbol position was corrected (newest first, the last 1,024), positions flagged, refresh commands
each bank is behind, the row open in each bank (R262), the scrubber's line index, factory lane map, training seeds, standing wrong symbols of
its dies, whether it failed before the cold start (R258). -/
structure Channel where
  status : Word := 0
  fetches : List Fetch := []
  writes : List (BitVec 48 × Sector) := []
  drainMode : Bool := false
  corr : Tbl (List Word) := []
  flagged : List (BitVec 7) := []
  owed : Tbl Int := []
  rows : Tbl (Option Nat) := []
  scrub : BitVec 22 := 0
  factory : List (BitVec 7) := []
  seeds : List Byte := []
  dieErrs : Tbl (List SymErr) := []
  failed : Bool := false
deriving DecidableEq, Repr

/-! ### Zawick cores (R268-R288) -/

/-- State of an L2 sector (R269); I is absence. -/
inductive L2State where
  | invalid
  | shared
  | exclusive
  | modified
deriving DecidableEq, Repr

/-- An L2 sector. -/
structure L2Sector where
  st : L2State := .invalid
  data : Sector := 0
  bad : Bool := false
deriving DecidableEq, Repr

/-- An outstanding coherent request of a core (R278, R280); `bad` says that its data has failed its check on the way (R287). -/
structure CoreReq where
  tag : BitVec 16
  op : BitVec 8
  pa : BitVec 48
  age : BitVec 4
  noExcl : Bool
  grant : Option (BitVec 3)
  data : Option Sector
  bad : Bool := false
  again : Bool
deriving DecidableEq, Repr

/-- A write-back buffer entry (R269, R279); `bad` is its Lost mark (R287). -/
structure WbEnt where
  tag : BitVec 16
  pa : BitVec 48
  data : Sector
  keep : Bool
  bad : Bool := false
deriving DecidableEq, Repr

/-- An uncached access of the instruction that a core attempts (R270): its address, whether it writes, with which mask and data, and once
answered the error code and the sector read. -/
structure Uncached where
  pa : BitVec 48
  write : Bool := false
  mask : BitVec 128 := 0
  data : Sector := 0
  answer : Option (BitVec 12 × Sector) := none
deriving DecidableEq, Repr

/-- A Zawick core: RISC-V architectural state, its L1 instruction and data caches (lines by sector number, R269) and its L2.  `mode` is 0 U, 1 S,
3 M, and `virt` the virtualization mode.  `failed` names
sectors whose request was answered with an error, until the access that asked for them faults (R287); `wbRetry` keeps each WbFull
that has not been acknowledged, and whether a Retry has come for it (R280). -/
structure ZCore where
  pc : Word := 0
  x : Tbl Word := []
  f : Tbl Word := []
  v : Tbl (BitVec 256) := []
  csr : Tbl Word := []
  mode : BitVec 2 := 3
  virt : Bool := false
  res : Option (BitVec 48) := none
  wfi : Bool := false
  l1i : List (Nat × Sector) := []
  l1d : List (Nat × Sector) := []
  l2 : Tbl L2Sector := []
  wb : List WbEnt := []
  reqs : List CoreReq := []
  wbRetry : List (CohMsg × Bool) := []
  failed : List (BitVec 48) := []
  unc : List Uncached := []
deriving DecidableEq, Repr

/-! ### Contexts, queues, copy engines, windows (R289-R344) -/

/-- The registers of a context (R290, R332, R63, R244), the sectors counted toward the next WrAround unit, whether a reset is under way, and
whether it waits to advance the generation (R341). -/
structure Ctx where
  xlat : BitVec 128 := 0
  status : Word := 0
  num : Word := 0
  counter : Word := 0
  wrAcc : BitVec 10 := 0
  resetting : Bool := false
  waitGen : Bool := false
deriving DecidableEq, Repr

/-- The launch record of a queue (R342) and the kernel's progress. -/
structure LaunchRec where
  entry : BitVec 512 := 0
  id : BitVec 32 := 0
  ctx : BitVec 12 := 0
  gen : BitVec 4 := 0
  replays : BitVec 4 := 0
  state : BitVec 8 := 0
  complete : BitVec 128 := 0
  firstStart : Word := 0
  lastStart : Word := 0
  num : BitVec 5 := 0
  discarded : Bool := false
  withdrawn : Bool := false
deriving DecidableEq, Repr

/-- A hardware queue: its state register (R314), rings (R331, R361), entries being fetched and fetched, running entry, since when the entry at
Head waits for its stamp (R322), and launch record. -/
structure Queue where
  reg : BitVec 128 := 0
  ring : BitVec 48 := 0
  ringLog2 : BitVec 4 := 0
  cpl : Word := 0
  cplHost : Bool := false
  cplLog2 : BitVec 4 := 0
  suspended : Bool := false
  inFetch : Nat := 0
  fetched : List (BitVec 512) := []
  running : Option (BitVec 512) := none
  stampAt : Option Word := none
  dispatched : Bool := false
  started : Bool := false
  launch : LaunchRec := {}
  resetTail : Option (BitVec 16) := none
deriving DecidableEq, Repr

/-- A copy engine (R300-R304, R318): the transfer in progress, the bytes it has performed, those it has read and not yet written, and the
status with which it ends early. -/
structure CopyEngine where
  todo : List (BitVec 14) := []
  queue : Option (BitVec 14) := none
  entry : BitVec 512 := 0
  done : BitVec 40 := 0
  held : List Byte := []
  ends : Option (BitVec 8) := none
  stopped : Bool := false
  record : BitVec 256 := 0
  recordWaits : Bool := false
  rereads : BitVec 3 := 0
  halt : Option (BitVec 8) := none
  tlb : List TlbEnt := []
deriving DecidableEq, Repr

/-- A window access at this module (R308, R371): its window, the Etmos port it came by or none for the host, the message, direction (R301),
offset, number of bytes, data of a write; once translated its physical address, the bytes read and the first error answered. -/
structure HeldAccess where
  win : BitVec 12
  port : Option (BitVec 4)
  msg : EMsg
  dir : BitVec 2
  off : BitVec 40
  n : Nat
  bytes : List Byte
  pa : Option (BitVec 48) := none
  got : Tbl Byte := []
  code : BitVec 12 := 0
deriving DecidableEq, Repr

/-- An outstanding window request of this module, under a context and its generation (R341, R371). -/
structure WinReq where
  ctx : BitVec 12
  gen : BitVec 4
  tag : BitVec 16
  engine : BitVec 6
  node : BitVec 24
  win : BitVec 12
  off : Nat
  n : Nat
  dir : BitVec 2
  va : BitVec 48
deriving DecidableEq, Repr

/-! ### Host link (R345-R363) -/

/-- One posted write of the host-bound stream (R349); `msi` is the vector of an MSI-X write. -/
structure HostWrite where
  addr : Word
  bytes : List Byte
  msi : Option (BitVec 5) := none
deriving DecidableEq, Repr

/-- A host aperture (R353). -/
structure HostAperture where
  valid : Bool := false
  base : Word := 0
  length : BitVec 28 := 0
deriving DecidableEq, Repr

/-- An MSI-X table entry as PCIe defines it. -/
structure MsixEnt where
  addr : Word := 0
  data : BitVec 32 := 0
  masked : Bool := true
deriving DecidableEq, Repr

/-- What the host has sent and the endpoint has not yet taken, since it grants no credits (R403): a doorbell, another write, a read. -/
inductive HostOp where
  | doorbell (off : BitVec 26) (value : Word)
  | write (place : HostPlace) (bytes : List Byte)
  | read (bar : BitVec 3) (off : BitVec 40) (len : BitVec 10)
deriving DecidableEq, Repr

/-- The host-link function: the status page's registers (R350), the settings of Host attach, the stream of posted writes and how many of
them have entered the link (R349, R353), apertures, MSI-X, the data of the last read and whether that read was answered with Retry
Status (R453), the configuration space by dwords (R345, R347), whether the link stands in L1, whether a TLP of the host has called it out of
L1, and what waits to be taken (R403). -/
structure HostLink where
  moduleId : Word := 0
  attach : BitVec 2 := 0
  attachGen : BitVec 8 := 0
  dropped : Word := 0
  hostReads : Word := 0
  evRing : Word := 0
  evLog2 : BitVec 5 := 0
  startSeq : Word := 0
  modUs : BitVec 8 := 0
  stream : List HostWrite := []
  apertures : Tbl HostAperture := []
  msix : Tbl MsixEnt := []
  pending : BitVec 32 := 0
  holdOff : BitVec 32 := 0
  holdDue : BitVec 32 := 0
  readData : List Byte := []
  readRetry : Bool := false
  entered : Nat := 0
  cfg : Tbl (BitVec 32) := []
  l1 : Bool := false
  called : Bool := false
  held : List HostOp := []
deriving DecidableEq, Repr

/-- The event log (R356): next Seq, oldest Seq, records by slot. -/
structure EventLog where
  next : Word := 1
  oldest : Word := 1
  log : Tbl (BitVec 512) := []
deriving DecidableEq, Repr

/-! ### Etmos (R364-R396) -/

/-- A session of the attested handshake (R384, R385): the steps of each end by their bytes, own ephemeral key and nonce, the peer's nonce,
ephemeral and identity keys, keys, salts and counters of both directions, the key phase, and whether it is up. -/
structure Session where
  mine : List (List Byte) := []
  theirs : List (List Byte) := []
  priv : BitVec 384 := 0
  nonce : BitVec 256 := 0
  peerNonce : BitVec 256 := 0
  peerKey : BitVec 768 := 0
  idKey : BitVec 768 := 0
  keyTx : BitVec 256 := 0
  keyRx : BitVec 256 := 0
  saltTx : BitVec 32 := 0
  saltRx : BitVec 32 := 0
  finTx : BitVec 384 := 0
  ctrTx : Word := 0
  ctrRx : Word := 0
  part : List Byte := []
  phase : Bool := false
  up : Bool := false
deriving DecidableEq, Repr

/-- An Etmos port: status register, port record, flit end, the messages that wait for credits or for a sleeping port, in order and not yet
protected (R368, R403), session and the one that a new handshake builds beside it, when the last unauthentic messages were dropped (R385), whether
the port sleeps (R403), whether the peer was told of the own sleep (R402), link delay and the probe sent. -/
structure EPort where
  status : Word := 0
  record : BitVec 32 := 0
  flit : FlitEnd := {}
  out : List EMsg := []
  sess : Session := {}
  next : Option Session := none
  drops : List Word := []
  asleep : Bool := false
  sleepTold : Bool := false
  peerModule : Word := 0
  delay : Int := 0
  probeT1 : Option Word := none
deriving DecidableEq, Repr

/-- A job gate (R390-R394): its register, context and queues, start count, guard, and at the root the members and those that have
acknowledged. -/
structure Gate where
  reg : Word := 0
  ctx : BitVec 12 := 0
  queue : BitVec 14 := 0
  countM1 : BitVec 8 := 0
  s : Word := 0
  guard : BitVec 32 := 0
  members : List (BitVec 24) := []
  acks : List (BitVec 24) := []
  root : Bool := false
deriving DecidableEq, Repr

/-- A JobArm that this module has forwarded and that is not yet confirmed or aborted (R392): job, root, start, ports. -/
structure JobForward where
  job : BitVec 32
  root : BitVec 24
  s : Word
  ports : List (BitVec 4)
deriving DecidableEq, Repr

/-- A pending gathering (R451): class, CommitCount, its bytes. -/
structure PendingGath where
  cls : BitVec 8
  commit : Word
  bytes : List Byte
deriving DecidableEq, Repr

/-- The fabric unit: node register, manager node, where the node table lies in the memory of context 0 (log 22) and the entries cached of it
(R378), counts of misroutes and drops, window requests out, window accesses held, consecutive good syncs, the counter correction still owed and the
ticks since the last (R387), whether the next sync steps the counter after Dormant and how long it is held (R388), the TAI offset, the last PTP Sync,
the times of the last pair, the path delay measured, the Delay_Req sent and the own sequence number (R389), the end-to-end session and the frames taken under it (R386), pending gatherings (R451), the
answers sent in Mgmt frames, and the job arms forwarded (R392). -/
structure Fabric where
  node : Word := 0xFFFFFE0400000000
  manager : BitVec 24 := 0
  nodeBase : BitVec 48 := 0x40000000
  routeCache : List (BitVec 24 × BitVec 256) := []
  misroutes : Word := 0
  drops : Word := 0
  winReqs : List WinReq := []
  held : List HeldAccess := []
  synced : BitVec 5 := 0
  owed : Int := 0
  sinceFix : BitVec 10 := 0
  stepNext : Bool := false
  hold : Nat := 0
  tai : Int := 0
  ptpSync : Option (BitVec 16 × Word) := none
  ptpPair : Option (Int × Word) := none
  ptpDelay : Option Int := none
  ptpReq : Option (BitVec 16 × Word) := none
  ptpSeq : BitVec 16 := 0
  e2e : Session := {}
  frames : List (List Byte) := []
  pendingGath : List PendingGath := []
  replies : List (List Byte) := []
  forwards : List JobForward := []
deriving DecidableEq, Repr

/-! ### Power (R397-R422) -/

/-- A throttle in force (R413): reason, unit kind, unit, setting, start. -/
structure Throttle where
  reason : BitVec 4
  kind : BitVec 3
  unit : BitVec 8
  setting : BitVec 8
  start : Word
deriving DecidableEq, Repr

/-- A coalesced throttle count (R413): reason, die or base die or Spine, rail, first setting and start, occurrences, total time in force,
and since when it is in force. -/
structure Coalesced where
  reason : BitVec 4
  kind : BitVec 3
  unit : BitVec 8
  rail : BitVec 6
  setting : BitVec 8
  start : Word
  count : Nat
  duration : Nat
  since : Option Word
deriving DecidableEq, Repr

/-- The ROM limit in mA of each rail, under which it runs until the Rail limits record of the Endpaper commits (R473). -/
def romLimits : Tbl (BitVec 32) :=
  [(0, 40000), (1, 40000), (2, 40000), (3, 40000), (4, 10000), (5, 10000), (6, 10000), (7, 10000), (8, 120000), (9, 120000),
   (10, 60000), (11, 60000), (12, 150000), (13, 2000)]

/-- The droop threshold in mV of each compute die, until the Droop thresholds record commits (R473). -/
def romDroop : Tbl (BitVec 32) := [(3, 640), (4, 640), (5, 640), (6, 640)]

/-- Power management: the status register (R422) with Run and Idle told apart when it is read, policy (R406), budget (R407), the steps in
force for the cap and the budgets of the halves in W (R408), rails and droops (R409, R411), temperatures and branch levels (R266, R419), throttles
(R413), Split (R416), sleep (R401-R405) and flow (R421).  `entering` is 2 for Doze, 3 for Dormant; `urgent` says that an emergency stop entered it
(R415); `heldWake` is a wake event that Doze held for want of flow when Dormant was entered (R405); `stopHold` keeps the module in Doze: bit 0 a
stack, bit 1 a compute die, bit 2 the inlet above 55 degrees; `timedMax` and `timedCore` are the clocks of timed mode (R429); `splitWest` and
`splitEast` hold a half at its safe clock, until `splitEnding`, which says that Split has ended, releases it (R417); `noticeWest` and `noticeEast` are
Split notices on their way to a half (R416). -/
structure Power where
  status : Word := 0
  dozeAfter : BitVec 32 := 0
  dormantAfter : BitVec 16 := 0
  gateAfter : BitVec 16 := 0
  clusterMax : BitVec 5 := 20
  coreMax : BitVec 4 := 12
  allowDormant : Bool := false
  granted : BitVec 9 := 0
  grantSeq : Option (BitVec 32) := none
  capClk : BitVec 5 := 20
  capDuty : BitVec 5 := 16
  capCore : BitVec 4 := 12
  withhold : Bool := false
  budgetWest : BitVec 13 := 0
  budgetEast : BitVec 13 := 0
  calmTicks : BitVec 8 := 0
  avgSec : BitVec 12 := 0
  railSteps : Tbl Nat := []
  railLimit : Tbl (BitVec 32) := romLimits
  droopMv : Tbl (BitVec 32) := romDroop
  droops : Tbl Nat := []
  dieTemp : Tbl (BitVec 8) := []
  dieDown : Tbl (BitVec 5) := []
  dieStep : Tbl Word := []
  stackLevel : Tbl (BitVec 3) := []
  throttles : List Throttle := []
  coalesced : List Coalesced := []
  throttleLog : Tbl (BitVec 256) := []
  throttleNext : BitVec 14 := 0
  splitWest : Bool := false
  splitEast : Bool := false
  splitEnding : Bool := false
  beatsWest : BitVec 5 := 0
  beatsEast : BitVec 5 := 0
  westEpoch : BitVec 32 := 0
  eastEpoch : BitVec 32 := 0
  entering : BitVec 2 := 0
  entryStep : BitVec 3 := 0
  wakePending : Bool := false
  heldWake : Bool := false
  urgent : Bool := false
  timedMax : BitVec 5 := 16
  timedCore : BitVec 4 := 8
  noticeWest : Bool := false
  noticeEast : Bool := false
  stopHold : BitVec 3 := 0
  flowSince : Option Word := none
deriving DecidableEq, Repr

/-! ### Determinism and digests (R428-R442) -/

/-- A digest job (R439): its command, context generation, next chunk, chunk digests so far. -/
structure DigestJob where
  cmd : BitVec 512
  gen : BitVec 4
  next : Nat
  digests : List (List Byte)
deriving DecidableEq, Repr

/-! ### Start-up and identity (R443-R467, R470, R472) -/

/-- The security controller, the start-up sequence and the test access: flash and the image read of it, the verified gatherings in force by
class (bytes with signature block, R463), the PUF capture and the identity key, the identity record (R459), measurements (R460),
the update in progress (R462), records held before the event log exists (R452), firmware by target, the test port (R466, R467), SMBus
(R470) with its packet error code, rails and sideband, and the pulses given on WAKE# (R469, R472). -/
structure Security where
  gathers : Tbl (List Byte) := []
  flash : Tbl Byte := []
  imageLen : Nat := 0
  puf : List Byte := []
  idKey : Option (BitVec 384) := none
  grade : BitVec 8 := 0
  steppings : BitVec 56 := 0
  serial : Word := 0
  cert : List Byte := []
  fwSecVer : BitVec 32 := 0
  update : BitVec 4 := 0
  detail : BitVec 4 := 0
  unlock : BitVec 4 := 0
  selfTest : BitVec 7 := 0
  agentFail : BitVec 2 := 0
  meas : Tbl (BitVec 384) := []
  measStage : BitVec 384 := 0
  stagedLen : BitVec 32 := 0
  stagedDigest : BitVec 384 := 0
  staged : Tbl Byte := []
  stagedEnd : BitVec 32 := 0
  full : List Byte := []
  heldEvents : List (BitVec 512) := []
  firmware : Tbl (List Byte) := []
  verified : Bool := false
  ir : BitVec 8 := 0x01
  boundary : List Bool := []
  challenge : BitVec 256 := 0
  tries : BitVec 4 := 3
  lastResult : BitVec 4 := 0
  shiftOut : List Bool := []
  pins : List Bool := []
  ijtagIn : List Bool := []
  alert : BitVec 8 := 0
  alertLow : Bool := false
  smbus : List Byte := []
  modEn : Bool := false
  modPg : Bool := false
  shutting : Bool := false
  railsUp : List (BitVec 4) := []
  wakePulses : Nat := 0
  smbusPec : Byte := 0
deriving DecidableEq, Repr

end Sys2Proof.Machine
end

