-- ==== Sys2Proof/Machine/Pcie.lean ====
section
/-!
DEFINITION. The PCIe configuration space of the host-link function (R345-R347, R478): its dwords after a reset of the function, which
of their bits the host can write, and the settings that the device follows.  The manual gives the options, the BARs and the
identifiers; the places of the registers and their reset values are those of the PCIe family (log 99).
-/

namespace Sys2Proof.Machine

/-- A dword of the configuration space after a reset of the function (R345, R346, R478, log 99): header, power management at 0x40, MSI-X at
0x50, PCI Express at 0x70, AER at 0x100. -/
def cfgReset (d : Nat) : BitVec 32 :=
  match d with
  | 0 => 0x04161DB4
  | 1 => 0x00100000
  | 2 => 0x12000000
  | 4 => 0x4
  | 6 => 0xC
  | 8 => 0x4
  | 11 => 0x1DB4
  | 13 => 0x40
  | 16 => 0x00035001
  | 17 => 0x8
  | 20 => 0x001F7011
  | 21 => 0x1004
  | 22 => 0x2004
  | 28 => 0x00020010
  | 29 => 0x10008002
  | 31 => 0x906
  | 32 => 0x01060000
  | 39 => 0x7E
  | 40 => 0x6
  | 64 => 0x00020001
  | 66 => 0x00400000
  | 67 => 0x00462030
  | 69 => 0xE000
  | _ => 0

/-- The bits of a dword that the host can write (R346, R347, log 99): of a BAR those above its size. -/
def cfgMask (d : Nat) : BitVec 32 :=
  match d with
  | 1 => 0x146
  | 4 => 0xFC000000
  | 5 => 0xFFFFFFFF
  | 7 => 0xFFFFFF00
  | 8 => 0xFFFF0000
  | 9 => 0xFFFFFFFF
  | 17 => 0x3
  | 20 => 0xC0000000
  | 30 => 0xEF
  | 32 => 0x43
  | 40 => 0xF
  | 66 => 0x007FF030
  | 67 => 0x007FF030
  | 69 => 0xF1C1
  | _ => 0

/-- A dword as it stands. -/
def HostLink.cfgWord (h : HostLink) (d : Nat) : BitVec 32 := tget (cfgReset d) h.cfg d

/-- The host writes a byte of the configuration space: bits that it cannot write stay, and of the power states only D0 and D3hot are
taken (R345). -/
def HostLink.cfgByte (h : HostLink) (o : Nat) (b : Byte) : HostLink :=
  let d := o / 4
  let old := h.cfgWord d
  let v := (old &&& ~~~cfgMask d) ||| (setF old (8 * (o % 4) + 7) (8 * (o % 4)) b.toNat &&& cfgMask d)
  if d = 17 ∧ (fld v 1 0 = 1 ∨ fld v 1 0 = 2) then h else { h with cfg := tput (cfgReset d) h.cfg d v }

/-- The function mask of MSI-X: every vector is masked (R360). -/
def HostLink.functionMask (h : HostLink) : Bool := bit (h.cfgWord 20) 30

/-- Max payload size in bytes: 128 to 512, as the host sets (R345). -/
def HostLink.maxPayload (h : HostLink) : Nat := 128 * 2 ^ min 2 (fld (h.cfgWord 30) 7 5)

end Sys2Proof.Machine
end

