-- ==== Sys2Proof/Machine/Crypto.lean ====
section
/-!
DEFINITION. The cryptography that the manual names by its standards (R384, R385, R447-R449, R457, R460): SHA-256 and SHA-384
(FIPS 180-4), HMAC and HKDF (RFC 2104, RFC 5869), AES-256-GCM (FIPS 197, SP 800-38D), ECDSA and ECDH on P-384 (FIPS 186), and LMS
verification (RFC 8554).
-/

namespace Sys2Proof.Machine

/-! ### SHA-2 -/

/-- The largest number whose k-th power is at most v (below 2^bits). -/
def iroot (k v bits : Nat) : Nat :=
  (List.range bits).foldl (fun r i => let t := r + 2 ^ (bits - 1 - i); if t ^ k ≤ v then t else r) 0

/-- The primes below 410: the first eighty. -/
def smallPrimes : List Nat :=
  (List.range 410).filter (fun n => decide (2 ≤ n) && (List.range n).all (fun d => decide (d < 2) || n % d != 0))

/-- The first `w` bits of the fraction of the k-th root of a prime. -/
def rootFraction (k w p : Nat) : Nat := iroot k (p * 2 ^ (k * w)) (w + 10) % 2 ^ w

def sha256K : List Nat := (smallPrimes.take 64).map (rootFraction 3 32)
def sha512K : List Nat := (smallPrimes.take 80).map (rootFraction 3 64)
def sha256Init : List Nat := (smallPrimes.take 8).map (rootFraction 2 32)
def sha384Init : List Nat := ((smallPrimes.drop 8).take 8).map (rootFraction 2 64)

/-- Rotate right in w bits. -/
def ror (w x n : Nat) : Nat := (x >>> n) ||| ((x <<< (w - n)) % 2 ^ w)

/-- Rotation counts of a hash: the two large sigmas and the two small ones (the last of these shifts). -/
structure ShaKind where
  w : Nat
  s0 : Nat × Nat × Nat
  s1 : Nat × Nat × Nat
  g0 : Nat × Nat × Nat
  g1 : Nat × Nat × Nat
deriving DecidableEq, Repr

def sha256Kind : ShaKind := { w := 32, s0 := (2, 13, 22), s1 := (6, 11, 25), g0 := (7, 18, 3), g1 := (17, 19, 10) }
def sha512Kind : ShaKind := { w := 64, s0 := (28, 34, 39), s1 := (14, 18, 41), g0 := (1, 8, 7), g1 := (19, 61, 6) }

def bigSigma (w : Nat) (r : Nat × Nat × Nat) (x : Nat) : Nat := ror w x r.1 ^^^ ror w x r.2.1 ^^^ ror w x r.2.2
def smallSigma (w : Nat) (r : Nat × Nat × Nat) (x : Nat) : Nat := ror w x r.1 ^^^ ror w x r.2.1 ^^^ (x >>> r.2.2)

/-- The message schedule, newest word first (fuel: words to add). -/
def shaSchedule (k : ShaKind) : Nat → List Nat → List Nat
  | 0, ws => ws
  | n + 1, ws =>
    let w := (smallSigma k.w k.g1 (ws.getD 1 0) + ws.getD 6 0 + smallSigma k.w k.g0 (ws.getD 14 0) + ws.getD 15 0) % 2 ^ k.w
    shaSchedule k n (w :: ws)

/-- One block. -/
def shaBlock (k : ShaKind) (ks h : List Nat) (block : List Byte) : List Nat :=
  let bytes := k.w / 8
  let ws0 := ((List.range 16).map (fun i => beNat ((block.drop (i * bytes)).take bytes))).reverse
  let ws := (shaSchedule k (ks.length - 16) ws0).reverse
  let out := (ks.zip ws).foldl (fun v (c, w) =>
    match v with
    | [a, b, d, e, f, g, p, q] =>
      let t1 := q + bigSigma k.w k.s1 f + ((f &&& g) ^^^ ((2 ^ k.w - 1 - f) &&& p)) + c + w
      let t2 := bigSigma k.w k.s0 a + ((a &&& b) ^^^ (a &&& d) ^^^ (b &&& d))
      [(t1 + t2) % 2 ^ k.w, a, b, d, (e + t1) % 2 ^ k.w, f, g, p]
    | _ => v) h
  (h.zip out).map (fun (x, y) => (x + y) % 2 ^ k.w)

/-- Padded message. -/
def shaPad (k : ShaKind) (m : List Byte) : List Byte :=
  let block := 2 * k.w
  let len := k.w / 4
  let zeros := (2 * block - (m.length + 1 + len) % block) % block
  m ++ [0x80] ++ List.replicate zeros 0 ++ beBytes len (8 * m.length)

def shaGo (k : ShaKind) (ks : List Nat) : Nat → List Nat → List Byte → List Nat
  | 0, h, _ => h
  | n + 1, h, m => shaGo k ks n (shaBlock k ks h (m.take (2 * k.w))) (m.drop (2 * k.w))

def shaWords (k : ShaKind) (ks init : List Nat) (m : List Byte) : List Byte :=
  let p := shaPad k m
  (shaGo k ks (p.length / (2 * k.w)) init p).flatMap (fun w => beBytes (k.w / 8) w)

def sha256 (m : List Byte) : List Byte := shaWords sha256Kind sha256K sha256Init m
def sha384 (m : List Byte) : List Byte := (shaWords sha512Kind sha512K sha384Init m).take 48

/-! ### HMAC and HKDF -/

def hmac384 (key m : List Byte) : List Byte :=
  let k := if 128 < key.length then sha384 key else key
  let k := k ++ List.replicate (128 - k.length) 0
  sha384 (k.map (fun b => b ^^^ 0x5C) ++ sha384 (k.map (fun b => b ^^^ 0x36) ++ m))

/-- HKDF-SHA-384: blocks of the expansion. -/
def hkdfBlocks (prk info : List Byte) : Nat → Nat → List Byte → List Byte
  | 0, _, _ => []
  | n + 1, i, prev =>
    let t := hmac384 prk (prev ++ info ++ [BitVec.ofNat 8 i])
    t ++ hkdfBlocks prk info n (i + 1) t

def hkdfExpand (prk info : List Byte) (len : Nat) : List Byte := (hkdfBlocks prk info ((len + 47) / 48) 1 []).take len
def hkdf384 (salt secret info : List Byte) (len : Nat) : List Byte := hkdfExpand (hmac384 salt secret) info len

/-- Bytes of an ASCII string. -/
def asciiBytes (t : String) : List Byte := t.toList.map (fun c => BitVec.ofNat 8 c.toNat)

/-! ### AES-256-GCM -/

/-- Multiply by x in the field of AES. -/
def aesTwice (a : Nat) : Nat := if 128 ≤ a then (2 * a) ^^^ 0x11B else 2 * a
def aesMul (a b : Nat) : Nat := (List.range 8).foldl (fun acc i => aesTwice acc ^^^ (if b.testBit (7 - i) then a else 0)) 0
/-- The power of an element, for exponents below 256: by squaring, from the exponent's highest bit down. -/
def aesPow (a n : Nat) : Nat :=
  (List.range 8).foldl (fun p i => let q := aesMul p p; if n.testBit (7 - i) then aesMul q a else q) 1

/-- The S-box, by its definition. -/
def aesSboxValue (a : Nat) : Nat :=
  let b := aesPow a 254
  let rol := fun (n : Nat) => ((b <<< n) ||| (b >>> (8 - n))) % 256
  b ^^^ rol 1 ^^^ rol 2 ^^^ rol 3 ^^^ rol 4 ^^^ 0x63
def aesSbox : List Nat := (List.range 256).map aesSboxValue
def aesSub (a : Nat) : Nat := aesSbox.getD a 0

/-- Key schedule, newest word first; a word is four bytes (fuel: words to add). -/
def aesExpand : Nat → Nat → List (List Nat) → List (List Nat)
  | 0, _, ws => ws
  | n + 1, i, ws =>
    let prev := ws.getD 0 []
    let old := ws.getD 7 []
    let t := if i % 8 = 0 then
        (prev.drop 1 ++ prev.take 1).zipIdx.map (fun (b, j) => aesSub b ^^^ (if j = 0 then aesPow 2 (i / 8 - 1) else 0))
      else if i % 8 = 4 then prev.map aesSub else prev
    aesExpand n (i + 1) (List.zipWith (fun a b => a ^^^ b) old t :: ws)

/-- Round keys of 16 bytes, in order. -/
def aesKeys (key : List Nat) : List (List Nat) :=
  let w0 := ((List.range 8).map (fun i => (key.drop (4 * i)).take 4)).reverse
  let ws := (aesExpand 52 8 w0).reverse
  (List.range 15).map (fun r => ((ws.drop (4 * r)).take 4).flatten)

def aesShiftRows (s : List Nat) : List Nat := (List.range 16).map (fun i => s.getD ((i + 4 * (i % 4)) % 16) 0)

def aesMixColumns (s : List Nat) : List Nat :=
  (List.range 16).map (fun i =>
    let at_ := fun (j : Nat) => s.getD (i / 4 * 4 + (i + j) % 4) 0
    aesTwice (at_ 0) ^^^ (aesTwice (at_ 1) ^^^ at_ 1) ^^^ at_ 2 ^^^ at_ 3)

/-- Encrypt one block. -/
def aesEncrypt (keys : List (List Nat)) (block : List Nat) : List Nat :=
  let add := fun (s : List Nat) (r : Nat) => List.zipWith (fun a b => a ^^^ b) s (keys.getD r [])
  let s := (List.range 13).foldl (fun s r => add (aesMixColumns (aesShiftRows (s.map aesSub))) (r + 1)) (add block 0)
  add (aesShiftRows (s.map aesSub)) 14

/-- Product in GF(2^128) as GCM orders its bits: the first bit of the first byte is the coefficient of 1. -/
def ghashMul (x y : Nat) : Nat :=
  ((List.range 128).foldl (fun (zv : Nat × Nat) i =>
    let z := if x.testBit (127 - i) then zv.1 ^^^ zv.2 else zv.1
    (z, if zv.2 % 2 = 1 then (zv.2 / 2) ^^^ (0xE1 <<< 120) else zv.2 / 2)) (0, y)).1

/-- Blocks of 16 bytes as numbers, the last padded with zeros (fuel: bytes). -/
def ghashBlocks : Nat → List Byte → List Nat
  | 0, _ => []
  | f + 1, m => if m.isEmpty then [] else beNat ((m.take 16) ++ List.replicate (16 - (m.take 16).length) 0) :: ghashBlocks f (m.drop 16)

def ghash (h : Nat) (aad ct : List Byte) : Nat :=
  (ghashBlocks aad.length aad ++ ghashBlocks ct.length ct ++ [(8 * aad.length) <<< 64 ||| (8 * ct.length)]).foldl
    (fun y b => ghashMul (y ^^^ b) h) 0

def toNats (bs : List Byte) : List Nat := bs.map BitVec.toNat

/-- The key stream XORed onto data, from counter 2 on (fuel: bytes). -/
def gcmStream (keys : List (List Nat)) (nonce : List Byte) : Nat → Nat → List Byte → List Byte
  | 0, _, _ => []
  | f + 1, ctr, m =>
    if m.isEmpty then [] else
    let k := aesEncrypt keys (toNats (nonce ++ beBytes 4 ctr))
    (List.zipWith (fun a b => a ^^^ BitVec.ofNat 8 b) (m.take 16) k) ++ gcmStream keys nonce f (ctr + 1) (m.drop 16)

def gcmTag (keys : List (List Nat)) (nonce aad ct : List Byte) : List Byte :=
  let h := beNat ((aesEncrypt keys (List.replicate 16 0)).map (BitVec.ofNat 8))
  let e := aesEncrypt keys (toNats (nonce ++ beBytes 4 1))
  List.zipWith (fun a b => a ^^^ BitVec.ofNat 8 b) (beBytes 16 (ghash h aad ct)) e

/-- Ciphertext and tag. -/
def gcmSeal (key nonce aad pt : List Byte) : List Byte × List Byte :=
  let keys := aesKeys (toNats key)
  let ct := gcmStream keys nonce pt.length 2 pt
  (ct, gcmTag keys nonce aad ct)

/-- The plaintext where the tag holds. -/
def gcmOpen (key nonce aad ct tag : List Byte) : Option (List Byte) :=
  let keys := aesKeys (toNats key)
  if gcmTag keys nonce aad ct = tag then some (gcmStream keys nonce ct.length 2 ct) else none

/-! ### P-384 -/

def p384P : Nat := 2 ^ 384 - 2 ^ 128 - 2 ^ 96 + 2 ^ 32 - 1
def p384N : Nat := 0xffffffffffffffffffffffffffffffffffffffffffffffffc7634d81f4372ddf581a0db248b0a77aecec196accc52973
def p384B : Nat := 0xb3312fa7e23ee7e4988e056be3f82d19181d9c6efe8141120314088f5013875ac656398d8a2ed19d2a85c8edd3ec2aef
def p384Gx : Nat := 0xaa87ca22be8b05378eb1c71ef320ad746e1d3b628ba79b9859f741e082542a385502f25dbf55296c3a545e3872760ab7
def p384Gy : Nat := 0x3617de4a96262c6f5d9e98bf9292dc29f8f41dbd289a147ce9da3113b5f0b8c00a60b1ce1d7e819d7a431d7c90ea0e5f

/-- A power modulo m, over the bits of the exponent. -/
def powMod (b e m bits : Nat) : Nat :=
  (List.range bits).foldl (fun r i => let q := r * r % m; if e.testBit (bits - 1 - i) then q * b % m else q) 1

/-- The inverse modulo a prime. -/
def invMod (a m : Nat) : Nat := powMod (a % m) (m - 2) m 384

/-- A point of the curve; none is the point at infinity. -/
abbrev CurvePoint := Option (Nat × Nat)

def curveAdd (a b : CurvePoint) : CurvePoint :=
  match a, b with
  | none, b => b
  | a, none => a
  | some (x1, y1), some (x2, y2) =>
    let p := p384P
    if x1 = x2 ∧ (y1 + y2) % p = 0 then none
    else
      let l := if x1 = x2 then (3 * x1 * x1 + (p - 3)) * invMod (2 * y1) p % p
        else (y2 + (p - y1)) * invMod (x2 + (p - x1)) p % p
      let x := (l * l + 2 * p - x1 - x2) % p
      some (x, (l * (x1 + (p - x)) + (p - y1)) % p)

def curveMul (k : Nat) (a : CurvePoint) : CurvePoint :=
  (List.range 384).foldl (fun r i => let d := curveAdd r r; if k.testBit (383 - i) then curveAdd d a else d) none

def curveG : CurvePoint := some (p384Gx, p384Gy)

/-- Whether coordinates lie on the curve. -/
def onCurve (x y : Nat) : Bool :=
  decide (x < p384P ∧ y < p384P) && y * y % p384P == (x * x * x + (p384P - 3) * x + p384B) % p384P

/-- A public key of 96 bytes, x then y, big-endian (R447). -/
def keyPoint (k : List Byte) : Option (Nat × Nat) :=
  let x := beNat (k.take 48)
  let y := beNat ((k.drop 48).take 48)
  if onCurve x y then some (x, y) else none

def pointBytes : CurvePoint → List Byte
  | none => List.replicate 96 0
  | some (x, y) => beBytes 48 x ++ beBytes 48 y

/-- Public key of a private key. -/
def publicKey (d : Nat) : List Byte := pointBytes (curveMul d curveG)

/-- ECDSA verification of a signature of 96 bytes over a message, hashed with SHA-384 (R449). -/
def ecdsaVerify (key m sig : List Byte) : Bool :=
  match keyPoint key with
  | none => false
  | some q =>
    let n := p384N
    let r := beNat (sig.take 48)
    let t := beNat ((sig.drop 48).take 48)
    let e := beNat (sha384 m)
    if r = 0 ∨ t = 0 ∨ n ≤ r ∨ n ≤ t ∨ sig.length ≠ 96 then false
    else
      let w := invMod t n
      match curveAdd (curveMul (e * w % n) curveG) (curveMul (r * w % n) (some q)) with
      | none => false
      | some (x, _) => x % n == r

/-- A signature with a private key and a scalar. -/
def ecdsaSign (d k : Nat) (m : List Byte) : List Byte :=
  let n := p384N
  let k := k % (n - 1) + 1
  match curveMul k curveG with
  | none => []
  | some (x, _) =>
    let r := x % n
    beBytes 48 r ++ beBytes 48 (invMod k n * (beNat (sha384 m) + r * d) % n)

/-- The shared secret of ECDH: the x coordinate; none for a key off the curve. -/
def ecdh (d : Nat) (key : List Byte) : Option (List Byte) :=
  match keyPoint key with
  | none => none
  | some q => (curveMul d (some q)).map (fun p => beBytes 48 p.1)

/-! ### LMS (RFC 8554) -/

/-- A chain of LM-OTS hashes from step a to 254 (fuel). -/
def lmotsChain (pre : List Byte) : Nat → Nat → List Byte → List Byte
  | 0, _, t => t
  | f + 1, a, t => if 255 ≤ a then t else lmotsChain pre f (a + 1) (sha256 (pre ++ [BitVec.ofNat 8 a] ++ t))

/-- Climb an LMS path. -/
def lmsClimb (i : List Byte) : Nat → List (List Byte) → List Byte → List Byte
  | _, [], t => t
  | node, s :: rest, t =>
    let pre := i ++ beBytes 4 (node / 2) ++ [0x83, 0x83]
    lmsClimb i (node / 2) rest (sha256 (if node % 2 = 1 then pre ++ s ++ t else pre ++ t ++ s))

/-- LMS verification, LMS_SHA256_M32_H20 with LMOTS_SHA256_N32_W8 (R447). -/
def lmsVerify (key m sig : List Byte) : Bool :=
  let i := (key.drop 8).take 16
  let q := beNat (sig.take 4)
  let c := (sig.drop 8).take 32
  let y := fun (k : Nat) => (sig.drop (40 + 32 * k)).take 32
  let path := (List.range 20).map (fun k => (sig.drop (1132 + 32 * k)).take 32)
  if key.length ≠ 56 ∨ sig.length ≠ 1772 ∨ beNat (key.take 4) ≠ 8 ∨ beNat ((key.drop 4).take 4) ≠ 4 ∨
     beNat ((sig.drop 4).take 4) ≠ 4 ∨ beNat ((sig.drop 1128).take 4) ≠ 8 ∨ 2 ^ 20 ≤ q then false
  else
    let iq := i ++ beBytes 4 q
    let d := sha256 (iq ++ [0x81, 0x81] ++ c ++ m)
    let sum := d.foldl (fun a b => a + (255 - b.toNat)) 0
    let digits := toNats d ++ [sum / 256, sum % 256]
    let z := digits.zipIdx.flatMap (fun (a, k) => lmotsChain (iq ++ beBytes 2 k) 255 a (y k))
    let leaf := sha256 (i ++ beBytes 4 (2 ^ 20 + q) ++ [0x82, 0x82] ++ sha256 (iq ++ [0x80, 0x80] ++ z))
    lmsClimb i (2 ^ 20 + q) path leaf == (key.drop 24).take 32

end Sys2Proof.Machine
end

