-- ==== Sys2Proof/Machine/Flits.lean ====
section
/-!
DEFINITION. Flits (R14-R24, R367, R368): the CRC, the headers, the layout of messages in units, and what an end of a link or port
does with credits, acknowledgements, retries and the units it receives.
-/

namespace Sys2Proof.Machine

/-! ### CRC and headers (R14, R367) -/

/-- One bit of the CRC-32, most significant bit of each byte first (log 40). -/
def crcBit (c : Nat) (b : Bool) : Nat := ((c <<< 1) % 2 ^ 32) ^^^ (if c.testBit 31 != b then 0x04C11DB7 else 0)

def crcByte (c : Nat) (x : Byte) : Nat := (List.range 8).foldl (fun c i => crcBit c (x.getLsbD (7 - i))) c

/-- CRC-32 over bytes. -/
def crc32 (bs : List Byte) : Nat := (bs.foldl crcByte 0xFFFFFFFF) ^^^ 0xFFFFFFFF

/-- Whether bytes 252 to 255 of a flit are the CRC of the others. -/
def flitCrcOk (f : Flit) : Bool := fld f 2047 2016 == crc32 (leBytes 252 f.toNat)

def flitType (f : Flit) : Nat := fld f 95 92
def flitUnits (f : Flit) : List (BitVec 128) := (List.range 15).map (fun i => f.extractLsb' (96 + 128 * i) 128)

/-- Width of a sequence number: 12 bits on a link, 16 on a port. -/
def seqBits (port : Bool) : Nat := if port then 16 else 12
def flitSeq (port : Bool) (f : Flit) : Nat := if port then fld f 91 76 else fld f 91 80
def flitAck (port : Bool) (f : Flit) : Nat := if port then fld f 75 60 else fld f 79 68
def flitFirst (port : Bool) (f : Flit) : Nat := if port then fld f 59 56 else fld f 67 64

/-- The credit totals a flit carries: class and running total (R14, R367). -/
def flitCredits (port : Bool) (f : Flit) : List (Nat × Nat) :=
  if port then [(fld f 55 53, fld f 52 37), (fld f 36 34, fld f 33 18)]
  else (List.range 4).map (fun i => (i, fld f (16 * i + 15) (16 * i)))

/-- Put a flit together. -/
def buildFlit (header : Nat) (units : List (BitVec 128)) : Flit :=
  let body := header % 2 ^ 96 + units.zipIdx.foldl (fun a (u, i) => a + u.toNat <<< (96 + 128 * i)) 0
  BitVec.ofNat 2048 (body + crc32 (leBytes 252 body) <<< 2016)

namespace FlitEnd

/-- Value of a per-class list. -/
def at_ (l : List Nat) (i : Nat) : Nat := l.getD i 0

/-- Set a per-class list. -/
def upd (l : List Nat) (i v : Nat) : List Nat :=
  modAt (l ++ List.replicate (i + 1 - l.length) 0) i (fun _ => v)

/-- The last sequence number received in order. -/
def ackNo (e : FlitEnd) (port : Bool) : Nat := (e.rxSeq.toNat + 2 ^ seqBits port - 1) % 2 ^ seqBits port

/-- The header of the next flit this end sends (R14, R367, R368). -/
def header (e : FlitEnd) (port : Bool) (type seq ack first : Nat) : Nat :=
  if port then
    let a := 2 * e.pair.toNat
    put type 4 92 + put seq 16 76 + put ack 16 60 + put first 4 56 + put a 3 53 + put (at_ e.freed a) 16 37 + put (a + 1) 3 34 +
      put (at_ e.freed (a + 1)) 16 18
  else
    put type 4 92 + put seq 12 80 + put ack 12 68 + put first 4 64 + put (at_ e.freed 3) 16 48 + put (at_ e.freed 2) 16 32 +
      put (at_ e.freed 1) 16 16 + put (at_ e.freed 0) 16 0

/-- Put a flit on the wire. -/
def emit (e : FlitEnd) (port : Bool) (type seq ack first : Nat) (units : List (BitVec 128)) : FlitEnd :=
  { e with wire := e.wire ++ [buildFlit (e.header port type seq ack first) units], pair := if port then e.pair + 1 else e.pair }

/-- Send one retry request that names the number expected (R20). -/
def askAgain (e : FlitEnd) (port : Bool) : FlitEnd :=
  { e.emit port 2 e.txSeq.toNat e.rxSeq.toNat 15 [] with retryFor := some e.rxSeq }

/-- Resend held flits from a sequence number on, with current Ack and credits (R21). -/
def resendFrom (e : FlitEnd) (port : Bool) (k : BitVec 16) : FlitEnd :=
  (e.replay.dropWhile (fun h => h.seq != k)).foldl (fun e h => e.emit port 0 h.seq.toNat (e.ackNo port) h.first.toNat h.units) e

/-- An Ack frees the flits it covers (R23). -/
def takeAck (e : FlitEnd) (a : Nat) : FlitEnd :=
  if e.replay.any (fun h => h.seq.toNat == a) then
    { e with replay := (e.replay.dropWhile (fun h => h.seq.toNat != a)).drop 1 }
  else e

/-- Credits that running totals return (R18). -/
def takeCredits (e : FlitEnd) (ts : List (Nat × Nat)) : FlitEnd :=
  ts.foldl (fun e (c, t) =>
    let g := (t + 65536 - at_ e.seen c % 65536) % 65536
    { e with credits := upd e.credits c (at_ e.credits c + g), seen := upd e.seen c t }) e

/-- Credits a message of `n` units takes (R17, R29).  That an odd number of units counts up to a whole 32-byte credit, at sender and
receiver alike, is the model's choice (log 77). -/
def cost (e : FlitEnd) (n : Nat) : Nat := if e.wide then (n + 1) / 2 else n

/-- Start every waiting message whose class has credits and no earlier message of the class waiting (R17, R19, R368). -/
def startGo : List (BitVec 3 × List (BitVec 128)) → List (BitVec 3) → FlitEnd → FlitEnd
  | [], _, e => e
  | (c, us) :: rest, blocked, e =>
    let need := e.cost us.length
    if blocked.contains c || decide (at_ e.credits c.toNat < need) then
      startGo rest (c :: blocked) { e with waiting := e.waiting ++ [(c, us)] }
    else
      let marks := us.zipIdx.map (fun (u, i) => (u, i == 0))
      startGo rest blocked { e with credits := upd e.credits c.toNat (at_ e.credits c.toNat - need), txUnits := e.txUnits ++ marks }

/-- A full replay buffer leaves an idle flit to send (R23). -/
def idleIfFull (e : FlitEnd) (port : Bool) (cap : Nat) : FlitEnd :=
  if cap ≤ e.replay.length then e.emit port 1 e.txSeq.toNat (e.ackNo port) 15 [] else e

/-- Send full flits while the replay buffer has room, and an idle flit once it has none (R23; fuel: a bound on the flits). -/
def fill (port : Bool) (cap : Nat) : Nat → FlitEnd → FlitEnd
  | 0, e => e.idleIfFull port cap
  | f + 1, e =>
    if cap ≤ e.replay.length ∨ e.txUnits.length < 15 then e.idleIfFull port cap
    else
      let us := e.txUnits.take 15
      let first := (us.findIdx? (fun p => p.2)).getD 15
      let h : HeldFlit := { seq := e.txSeq, first := BitVec.ofNat 4 first, units := us.map (fun p => p.1) }
      let e := e.emit port 0 e.txSeq.toNat (e.ackNo port) first h.units
      let e := { e with txUnits := e.txUnits.drop 15, replay := e.replay ++ [h] }
      fill port cap f { e with txSeq := BitVec.ofNat 16 ((e.txSeq.toNat + 1) % 2 ^ seqBits port) }

/-- Send what can be sent. -/
def pump (e : FlitEnd) (port : Bool) (cap : Nat) : FlitEnd :=
  let e := startGo e.waiting [] { e with waiting := [] }
  fill port cap (e.txUnits.length / 15) e

/-- The header of a received flit with a good CRC: its Ack and its credit totals (R18, R23). -/
def takeHeader (e : FlitEnd) (port : Bool) (f : Flit) : FlitEnd :=
  (if flitType f = 2 then e else e.takeAck (flitAck port f)).takeCredits (flitCredits port f)

/-- A CRC failure, an invalid flit type or a message of length 0 (R15, R16, R20): counted, and one retry request goes out. -/
def crcFails (e : FlitEnd) (port : Bool) : FlitEnd :=
  let e := { e with errors := e.errors + 1 }
  if e.retryFor = some e.rxSeq then e else e.askAgain port

/-- Credit class of a message by its header unit (R16, R368). -/
def classOf (port : Bool) (u : BitVec 128) : Nat := if port then 2 * fld u 63 62 + fld u 127 127 else fld u 63 62

/-- Complete messages at the front of the units received, and what remains (fuel: units). -/
def complete : Nat → List (BitVec 128) → List (List (BitVec 128)) × List (BitVec 128)
  | 0, us => ([], us)
  | f + 1, us =>
    match us with
    | [] => ([], [])
    | u :: _ =>
      let n := max 1 (fld u 61 56)
      if us.length < n then ([], us)
      else
        let (ms, rest) := complete f (us.drop n)
        (us.take n :: ms, rest)

/-- Whether a message with length 0 begins in these units (R16). -/
def badLength : Nat → List (BitVec 128) → Bool
  | 0, _ => false
  | f + 1, us =>
    match us with
    | [] => false
    | u :: _ => fld u 61 56 == 0 || badLength f (us.drop (fld u 61 56))

/-- The units of a good flit that belong to messages: those before First are skipped where no message is under way (log 41). -/
def usable (e : FlitEnd) (port : Bool) (f : Flit) : List (BitVec 128) :=
  if e.rxUnits = [] then (flitUnits f).drop (flitFirst port f) else flitUnits f

/-- A payload flit (R20-R23): the end as it stands afterwards and the messages that it completes. -/
def receive (e : FlitEnd) (port : Bool) (f : Flit) : FlitEnd × List (List (BitVec 128)) :=
  let m := 2 ^ seqBits port
  let d := (flitSeq port f + m - e.rxSeq.toNat) % m
  let all := e.rxUnits ++ e.usable port f
  if !flitCrcOk f || decide (3 < flitType f) || (!port && d == 0 && badLength all.length all) then (e.crcFails port, [])
  else
    let e := e.takeHeader port f
    if d = 0 then
      let (ms, rest) := complete all.length all
      let e := ms.foldl (fun e us =>
        let c := classOf port (us.headD 0)
        { e with freed := upd e.freed c ((at_ e.freed c + e.cost us.length) % 65536) }) e
      ({ e with rxSeq := BitVec.ofNat 16 ((e.rxSeq.toNat + 1) % m), rxUnits := rest, retryFor := none }, ms)
    else if m / 2 ≤ d then (e, [])
    else if e.retryFor = some e.rxSeq then (e, [])
    else (e.askAgain port, [])

/-- A retry request names a sequence number: the count of consecutive requests that name it (R27). -/
def countRetry (e : FlitEnd) (k : BitVec 16) : FlitEnd :=
  if e.againSeq = k then { e with again := BitVec.ofNat 4 (min 15 (e.again.toNat + 1)) } else { e with again := 1, againSeq := k }

/-- State of an end after a training that is no ordered retrain (R19, R25): full credits, sequence numbers zero. -/
def trained (e : FlitEnd) (credits : List Nat) (wide : Bool) : FlitEnd :=
  let q : FlitEnd := { waiting := e.waiting, lastRetrain := e.lastRetrain, wire := [], credits := credits, wide := wide }
  { q with errors := e.errors }

/-- An ordered retrain ends: this end takes the totals and the last in-order number that the other sent, and replays what follows (R27). -/
def regained (e : FlitEnd) (port : Bool) (ack : Nat) (totals : List Nat) : FlitEnd :=
  let e := (e.takeAck ack).takeCredits (totals.zipIdx.map (fun t => (t.2, t.1)))
  let e := { e with ordered := false, again := 0, retryFor := none }
  match e.replay with
  | [] => e
  | h :: _ => e.resendFrom port h.seq

/-- An ordered retrain of a link ends, whose other end is known (R27). -/
def retrained (e other : FlitEnd) : FlitEnd := e.regained false (other.ackNo false) ((List.range 4).map (at_ other.freed))

end FlitEnd

/-! ### Messages in units (R16, R224, R273) -/

/-- Data units of a sector. -/
def sectorUnits (d : Sector) : List (BitVec 128) := (List.range 8).map (fun i => d.extractLsb' (128 * i) 128)

/-- Units of a memory message after its header. -/
def memPayload (m : MemMsg) : List (BitVec 128) :=
  match m.vc.toNat, m.op.toNat with
  | 0, 2 => sectorUnits m.data
  | 0, 3 => m.ctl :: sectorUnits m.data
  | 0, 4 => [m.ctl]
  | 0, 6 => [m.ctl]
  | 1, 1 => sectorUnits m.data
  | 1, 3 => [m.ctl]
  | 1, 6 => [m.ctl]
  | 3, 1 => m.ctl :: sectorUnits m.data
  | 3, 2 => m.ctl :: sectorUnits m.data
  | _, _ => []

/-- A memory message as units (R224, R225). -/
def memUnits (m : MemMsg) : List (BitVec 128) :=
  let p := memPayload m
  BitVec.ofNat 128 (put m.vc.toNat 2 62 + put (p.length + 1) 6 56 + put m.op.toNat 8 48 + put m.src.toNat 12 36 + put m.tag.toNat 16 20 +
    put m.ctx.toNat 12 8 + put m.hint.toNat 2 6 + putb m.noAlloc 5 + put m.gen.toNat 4 124 + put m.attr.toNat 12 112 +
    put m.pa.toNat 48 64) :: p

/-- A coherence message as units (R273, R274). -/
def cohUnits (m : CohMsg) : List (BitVec 128) :=
  let p := if m.op = 4 ∨ m.op = 0x21 then sectorUnits m.data else []
  BitVec.ofNat 128 (put 2 2 62 + put (p.length + 1) 6 56 + put m.op.toNat 8 48 + put m.src.toNat 12 36 + put m.tag.toNat 16 20 +
    put m.core.toNat 6 14 + put m.age.toNat 4 10 + put m.dst.toNat 6 122 + put m.attr.toNat 8 112 + put m.pa.toNat 48 64) :: p

/-- An Etmos message as units (R369). -/
def etmosUnits (m : EMsg) : List (BitVec 128) :=
  BitVec.ofNat 128 (put m.vc.toNat 2 62 + put m.len.toNat 6 56 + put m.op.toNat 8 48 + put m.dst.toNat 24 24 + put m.src.toNat 24 0 +
    putb m.d 127 + put m.epoch.toNat 4 123 + put m.legIdx.toNat 3 120 + put m.legCnt.toNat 4 116 + put m.hops.toNat 12 104 +
    putb m.relay 103) :: m.route :: m.units

/-! ### Paths between the dies -/

/-- Home half of an address (R210, R215): true is East. -/
def homeOf (pa : Nat) : Bool :=
  if 0x040000000000 ≤ pa ∧ pa < 0x040020000000 then pa.testBit 28
  else (pa.testBit 11).xor ((pa.testBit 16).xor ((pa.testBit 21).xor ((pa.testBit 26).xor
    ((pa.testBit 31).xor (pa.testBit 36)))))

def homeDie (pa : Nat) : Nat := if homeOf pa then 2 else 1

/-- Die of a source (R12, R34, R224). -/
def sourceDie (src : Nat) : Nat :=
  if src < 0x80 then 3 + src / 32
  else if 0x100 ≤ src ∧ src < 0x140 then 3 + (src - 0x100) / 16
  else if src = 0x400 then 1 else if src = 0x401 then 2 else 0

/-- Die of a core. -/
def coreDie (n : Nat) : Nat := 3 + n / 16

/-- Die that a link message is for, by its header unit (R224, R225, R273, R274). -/
def unitDest (u : BitVec 128) : Nat :=
  let vc := fld u 63 62
  let op := fld u 55 48
  let pa := fld u 111 64
  if vc = 2 then
    (if op < 0x10 ∨ 0x20 ≤ op then homeDie pa
     else if op < 0x18 then coreDie (fld u 127 122)
     else coreDie (fld u 19 14))
  else if vc = 1 ∨ (vc = 3 ∧ op = 3) then sourceDie (fld u 47 36)
  else homeDie pa

/-- Die a link message starts from, by its header unit; data that an owner supplies is sent from the owner's die instead. -/
def unitStart (u : BitVec 128) : Nat :=
  let vc := fld u 63 62
  if vc = 2 then sourceDie (fld u 47 36)
  else if vc = 1 ∨ (vc = 3 ∧ fld u 55 48 = 3) then homeDie (fld u 111 64)
  else sourceDie (fld u 47 36)

/-- Base die of a die, and the link by which a message leaves a die toward another: link and end (R12, R333). -/
def baseOf (d : Nat) : Nat := if d = 1 ∨ d = 3 ∨ d = 4 then 1 else 2

def nextLink (cur dst : Nat) : Option (Nat × Bool) :=
  if cur = dst then none
  else if 3 ≤ cur then some (cur, true)
  else if cur = 0 then some (baseOf dst, false)
  else if dst = 0 then some (cur, true)
  else if baseOf dst = cur then some (dst, false)
  else some (0, cur == 2)

/-- Die on which an end of a link lies. -/
def endDie (l : Nat) (e : Bool) : Nat :=
  match l with
  | 0 => if e then 2 else 1
  | 1 => if e then 1 else 0
  | 2 => if e then 2 else 0
  | l => if e then l else baseOf l

/-- Replay buffer of a link (R13). -/
def linkReplay (l : Nat) : Nat := if l = 0 then 1024 else if l < 3 then 512 else 256

/-- Lane groups of a link (R13). -/
def linkGroups (l : Nat) : Nat := if l = 0 then 50 else if l < 3 then 20 else 120

end Sys2Proof.Machine
end

