-- ==== Sys2Proof/Machine/Secure.lean ====
section
/-!
DEFINITION. Sessions of the management channel (R384, R385): the transcript, the keys, and the protection of VC2 and VC3 messages.
-/

namespace Sys2Proof.Machine

/-- Units of data, 16 bytes each. -/
def dataUnits (bs : List Byte) : List (BitVec 128) :=
  (chunks16 bs.length bs).map (fun c => BitVec.ofNat 128 (leNat c))
where
  chunks16 : Nat → List Byte → List (List Byte)
    | 0, _ => []
    | n + 1, l => if l.isEmpty then [] else l.take 16 :: chunks16 n (l.drop 16)

/-- Bytes of data units. -/
def unitBytes (us : List (BitVec 128)) : List Byte := us.flatMap (fun u => leBytes 16 u.toNat)

/-! ### Protection of messages (R370, R385) -/

/-- The 32 bytes of a route header. -/
def headerBytes (m : EMsg) : List Byte := unitBytes ((etmosUnits m).take 2)

/-- The nonce: the direction's salt, then the counter (log 42). -/
def sessionNonce (salt : BitVec 32) (ctr : Nat) : List Byte := leBytes 4 salt.toNat ++ leBytes 8 ctr

/-- A key as bytes. -/
def keyBytes (k : BitVec 256) : List Byte := beBytes 32 k.toNat

/-- Protect a message whose units are its payload: security unit, protected payload, tag (R370, R385).  Timing fields are authenticated and
not encrypted. -/
def Session.protect (t : Session) (m : EMsg) : EMsg × Session :=
  let ctr := t.ctrTx.toNat + 1
  let sec : BitVec 128 := BitVec.ofNat 128 (put ctr 64 64 + putb t.phase 63)
  let m := { m with len := BitVec.ofNat 6 (m.units.length + 4) }
  let aad := headerBytes m ++ unitBytes [sec]
  let body := unitBytes m.units
  let nonce := sessionNonce t.saltTx ctr
  let t := { t with ctrTx := BitVec.ofNat 64 ctr }
  if m.vc = 2 then
    let (ct, tag) := gcmSeal (keyBytes t.keyTx) nonce aad body
    ({ m with units := sec :: dataUnits ct ++ dataUnits tag }, t)
  else
    let (_, tag) := gcmSeal (keyBytes t.keyTx) nonce (aad ++ body) []
    ({ m with units := sec :: m.units ++ dataUnits tag }, t)

/-- A management or timing message as it leaves: under the session, or, before one has keys, in its form with an empty security unit and tag
(R370, R384, log 103). -/
def Session.wrap (t : Session) (m : EMsg) : EMsg × Session :=
  if t.up then t.protect m else ({ m with len := BitVec.ofNat 6 (m.units.length + 4), units := 0 :: m.units ++ [0] }, t)

/-- Open a protected message: its payload units, and the session with the counter taken; none where the tag fails or the counter does not
exceed the last accepted one (R385). -/
def Session.open_ (t : Session) (m : EMsg) : Option (List (BitVec 128) × Session) :=
  match m.units with
  | [] => none
  | sec :: rest =>
    let ctr := fld sec 127 64
    let body := unitBytes rest.dropLast
    let tag := unitBytes (rest.drop (rest.length - 1))
    let aad := headerBytes m ++ unitBytes [sec]
    let nonce := sessionNonce t.saltRx ctr
    if !t.up || decide (ctr ≤ t.ctrRx.toNat) then none
    else
      let t1 : Session := { t with ctrRx := BitVec.ofNat 64 ctr }
      if m.vc = 2 then (gcmOpen (keyBytes t.keyRx) nonce aad body tag).map (fun p => (dataUnits p, t1))
      else (gcmOpen (keyBytes t.keyRx) nonce (aad ++ body) [] tag).map (fun _ => (rest.dropLast, t1))

/-- The session that a port sends under: a finished new one, else the old one (R385). -/
def EPort.txSession (k : EPort) : Session :=
  match k.next with
  | some t => if t.up then t else k.sess
  | none => k.sess

def EPort.setTx (k : EPort) (t : Session) : EPort :=
  match k.next with
  | some o => if o.up then { k with next := some t } else { k with sess := t }
  | none => { k with sess := t }

/-- Credit class of an Etmos message (R368). -/
def creditClass (m : EMsg) : Nat := 2 * m.vc.toNat + (if m.d then 1 else 0)

/-- Whether a port in a state carries a message: all once it is up, and handshake steps while it handshakes (R365). -/
def carries (st : Nat) (m : EMsg) : Bool := st == 3 || (st == 2 && m.vc == 2 && m.op == 0x11)

/-- Start every waiting message that the port carries and whose class has credits and no earlier message waiting for them (R365, R368); what is
protected takes its counter as it starts (R385). -/
def EPort.startGo : List EMsg → List Nat → EPort → EPort
  | [], _, k => k
  | m :: rest, blocked, k =>
    let (w, t) := if m.vc.toNat < 2 then (m, k.txSession) else k.txSession.wrap m
    let us := etmosUnits w
    if !carries (fld k.status 31 28) m then EPort.startGo rest blocked { k with out := k.out ++ [m] }
    else if blocked.contains (creditClass m) || decide (FlitEnd.at_ k.flit.credits (creditClass m) < us.length) then
      EPort.startGo rest (creditClass m :: blocked) { k with out := k.out ++ [m] }
    else
      let k := k.setTx t
      EPort.startGo rest blocked { k with flit := { k.flit with waiting := [(BitVec.ofNat 3 (creditClass m), us)] }.pump true 4096 }

/-- A port that carries messages sends what it can (R365, R403). -/
def EPort.go (k : EPort) : EPort :=
  let st := fld k.status 31 28
  if st = 2 ∨ st = 3 then EPort.startGo k.out [] { k with out := [], flit := k.flit.pump true 4096 } else k

/-- Open a message at a port by its KeyPhase; the first message under a new session ends the old one (R385). -/
def EPort.openMsg (k : EPort) (m : EMsg) : Option (List (BitVec 128) × EPort) :=
  let phase := bit (m.units.headD 0) 63
  match k.next with
  | some t =>
    if t.up && t.phase == phase then (t.open_ m).map (fun (us, t) => (us, { k with sess := t, next := none }))
    else if k.sess.phase == phase then (k.sess.open_ m).map (fun (us, t) => (us, { k with sess := t }))
    else none
  | none =>
    if k.sess.phase == phase then (k.sess.open_ m).map (fun (us, t) => (us, { k with sess := t })) else none

/-! ### The handshake (R384) -/

/-- Bytes of the handshake step that comes after `n` others (R384, R458, R461). -/
def stepSize (n : Nat) : Nat := [128, 4256, 672, 48].getD n 0

/-- The handshake step that comes after `n` others, from its bytes. -/
def stepOf (n : Nat) (bs : List Byte) : Option HandshakeStep :=
  match n with
  | 0 => some (.hello (BitVec.ofNat 768 (beNat (bs.take 96))) (BitVec.ofNat 256 (beNat (bs.drop 96))))
  | 1 => some (.certificate bs)
  | 2 => some (.verify (bs.take 576) (BitVec.ofNat 768 (beNat (bs.drop 576))))
  | 3 => some (.finished (BitVec.ofNat 384 (beNat bs)))
  | _ => none

/-- Bytes of the peer's next step come; with the last of them the step is there (log 103). -/
def Session.gather (t : Session) (bs : List Byte) : Session × Option HandshakeStep :=
  let all := t.part ++ bs
  let n := t.theirs.length
  if all.length < stepSize n then ({ t with part := all }, none) else ({ t with part := [] }, stepOf n (all.take (stepSize n)))

/-- The transcript: step by step, the message of the first end before that of the other (log 42). -/
def Session.transcript (t : Session) (first : Bool) (n : Nat) : List Byte :=
  (List.range n).flatMap (fun i =>
    let a := t.mine.getD i []
    let b := t.theirs.getD i []
    if first then a ++ b else b ++ a)

/-- Keys, salts and the Finished key of a session (R384, log 42): those of the first end's direction come first. -/
def Session.keyed (t : Session) (first : Bool) (secret : List Byte) : Session :=
  let th := sha384 (t.transcript first 3)
  let k := hkdf384 th secret [] 120
  let n := fun (o l : Nat) => beNat ((k.drop o).take l)
  let t := { t with finTx := BitVec.ofNat 384 (n 72 48) }
  let k1 : BitVec 256 := BitVec.ofNat 256 (n 0 32)
  let k2 : BitVec 256 := BitVec.ofNat 256 (n 32 32)
  let s1 : BitVec 32 := BitVec.ofNat 32 (leNat ((k.drop 64).take 4))
  let s2 : BitVec 32 := BitVec.ofNat 32 (leNat ((k.drop 68).take 4))
  if first then { t with keyTx := k1, keyRx := k2, saltTx := s1, saltRx := s2 }
  else { t with keyTx := k2, keyRx := k1, saltTx := s2, saltRx := s1 }

/-- The HMAC of an end over the transcript (R384, log 42). -/
def Session.mac (t : Session) (first : Bool) (ofFirst : Bool) : List Byte :=
  hmac384 (beBytes 48 t.finTx.toNat) ((if ofFirst then [0x01] else [0x02]) ++ t.transcript first 3)

end Sys2Proof.Machine
end

