-- ==== Sys2Proof/Machine/State.lean ====
section
/-!
DEFINITION. The state of the NR416: every register, buffer, queue and mode the spec gives the module, as plain data, the queue of
commands that wait, the reasons a step can stop, and the state after power-on.
-/

namespace Sys2Proof.Machine

/-- Reasons a step stops with a fault.  The spec gives every command of the block an effect, so no meaning raises one; the one
constructor keeps the type inhabited. -/
inductive Fault where
  /-- Raised by no command.  Safe. -/
  | none
deriving DecidableEq, Repr

/-- Reasons a command is refused. -/
inductive Refusal where
  /-- The command has no meaning in this model yet; raised only by an arm of Dispatch.  Safe. -/
  | notModelled (mnemonic : String)
deriving DecidableEq, Repr

/-- Work of the whole module that is no unit's own: messages on their way, outstanding requests, walks in flight with their number so far, walks
that wait for room in their walker (source, context, page; R296), failed walks, translation fault records of Kinds 3 and 4 that wait for
room in the log (R301), walk caches, the window look-aside buffer, maintenance commands, data read for a core, and the queue that each
fetcher served last in each of its priorities (R324). -/
structure Shared where
  inflight : List Msg := []
  reqs : List Req := []
  walks : List Walk := []
  walkSeq : Nat := 0
  walkQueue : List (BitVec 12 × BitVec 12 × BitVec 48) := []
  walkFails : List WalkFail := []
  faultWait : List (BitVec 256) := []
  wcWest : List WcEnt := []
  wcEast : List WcEnt := []
  wcSpine : List WcEnt := []
  winTlb : List TlbEnt := []
  maint : List MaintJob := []
  maintGot : List (BitVec 12 × BitVec 32) := []
  readData : List Byte := []
  lastFetch : Tbl (BitVec 14) := []
deriving DecidableEq, Repr

/-- The state of the block. -/
structure State where
  pending : List Instr
  launchCounter : Word
  free : Nat
  modState : BitVec 4
  coldStep : BitVec 4
  refuseWork : Bool
  starting : Bool
  sh : Shared
  links : Tbl LinkEnd
  clusterMap : Tbl (BitVec 32)
  clusters : Tbl Cluster
  mem : List Host.Cell
  west : QHalf
  east : QHalf
  channels : Tbl Channel
  stackTemp : Tbl (BitVec 8)
  cores : Tbl ZCore
  ctxs : Tbl Ctx
  queues : Tbl Queue
  adminLast : Bool
  holding : List (BitVec 14)
  walkPending : List (BitVec 14)
  windows : Tbl (BitVec 128)
  engines : Tbl CopyEngine
  faultLog : List (BitVec 256)
  host : HostLink
  events : EventLog
  ports : Tbl EPort
  fabric : Fabric
  gates : Tbl Gate
  power : Power
  timed : BitVec 128
  timedRef : BitVec 10
  digests : List DigestJob
  sec : Security
deriving DecidableEq, Repr

/-- The module at power-on, every register at the value its table gives for reset, and no cold-start step begun.  Where the spec
gives no reset value the value is that of log 1. -/
def State.reset : State where
  pending := []
  launchCounter := 0
  free := 0
  modState := 0
  coldStep := 0
  refuseWork := false
  starting := false
  sh := {}
  links := []
  clusterMap := []
  clusters := []
  mem := []
  west := {}
  east := {}
  channels := []
  stackTemp := []
  cores := []
  ctxs := []
  queues := []
  adminLast := true
  holding := []
  walkPending := []
  windows := []
  engines := []
  faultLog := []
  host := {}
  events := {}
  ports := []
  fabric := {}
  gates := []
  power := {}
  timed := 0
  timedRef := 0
  digests := []
  sec := {}

end Sys2Proof.Machine
end

