-- ==== Sys2Proof/Machine/Ops.lean ====
section
/-!
DEFINITION. The named operations over the state: access to each unit, sending messages and tracking requests (R224-R230), events and
host-bound writes (R349, R356-R360), the physical map and the coherent view of memory (R210, R215, R256), translation (R289-R298),
queue completion (R313, R319), and stopping contexts (R338, R339, R434).
-/

namespace Sys2Proof.Machine

/-! ### Units -/

def State.cluster (s : State) (c : Nat) : Cluster := tget {} s.clusters c
def State.modCluster (s : State) (c : Nat) (f : Cluster → Cluster) : State :=
  { s with clusters := tmod {} s.clusters c f }
def Cluster.group (k : Cluster) (g : Nat) : Group := tget {} k.groups g
def Cluster.modGroup (k : Cluster) (g : Nat) (f : Group → Group) : Cluster :=
  { k with groups := tmod {} k.groups g f }
def State.group (s : State) (c g : Nat) : Group := (s.cluster c).group g
def State.modGroup (s : State) (c g : Nat) (f : Group → Group) : State :=
  s.modCluster c (fun k => k.modGroup g f)
def State.modPress (s : State) (c : Nat) (f : Press → Press) : State :=
  s.modCluster c (fun k => { k with press := f k.press })
def State.modStream (s : State) (c : Nat) (f : StreamEngine → StreamEngine) : State :=
  s.modCluster c (fun k => { k with stream := f k.stream })
def State.ctx (s : State) (x : Nat) : Ctx := tget {} s.ctxs x
def State.modCtx (s : State) (x : Nat) (f : Ctx → Ctx) : State := { s with ctxs := tmod {} s.ctxs x f }
def State.queue (s : State) (q : Nat) : Queue := tget {} s.queues q
def State.modQueue (s : State) (q : Nat) (f : Queue → Queue) : State := { s with queues := tmod {} s.queues q f }
def State.engine (s : State) (e : Nat) : CopyEngine := tget {} s.engines e
def State.modEngine (s : State) (e : Nat) (f : CopyEngine → CopyEngine) : State :=
  { s with engines := tmod {} s.engines e f }
def State.core (s : State) (n : Nat) : ZCore := tget {} s.cores n
def State.modCore (s : State) (n : Nat) (f : ZCore → ZCore) : State := { s with cores := tmod {} s.cores n f }
def State.channel (s : State) (ch : Nat) : Channel := tget {} s.channels ch
def State.modChannel (s : State) (ch : Nat) (f : Channel → Channel) : State :=
  { s with channels := tmod {} s.channels ch f }
def State.linkEnd (s : State) (i : Nat) : LinkEnd := tget {} s.links i
def State.modLink (s : State) (i : Nat) (f : LinkEnd → LinkEnd) : State := { s with links := tmod {} s.links i f }
def State.port (s : State) (p : Nat) : EPort := tget {} s.ports p
def State.modPort (s : State) (p : Nat) (f : EPort → EPort) : State := { s with ports := tmod {} s.ports p f }
def State.gate (s : State) (g : Nat) : Gate := tget {} s.gates g
def State.modGate (s : State) (g : Nat) (f : Gate → Gate) : State := { s with gates := tmod {} s.gates g f }
def State.half (s : State) (h : Bool) : QHalf := if h then s.east else s.west
def State.modHalf (s : State) (h : Bool) (f : QHalf → QHalf) : State :=
  if h then { s with east := f s.east } else { s with west := f s.west }
def State.modShared (s : State) (f : Shared → Shared) : State := { s with sh := f s.sh }
def State.modHost (s : State) (f : HostLink → HostLink) : State := { s with host := f s.host }
def State.modFabric (s : State) (f : Fabric → Fabric) : State := { s with fabric := f s.fabric }
def State.modPower (s : State) (f : Power → Power) : State := { s with power := f s.power }
def State.modSec (s : State) (f : Security → Security) : State := { s with sec := f s.sec }

/-- A free value of 64 bits and the state with the counter advanced (log 9). -/
def State.fresh (s : State) : Word × State := (Config.freeWord s.free, { s with free := s.free + 1 })

/-- Entry of the cluster map; the reset value names die 7 (R36). -/
def State.mapEntry (s : State) (c : Nat) : BitVec 32 := tget 0x70000000 s.clusterMap c

/-- Base die of a requester's Signature (R34): false is West. -/
def clusterEast (c : Nat) : Bool := decide (64 ≤ c)

/-- A tick of the launch counter (R63, R387, R388): an error found by CounterSync is corrected by adding or withholding at most one tick in
every 1,000; a counter that was ahead after Dormant is held. -/
def State.tickCounter (s : State) : State :=
  let f := s.fabric
  if 0 < f.hold then { s with fabric := { f with hold := f.hold - 1 } } else
  let fix := decide (f.owed ≠ 0) && decide (999 ≤ f.sinceFix.toNat)
  let n : Nat := if !fix then 1 else if 0 < f.owed then 2 else 0
  let owed : Int := if !fix then f.owed else if 0 < f.owed then f.owed - 1 else f.owed + 1
  let since : Nat := if fix then 0 else min 999 (f.sinceFix.toNat + 1)
  { s with launchCounter := s.launchCounter + BitVec.ofNat 64 n, fabric := { f with owed := owed, sinceFix := BitVec.ofNat 10 since } }

/-! ### Messages and requests -/

/-- An end of a link that is up sends what it can. -/
def LinkEnd.go (l : Nat) (k : LinkEnd) : LinkEnd :=
  if fld k.status 7 4 = 2 then { k with flit := k.flit.pump false (linkReplay l) } else k

/-- A message leaves a die over the first link of its path (R16, R17); within a die it crosses none. -/
def State.linkSend (s : State) (die : Nat) (us : List (BitVec 128)) : State :=
  match nextLink die (unitDest (us.headD 0)) with
  | none => s
  | some (l, e) => s.modLink (2 * l + (if e then 1 else 0)) (fun k =>
      let w := k.flit.waiting ++ [(BitVec.ofNat 3 (FlitEnd.classOf false (us.headD 0)), us)]
      { k with flit := { k.flit with waiting := w } }.go l)

/-- Put a message on its way (log 6); one for a port waits there until the port starts it (R368, R403). -/
def State.send (s : State) (m : Msg) : State :=
  let s := s.modShared (fun h => { h with inflight := h.inflight ++ [m] })
  match m with
  | .mem m => let us := memUnits m; s.linkSend (unitStart (us.headD 0)) us
  | .coh m => let us := cohUnits m; s.linkSend (unitStart (us.headD 0)) us
  | .etmos p m => s.modPort p.toNat (fun k => { k with out := k.out ++ [m] }.go)

def State.sendMem (s : State) (m : MemMsg) : State := s.send (.mem m)
def State.sendCoh (s : State) (m : CohMsg) : State := s.send (.coh m)

/-- Data that a core supplies to another core starts from the owner's die (R276, R277). -/
def State.sendDataFrom (s : State) (owner : Nat) (m : MemMsg) : State :=
  (s.modShared (fun h => { h with inflight := h.inflight ++ [.mem m] })).linkSend (coreDie owner) (memUnits m)

/-- Take a message off its way; the receiver's command names it. -/
def State.arrive (s : State) (m : Msg) : State :=
  s.modShared (fun h => { h with inflight := h.inflight.erase m })

/-- Whether a request has been answered otherwise than by Retry, its answer being on its way: it has been performed. -/
def State.performed (s : State) (r : Req) : Bool :=
  s.sh.inflight.any (fun m => match m with
    | .mem a => (a.vc == 1 && a.op != 5 || a.vc == 3 && a.op == 3) && a.src == r.msg.src && a.tag == r.msg.tag
    | _ => false)

/-- Whether a request's turn has come at its home: every earlier one of its source to its sector in its virtual channel has been performed
(R160, R228). -/
def State.inTurn (s : State) (m : MemMsg) : Bool :=
  !s.sh.reqs.any (fun r => r.msg == m) ||
  (s.sh.reqs.takeWhile (fun r => r.msg != m)).all (fun r =>
    r.msg.src != m.src || r.msg.vc != m.vc || r.msg.pa.toNat / 128 != m.pa.toNat / 128 || s.performed r)

/-- Whether a coherence message is the first of its sender for its sector that is on its way (R228, R280). -/
def State.cohInTurn (s : State) (m : CohMsg) : Bool :=
  match s.sh.inflight.find? (fun x => match x with
    | .coh x => x.src == m.src && x.pa.toNat / 128 == m.pa.toNat / 128
    | _ => false) with
  | some x => x == .coh m || !s.sh.inflight.contains (.coh m)
  | none => true

/-- Take a core's message at a home, in its turn. -/
def State.takeCoh (s : State) (m : CohMsg) (f : State → State) : State := if s.cohInTurn m then f (s.arrive (.coh m)) else s

/-- Limit of outstanding requests of a source (R230); the copy engines have one for all of them together. -/
def tagLimit (src : Nat) : Nat :=
  if src < 0x100 then 4096 else if src < 0x200 then 1024 else if src < 0x300 then 65536
  else if src = 0x300 then 65536 else 16384

/-- Tags a source has in use; a core's coherent requests and write-backs share its tags (R226, R273). -/
def State.tagsOf (s : State) (src : Nat) : List Nat :=
  (s.sh.reqs.filter (fun r => !r.held && r.msg.src.toNat == src)).map (fun r => r.msg.tag.toNat) ++
  (if 0x100 ≤ src ∧ src < 0x140 then
    let k := s.core (src - 0x100)
    k.reqs.map (fun r => r.tag.toNat) ++ k.wb.map (fun w => w.tag.toNat)
  else [])

/-- The lowest number from `k` on that is not in a list. -/
def firstFree : Nat → Nat → List Nat → Nat
  | 0, k, _ => k
  | f + 1, k, used => if used.contains k then firstFree f (k + 1) used else k

/-- The lowest free tag of a source (R226). -/
def State.freeTag (s : State) (src : Nat) : Nat := let u := s.tagsOf src; firstFree u.length 0 u

/-- Requests that the copy engines have outstanding. -/
def State.copyTags (s : State) : Nat :=
  s.sh.reqs.countP (fun r => !r.held && decide (0x200 ≤ r.msg.src.toNat ∧ r.msg.src.toNat < 0x300))

/-- Whether a source may send `n` more requests (R230). -/
def State.roomFor (s : State) (src n : Nat) : Bool :=
  decide ((s.tagsOf src).length + n ≤ tagLimit src) &&
  (decide (src < 0x200 ∨ 0x300 ≤ src) || decide (s.copyTags + n ≤ 196608))

/-- Send a request under a free tag and keep it until it is answered (R226); a source at its limit holds it (R230). -/
def State.request (s : State) (m : MemMsg) (why : Purpose) : State :=
  if s.roomFor m.src.toNat 1 then
    let m := { m with tag := BitVec.ofNat 16 (s.freeTag m.src.toNat) }
    (s.modShared (fun h => { h with reqs := h.reqs ++ [{ msg := m, why := why }] })).sendMem m
  else s.modShared (fun h => { h with reqs := h.reqs ++ [{ msg := m, why := why, held := true }] })

/-- The outstanding request a response answers. -/
def State.reqOf (s : State) (src : BitVec 12) (tag : BitVec 16) : Option Req :=
  s.sh.reqs.find? (fun r => !r.held && r.msg.src == src && r.msg.tag == tag)

/-- Free the tag of a request (R226), and send the first request its source holds (R230). -/
def State.dropReq (s : State) (src : BitVec 12) (tag : BitVec 16) : State :=
  let s := s.modShared (fun h => { h with reqs := h.reqs.filter (fun r => r.held || !(r.msg.src == src && r.msg.tag == tag)) })
  let next := fun (r : Req) => r.held && (r.msg.src == src ||
    decide (0x200 ≤ src.toNat ∧ src.toNat < 0x300 ∧ 0x200 ≤ r.msg.src.toNat ∧ r.msg.src.toNat < 0x300))
  match takeFirst next s.sh.reqs with
  | none => s
  | some (r, rest) => (s.modShared (fun h => { h with reqs := rest })).request r.msg r.why

/-- Current generation of a context (R290). -/
def State.genOf (s : State) (x : Nat) : Nat := fld (s.ctx x).xlat 63 60

/-! ### Physical memory -/

/-- Channels out of service (R256). -/
def State.mOut (s : State) : Nat :=
  (List.range 256).countP (fun ch => let st := fld (s.channel ch).status 7 4; st == 4 || st == 5)

/-- Bytes of stacked memory present (R256). -/
def State.capacity (s : State) : Nat := (2048 - 8 * s.mOut) * 2 ^ 30

/-- Lowest address of the device-reserved region (R38). -/
def State.reservedBase (s : State) : Nat := s.capacity - 512 * 2 ^ 20

def scratchBase : Nat := 0x040000000000
def isScratch (pa : Nat) : Bool := decide (scratchBase ≤ pa ∧ pa < scratchBase + 0x20000000)

/-- The mask of `n` bytes of a sector from an address on. -/
def byteMask (a n : Nat) : BitVec 128 := BitVec.ofNat 128 ((2 ^ n - 1) <<< (a % 128))

/-- Home half of an address (R210, R215): true is East. -/
def homeEast (pa : Nat) : Bool := homeOf pa

/-- Quire set of an address (R210). -/
def quireSet (pa : Nat) : Nat :=
  ((pa >>> 12) % 2 ^ 14) ^^^ ((pa >>> 26) % 2 ^ 14) ^^^ (((pa >>> 40) % 2) <<< 13)

def lineOf (pa : Nat) : Nat := pa / 2048
def sectorOf (pa : Nat) : Nat := pa / 128 % 16
def sectorBase (pa : Nat) : Nat := pa / 128 * 128

/-- ScratchWays of a half (R213). -/
def QHalf.scratchWays (h : QHalf) : Nat := fld h.part 11 8
def QHalf.lockMax (h : QHalf) : Nat := fld h.part 2 0

/-- The way that holds a line, if present. -/
def QHalf.findWay (h : QHalf) (set line : Nat) : Option Nat :=
  (List.range 16).find? (fun w => let l := tget {} h.lines (set * 16 + w); l.present && l.line.toNat == line)

/-- Set of an address, scratchpad or not (R210, R215). -/
def lineSet (pa : Nat) : Nat := if isScratch pa then pa % 0x10000000 % 33554432 / 2048 else quireSet pa

/-- Bank of a sector in its half (R210, R215, R281). -/
def bankOf (pa : Nat) : Nat := lineSet pa % 64

def QHalf.way (h : QHalf) (set w : Nat) : QLine := tget {} h.lines (set * 16 + w)
def QHalf.modWay (h : QHalf) (set w : Nat) (f : QLine → QLine) : QHalf :=
  { h with lines := tmod {} h.lines (set * 16 + w) f }

/-- The line of an address, if the half holds it. -/
def QHalf.lineAt (h : QHalf) (pa : Nat) : Option (Nat × QLine) :=
  (h.findWay (quireSet pa) (lineOf pa)).map (fun w => (w, h.way (quireSet pa) w))

/-- Channels of a half in service, in the order of R259. -/
def State.channelList (s : State) (h : Bool) : List Nat :=
  ((List.range 128).map (fun i => let c := i / 8; let st := i % 8 + (if h then 8 else 0); st * 16 + c)).filter
    (fun ch => let v := fld (s.channel ch).status 7 4; v != 4 && v != 5)

/-- The channel and line index of an address (R259). -/
def State.placeOf (s : State) (pa : Nat) : Nat × Nat :=
  let list := s.channelList (homeEast pa)
  let n := list.length
  let l := pa / 4096
  let q := l / n
  (list.getD ((l % n + q) % n) 0, q)

/-- The sector as a channel delivers it from the dies: standing wrong symbols are corrected where the code can (R248). -/
def State.memSector (s : State) (pa : Nat) : Sector :=
  ofSectorBytes (readBytes s.mem pa 128) ^^^ residualFlip (tget [] (s.channel (s.placeOf pa).1).dieErrs (pa / 128))

/-- The sector below the Quire lines: write-around buffer, channel write queue, dies (R220). -/
def State.belowSector (s : State) (pa : Nat) : Sector :=
  match (s.half (homeEast pa)).around.find? (fun e => e.1.toNat == pa) with
  | some e => e.2
  | none =>
    match (s.channel (s.placeOf pa).1).writes.find? (fun e => e.1.toNat == pa) with
    | some e => e.2
    | none => s.memSector pa

/-- A dirty copy of a sector in a core's L2 or write-back buffer (R269, R277), and whether it fails its check (R287). -/
def State.coreCopy (s : State) (pa : Nat) : Option (Sector × Bool) :=
  let d := tget {} (s.half (homeEast pa)).dir (pa / 128)
  if d.dstate = 2 then
    let k := s.core d.owner.toNat
    match k.wb.find? (fun w => w.pa.toNat == pa) with
    | some w => some (w.data, w.bad)
    | none => let l := tget {} k.l2 (pa / 128); if l.st = .modified then some (l.data, l.bad) else none
  else none

/-- A dirty copy of a sector in a core that reads as good data. -/
def State.coreDirty (s : State) (pa : Nat) : Option Sector :=
  match s.coreCopy pa with
  | some (d, false) => some d
  | _ => none

/-- Whether a line holds a sector that reads as it was stored: valid, and not failing its check (R211, R243). -/
def QLine.good (l : QLine) (i : Nat) : Bool := l.valid.getLsbD i && !l.weak.getLsbD i

/-- The sector as a Quire-performed read returns it (R189, R220, R282). -/
def State.viewSector (s : State) (pa : Nat) : Sector :=
  if isScratch pa then tget 0 (s.half (homeEast pa)).scratch (pa % 0x10000000 / 128)
  else match s.coreDirty pa with
    | some d => d
    | none =>
      match (s.half (homeEast pa)).lineAt pa with
      | some (_, l) => if l.good (sectorOf pa) then tget 0 l.data (sectorOf pa) else s.belowSector pa
      | none => s.belowSector pa

/-- Whether a newer write of a sector waits below the Quire lines (R220). -/
def State.buffered (s : State) (pa : Nat) : Bool :=
  (s.half (homeEast pa)).around.any (fun e => e.1.toNat == sectorBase pa) ||
  (s.channel (s.placeOf pa).1).writes.any (fun e => e.1.toNat == sectorBase pa)

/-- Error code of a fetch of a sector: uncorrectable in its dies, and not overwritten by a write that waits (R220, R249). -/
def State.dieErr (s : State) (pa : Nat) : Nat :=
  if !s.buffered pa && errsUncorrectable (tget [] (s.channel (s.placeOf pa).1).dieErrs (pa / 128)) then 1 else 0

/-- Error code with which a read of a sector would be answered now: 0 none, 1 uncorrectable, 2 unassigned scratchpad, 4 absent
(R215, R225, R243, R249, R256). -/
def State.readErr (s : State) (pa : Nat) : Nat :=
  if isScratch pa then
    (if (s.half (homeEast pa)).scratchWays * 2 ^ 25 ≤ pa % 0x10000000 then 2
     else if (s.half (homeEast pa)).bad.contains (pa % 0x10000000 / 128) then 1 else 0)
  else if s.capacity ≤ pa then 4
  else match s.coreCopy (sectorBase pa) with
    | some (_, bad) => if bad then 1 else 0
    | none => match (s.half (homeEast pa)).lineAt pa with
      | some (_, l) =>
        if l.lost.getLsbD (sectorOf pa) || (l.weak &&& l.dirty).getLsbD (sectorOf pa) then 1
        else if l.good (sectorOf pa) then 0
        else s.dieErr pa
      | none => s.dieErr pa

/-- Whether an ordered-reduction tracker is open on a sector (R238). -/
def State.trackerOpen (s : State) (pa : Nat) : Bool :=
  (s.half (homeEast pa)).reds.any (fun t => t.pa.toNat == sectorBase pa)

/-- The transaction open on a sector (R276, R282). -/
def QHalf.transAt (k : QHalf) (pa : Nat) : Option Transaction := k.trans.find? (fun t => t.pa.toNat == sectorBase pa)

/-- Whether an access of one step waits: an ordered reduction into its sector is open (R238), or a transaction of the cores (R282). -/
def State.sectorBusy (s : State) (pa : Nat) : Bool := s.trackerOpen pa || ((s.half (homeEast pa)).transAt pa).isSome

/-! ### What an access does at its home beside its data -/

/-- Age on insertion and on a hit (R212). -/
def insertAge (hint : Nat) : BitVec 2 := if hint = 1 then 0 else if hint = 2 then 3 else 2
def hitAge (hint : Nat) (age : BitVec 2) : BitVec 2 := if hint = 1 then 0 else if hint = 2 then age else 1

/-- A hit ages the line by the hint the access carries (R212). -/
def State.touchLine (s : State) (pa hint : Nat) : State :=
  s.modHalf (homeEast pa) (fun k => match k.findWay (quireSet pa) (lineOf pa) with
    | none => k
    | some w => k.modWay (quireSet pa) w (fun l => { l with age := hitAge hint l.age }))

/-- A count of the Quire counter register of a context, by its lowest bit (R244). -/
def State.countDead (s : State) (x lo : Nat) : State :=
  s.modCtx x (fun k => { k with counter := setF k.counter (lo + 15) lo (satAdd 16 (fld k.counter (lo + 15) lo) 1) })

/-- A read that misses on a filtered line counts DeadRead and takes the entry away; a write only takes it away (R242). -/
def State.filterNote (s : State) (h : Bool) (pa : Nat) (read : Bool) : State :=
  match (s.half h).filter.find? (fun e => e.1.toNat == lineOf pa) with
  | none => s
  | some e =>
    let s := s.modHalf h (fun k => { k with filter := k.filter.filter (fun o => o.1 != e.1) })
    if read then s.countDead e.2.toNat 48 else s

/-- What a read or write finds at its home: a line that is present ages (R212); a read that does not find its sector there, and every write, is
looked up in the dead-line filter (R242); what is no plain read takes an entry away uncounted (log 96).  Scratchpad has neither. -/
def State.noteAccess (s : State) (pa hint : Nat) (read : Bool) : State :=
  if isScratch pa then s
  else
    let line := (s.half (homeEast pa)).lineAt pa
    let here := line.any (fun l => (l.2.valid ||| l.2.filling ||| l.2.lost).getLsbD (sectorOf pa))
    let s := if line.isSome then s.touchLine pa hint else s
    if read && here then s else s.filterNote (homeEast pa) pa read

/-- Count corrected and uncorrectable codewords of a channel (R251, R261). -/
def State.countErrs (s : State) (ch : Nat) (es : List SymErr) : State :=
  let fixed := correctedAt es
  let unc := if es = [] then 0 else (checkSector es).countP (· == .uncorrectable)
  if es = [] then s else s.modChannel ch (fun k =>
    let st := setF k.status 63 48 (satAdd 16 (fld k.status 63 48) fixed.length)
    let corr := fixed.foldl (fun t p => tput [] t p ((s.launchCounter :: tget [] t p).take 1024)) k.corr
    { k with status := setF st 47 40 (satAdd 8 (fld st 47 40) unc), corr := corr })

/-- The copies of a sector in the caches and write-back buffers of the cores go, and its directory entry with them. -/
def State.dropCoreCopies (s : State) (pa : Nat) : State :=
  let h := homeEast pa
  let e := tget {} (s.half h).dir (pa / 128)
  let holders := if e.dstate = 2 then [e.owner.toNat] else (List.range 64).filter (fun n => e.sharers.getLsbD n)
  if e.dstate = 0 then s
  else
    (holders.foldl (fun s n => s.modCore n (fun k =>
      { k with l1i := k.l1i.filter (fun e => e.1 != pa / 128), l1d := k.l1d.filter (fun e => e.1 != pa / 128),
               l2 := tput {} k.l2 (pa / 128) {}, wb := k.wb.filter (fun w => w.pa.toNat != pa) })) s).modHalf h
        (fun k => { k with dir := tput {} k.dir (pa / 128) {} })

/-- A sector takes a value at its home: in its line if that is present, else in the buffer that holds it, else in its die. -/
def State.pokeHome (s : State) (pa : Nat) (d : Sector) : State :=
  let h := homeEast pa
  let ch := (s.placeOf pa).1
  match (s.half h).lineAt pa with
  | some (w, _) =>
    s.modHalf h (fun k => k.modWay (quireSet pa) w (fun l =>
      { l with data := tput 0 l.data (sectorOf pa) d, valid := setB l.valid (sectorOf pa) true,
               dirty := setB l.dirty (sectorOf pa) true, lost := setB l.lost (sectorOf pa) false,
               weak := setB l.weak (sectorOf pa) false, age := hitAge 0 l.age }))
  | none =>
    if (s.half h).around.any (fun e => e.1.toNat == pa) then
      s.modHalf h (fun k => { k with around := k.around.map (fun e => if e.1.toNat = pa then (e.1, d) else e) })
    else if (s.channel ch).writes.any (fun e => e.1.toNat == pa) then
      s.modChannel ch (fun k => { k with writes := k.writes.map (fun e => if e.1.toNat = pa then (e.1, d) else e) })
    else
      { s with mem := writeBytes s.mem pa (sectorBytes d) }.modChannel ch
        (fun k => { k with dieErrs := tput [] k.dieErrs (pa / 128) [] })

/-- Perform a write of a whole sector in one step at the Quire (log 15): core copies go, a present line is updated, otherwise the
buffered or stored sector is. -/
def State.pokeSector (s : State) (pa : Nat) (d : Sector) : State :=
  if isScratch pa then
    let o := pa % 0x10000000 / 128
    s.modHalf (homeEast pa) (fun k => { k with scratch := tput 0 k.scratch o d, bad := k.bad.filter (· != o) })
  else ((s.filterNote (homeEast pa) pa false).dropCoreCopies pa).pokeHome pa d

/-- A byte as a Quire-performed read returns it. -/
def State.viewByte (s : State) (a : Nat) : Byte := sectorByte (s.viewSector (sectorBase a)) (a % 128)

/-- `n` bytes from a physical address on. -/
def State.viewBytes (s : State) (a n : Nat) : List Byte := (List.range n).map (fun i => s.viewByte (a + i))

/-- A little-endian number from a physical address on. -/
def State.viewNat (s : State) (a n : Nat) : Nat := leNat (s.viewBytes a n)

/-- Wrong symbols that a fetch of a sector would meet in its dies: none where the Quire or a queue has the sector (R220, R249). -/
def State.fetchErrs (s : State) (pa : Nat) : List SymErr :=
  let held := match (s.half (homeEast pa)).lineAt pa with
    | some (_, l) => l.lost.getLsbD (sectorOf pa) || (l.weak &&& l.dirty).getLsbD (sectorOf pa) || l.good (sectorOf pa)
    | none => false
  if isScratch pa || held || s.buffered pa || (s.coreCopy (sectorBase pa)).isSome then [] else tget [] (s.channel (s.placeOf pa).1).dieErrs (pa / 128)

/-- Count what such a fetch corrects or cannot correct (R251). -/
def State.countFetch (s : State) (pa : Nat) : State := s.countErrs (s.placeOf pa).1 (s.fetchErrs pa)

/-- Write the bytes of a sector that a mask names in one step (log 15).  A sector under ordered reduction or in a transaction of the cores is
written once that has ended (R238, R282); a partial write of a sector that does not read writes nothing (R243, R249, R482). -/
def State.pokeMasked (s : State) (pa : Nat) (d : Sector) (mask : BitVec 128) (x : Option Nat := none) : State :=
  if s.sectorBusy pa then s.modHalf (homeEast pa) (fun k =>
    { k with late := k.late ++ [{ pa := BitVec.ofNat 48 pa, mask := mask, data := d, ctx := x.map (BitVec.ofNat 12) }] })
  else if mask = BitVec.allOnes 128 then s.pokeSector pa d
  else if s.readErr pa ≠ 0 then s.countFetch pa
  else (s.countFetch pa).pokeSector pa (mergeSector (s.viewSector pa) d mask)

/-- Write bytes that lie within one sector. -/
def State.pokePiece (s : State) (a : Nat) (bs : List Byte) (x : Option Nat := none) : State :=
  s.pokeMasked (sectorBase a) (BitVec.ofNat 1024 (leNat bs <<< (8 * (a % 128))))
    (byteMask a bs.length) x

/-- Write a record of the event log into the device-reserved region at an offset (R38); the region is placed as cold-start step 8 ends (R452).
A record whose sector does not read is not written there, and raises no event of its own (log 15). -/
def State.logAt (s : State) (off : Nat) (bs : List Byte) : State :=
  if s.coldStep < 9 then s else s.pokePiece (s.reservedBase + off) bs

/-- The launch record as it lies in memory (R342). -/
def LaunchRec.bytes (r : LaunchRec) : List Byte :=
  leBytes 64 r.entry.toNat ++ leBytes 4 r.id.toNat ++ leBytes 2 r.ctx.toNat ++
    leBytes 1 (r.gen.toNat + r.replays.toNat * 16) ++ leBytes 1 r.state.toNat ++ leBytes 16 r.complete.toNat ++
    leBytes 8 r.firstStart.toNat ++ leBytes 8 r.lastStart.toNat ++ leBytes 24 0

/-! ### Host-bound writes and events -/

/-- One posted write to the host (R349); while detached it is discarded and counted (R362). -/
def State.hostSend (s : State) (w : HostWrite) : State :=
  if s.host.attach = 2 then s.modHost (fun h => { h with stream := h.stream ++ [w] })
  else s.modHost (fun h => { h with dropped := h.dropped + 1 })

/-- Bytes to the host from an address on, cut at multiples of the max payload size (R349; fuel: the number of bytes). -/
def State.hostSendGo (mps : Nat) : Nat → State → Word → List Byte → State
  | 0, s, _, _ => s
  | f + 1, s, a, bs =>
    if bs.isEmpty then s else
    let n := mps - a.toNat % mps
    State.hostSendGo mps f (s.hostSend { addr := a, bytes := bs.take n }) (a + BitVec.ofNat 64 n) (bs.drop n)

/-- A write to the host of any length (R345, R349, log 99). -/
def State.hostSendAll (s : State) (a : Word) (bs : List Byte) : State := State.hostSendGo s.host.maxPayload bs.length s a bs

/-- Signal an MSI-X vector (R360): masked sets the pending bit, a hold-off defers the write. -/
def State.signal (s : State) (v : Nat) : State :=
  let e := tget {} s.host.msix v
  if e.masked || s.host.functionMask then s.modHost (fun h => { h with pending := h.pending ||| (1#32 <<< v) })
  else if bit s.host.holdOff v then s.modHost (fun h => { h with holdDue := h.holdDue ||| (1#32 <<< v) })
  else
    let s := s.hostSend { addr := e.addr, bytes := leBytes 4 e.data.toNat, msi := some (BitVec.ofNat 5 v) }
    if s.host.modUs = 0 then s else s.modHost (fun h => { h with holdOff := h.holdOff ||| (1#32 <<< v) })

/-- Signal an event's vector; while detached events go to the log only (R362). -/
def State.msi (s : State) (v : Nat) : State := if s.host.attach = 2 then s.signal v else s

/-- Write an event record to the host ring (R359). -/
def State.eventToHost (s : State) (seq : Nat) (rcd : BitVec 512) : State :=
  s.hostSend { addr := s.host.evRing + BitVec.ofNat 64 (seq % 2 ^ s.host.evLog2.toNat * 64), bytes := leBytes 64 rcd.toNat }

/-- The event-log interrupt of the 64 Zawick cores, taken in M-mode: the machine external interrupt pends in each core's mip (R356, log 30). -/
def State.eventInterrupt (s : State) : State :=
  { s with cores := (List.range 64).foldl (fun t n => tmod {} t n (fun k =>
      { k with csr := tmod 0 k.csr 0x344 (fun v => setB v 11 true) })) s.cores }

/-- A 64-byte event record: class, context and generation if any, the next Seq, the time, the payload (R357). -/
def State.eventRecord (s : State) (cls : Nat) (x : Option Nat) (payload : Nat) : BitVec 512 :=
  let c := match x with
    | some x => put x 12 492 + put (s.genOf x) 4 488 + putb true 487
    | none => 0
  BitVec.ofNat 512
    (put cls 8 504 + c + put s.events.next.toNat 64 416 + put s.launchCounter.toNat 64 352 + put payload 352 0)

/-- A record enters the event log's ring of 65 536 under the next Seq; the oldest gives way when the ring is full (R356). -/
def EventLog.append (l : EventLog) (rcd : BitVec 512) : EventLog :=
  { next := l.next + 1,
    oldest := if l.next - l.oldest = 65536 then l.oldest + 1 else l.oldest,
    log := tput 0 l.log (l.next.toNat % 65536) rcd }

/-- A record reaches the log: in State, in the reserved region (when it is in memory), and as the cores' interrupt (R356). -/
def State.logRecord (s : State) (rcd : BitVec 512) : State :=
  ({ s with events := s.events.append rcd }.logAt (0x12A00000 + s.events.next.toNat % 65536 * 64)
    (leBytes 64 rcd.toNat)).eventInterrupt

/-- A record that carries the next Seq enters the log, and goes to a host that is attached (R356, R359, R360). -/
def State.raise (s : State) (rcd : BitVec 512) (vec : Nat) : State :=
  if s.host.attach = 2 then ((s.logRecord rcd).eventToHost s.events.next.toNat rcd).msi vec else s.logRecord rcd

/-- Raise an event (R356-R360): class, context if any, payload in bits [351:0], MSI-X vector.  Until cold-start step 8 has ended the log
does not exist and up to 256 records are held (R452). -/
def State.event (s : State) (cls : Nat) (x : Option Nat) (payload vec : Nat) : State :=
  if s.coldStep < 9 then
    (if s.sec.heldEvents.length < 256 then s.modSec (fun k => { k with heldEvents := k.heldEvents ++ [s.eventRecord cls x payload] })
    else s)
  else s.raise (s.eventRecord cls x payload) vec

/-- The low 32 bits of the launch counter. -/
def State.time32 (s : State) : Nat := s.launchCounter.toNat % 2 ^ 32

/-- A device error record and its event (R358). -/
def State.deviceError (s : State) (kind : Nat) (die link : Nat := 7) (group : Nat := 0) (lane : Option Nat := none)
    (core op : Nat := 0) (pa : Option Nat := none) : State :=
  s.event 7 none (put (put kind 4 124 + put die 3 121 + put link 3 118 + put group 7 111 + putb lane.isSome 110 +
    put (lane.getD 0) 6 104 + put core 6 98 + put op 8 90 + putb pa.isSome 89 + put (pa.getD 0) 48 41) 128 224) 7

/-- A memory error record, its event, and Logged in the channel status register (R250, R261). -/
def State.memError (s : State) (kind ch : Nat) (pos : Option Nat := none) (level : Nat := 0) (pa : Option Nat := none)
    (x : Option Nat := none) : State :=
  (s.modChannel ch (fun k => { k with status := setB k.status 0 true })).event 3 x
    (put (put kind 4 124 + put ch 8 116 + putb pos.isSome 115 + put (pos.getD 0) 7 108 + putb pa.isSome 107 +
      put level 4 100 + put (pa.getD 0) 48 48 + put (x.getD 0) 12 36 + putb x.isSome 35 + put s.time32 32 0) 128 224) 3

/-- Write the bytes of a sector that a mask names in one step; a partial write of a sector that fails in its dies is recorded with the
context that the write carries (R249, R482). -/
def State.pokeMaskNoted (s : State) (pa : Nat) (d : Sector) (mask : BitVec 128) (x : Option Nat) : State :=
  let t := s.pokeMasked pa d mask x
  if mask = BitVec.allOnes 128 ∨ s.sectorBusy pa ∨ isScratch pa ∨ s.dieErr pa = 0 ∨ s.readErr pa ≠ 1 ∨ s.fetchErrs pa = [] then t
  else t.memError 2 (s.placeOf pa).1 (pa := some pa) (x := x)

/-- Write bytes that lie within one sector in one step, and record a failure. -/
def State.pokeNoted (s : State) (a : Nat) (bs : List Byte) (x : Option Nat) : State :=
  s.pokeMaskNoted (sectorBase a) (BitVec.ofNat 1024 (leNat bs <<< (8 * (a % 128)))) (byteMask a bs.length) x

/-- One-step writes that waited are made once nothing keeps their sector busy (R238, R282). -/
def State.lateWrites (s : State) (h : Bool) : State :=
  let go := (s.half h).late.filter (fun e => !s.sectorBusy e.pa.toNat)
  let s := s.modHalf h (fun k => { k with late := k.late.filter (fun e => !go.contains e) })
  go.foldl (fun s e => s.pokeMaskNoted e.pa.toNat e.data e.mask (e.ctx.map (fun x => x.toNat))) s

/-- Split bytes at sector boundaries (fuel: the length). -/
def cutSectors : Nat → Nat → List Byte → List (Nat × List Byte)
  | 0, _, _ => []
  | f + 1, a, bs => if bs.isEmpty then [] else
      let n := 128 - a % 128
      (a, bs.take n) :: cutSectors f (a + n) (bs.drop n)

/-- Half `k` of the Quire with the sectors from byte `lo` to byte `hi` holding the bytes `bs`: its lines and the entries of its write-around
buffer take them, Lost sectors with them (R243), the lines age (R212), the dead-line filter forgets them (R242), and no core has a copy. -/
def QHalf.takeSpan (k : QHalf) (lo hi : Nat) (bs : List Byte) : QHalf :=
  let at_ := fun (p : Nat) => ofSectorBytes ((bs.drop (p * 128 - lo)).take 128)
  let inSpan := fun (p : Nat) => decide (lo ≤ p * 128 ∧ p * 128 < hi)
  { k with
    lines := tmap {} k.lines (fun _ l =>
      (List.range 16).foldl (fun (l : QLine) i =>
        if l.present && inSpan (l.line.toNat * 16 + i) then
          { l with data := tput 0 l.data i (at_ (l.line.toNat * 16 + i)), valid := setB l.valid i true, dirty := setB l.dirty i true,
                   lost := setB l.lost i false, weak := setB l.weak i false, age := hitAge 0 l.age }
        else l) l),
    around := k.around.map (fun e => if inSpan (e.1.toNat / 128) then (e.1, at_ (e.1.toNat / 128)) else e),
    filter := k.filter.filter (fun e => !(List.range 16).any (fun i => inSpan (e.1.toNat * 16 + i))),
    dir := k.dir.filter (fun e => !inSpan e.1) }

/-- Sectors, by number, that stand above the dies: in a line of the Quire, a write-around buffer or a write queue. -/
def State.aboveDies (s : State) : List Nat :=
  [s.west, s.east].flatMap (fun k => (k.lines.filter (fun p => p.2.present)).flatMap (fun p =>
      (List.range 16).map (fun i => p.2.line.toNat * 16 + i)) ++ k.around.map (fun e => e.1.toNat / 128)) ++
    s.channels.flatMap (fun c => c.2.writes.map (fun e => e.1.toNat / 128))

/-- Write whole sectors from an address on in one step, a span at a time: lines, buffers and dies take them, core copies go (log 15). -/
def State.pokeWhole (s : State) (lo : Nat) (bs : List Byte) : State :=
  let hi := lo + bs.length
  let held := fun (d : Tbl DirEnt) => d.any (fun e => decide (lo ≤ e.1 * 128 ∧ e.1 * 128 < hi))
  let drop := held s.west.dir || held s.east.dir
  let out := fun (p : Nat) => decide (p * 128 < lo ∨ hi ≤ p * 128)
  let above := s.aboveDies.filter (fun p => !out p)
  { s with
    mem := above.foldl (fun m p => writeBytes m (p * 128) (readBytes s.mem (p * 128) 128)) (writeBytes s.mem lo bs),
    west := s.west.takeSpan lo hi bs, east := s.east.takeSpan lo hi bs,
    channels := tmap {} s.channels (fun _ k =>
      { k with writes := k.writes.map (fun e => if out (e.1.toNat / 128) then e
                                                else (e.1, ofSectorBytes ((bs.drop (e.1.toNat - lo)).take 128))),
               dieErrs := k.dieErrs.filter (fun e => out e.1 || above.contains e.1) }),
    cores := if drop then tmap {} s.cores (fun _ k =>
        { k with l1i := k.l1i.filter (fun e => out e.1), l1d := k.l1d.filter (fun e => out e.1), l2 := k.l2.filter (fun e => out e.1),
                 wb := k.wb.filter (fun w => out (w.pa.toNat / 128)) }) else s.cores }

/-- Write bytes at a physical address in one step (log 15): the part-sectors at both ends as masked writes, the whole sectors between as a
span, or one by one where one of them has to wait. -/
def State.pokeSpan (s : State) (a : Nat) (bs : List Byte) : State :=
  let lo := sectorBase (a + 127)
  let head := min bs.length (lo - a)
  let n := (bs.length - head) / 128 * 128
  let mid := (bs.drop head).take n
  let busy := fun (k : QHalf) => k.reds.any (fun t => decide (lo ≤ t.pa.toNat ∧ t.pa.toNat < lo + n)) ||
    k.trans.any (fun t => decide (lo ≤ t.pa.toNat ∧ t.pa.toNat < lo + n))
  let s := if head = 0 then s else s.pokeNoted a (bs.take head) none
  let s := if n = 0 then s
    else if busy s.west || busy s.east then (cutSectors mid.length lo mid).foldl (fun s p => s.pokePiece p.1 p.2) s
    else s.pokeWhole lo mid
  if bs.length = head + n then s else s.pokeNoted (lo + n) (bs.drop (head + n)) none

/-- Write bytes at an offset of the device-reserved region (R38), once it has been placed (R452). -/
def State.reservedWrite (s : State) (off : Nat) (bs : List Byte) : State :=
  if s.coldStep < 9 then s else s.pokeSpan (s.reservedBase + off) bs

/-- Write a record that lies within one sector into the device-reserved region at an offset (R38); the region is placed as cold-start
step 8 ends (R452). -/
def State.recordAt (s : State) (off : Nat) (bs : List Byte) : State :=
  if s.coldStep < 9 then s else s.pokeNoted (s.reservedBase + off) bs none

/-- Write the launch record of a queue to its place in the device-reserved region (R38, R342). -/
def State.storeLaunch (s : State) (q : Nat) : State := s.recordAt (0x12800000 + q * 128) (s.queue q).launch.bytes

/-- A sector that a line holds is lost (R243): it is marked, and the half writes its record; a fifth line that is locked or holds a Lost
sector unlocks the locked line in the lowest way. -/
def State.loseSector (s : State) (h : Bool) (set w i : Nat) : State :=
  let l := (s.half h).way set w
  let s := (s.modHalf h (fun k => k.modWay set w (fun l =>
    { l with lost := setB l.lost i true, dirty := setB l.dirty i false, valid := setB l.valid i false, weak := setB l.weak i false,
             evicting := false }))).deviceError 2 (pa := some (l.line.toNat * 2048 + i * 128))
  let k := s.half h
  let lines := (List.range 16).filter (fun v => (k.way set v).present)
  if 4 < lines.countP (fun v => (k.way set v).lock || (k.way set v).lost != 0) then
    match lines.find? (fun v => (k.way set v).lock && v != w) with
    | some v => s.modHalf h (fun k => k.modWay set v (fun l => { l with lock := false, age := 2 }))
    | none => s
  else s

/-- A sector that a read finds failing its check (R243): a clean one is dropped, to be fetched again, a dirty one is lost by `lose`. -/
def State.foundWeak (s : State) (pa : Nat) (lose : State → Bool → Nat → Nat → Nat → State) : State :=
  let i := sectorOf pa
  match (s.half (homeEast pa)).lineAt pa with
  | none => s
  | some (w, l) =>
    if isScratch pa || !(l.valid &&& l.weak).getLsbD i then s
    else if l.dirty.getLsbD i then lose s (homeEast pa) (quireSet pa) w i
    else s.modHalf (homeEast pa) (fun k => k.modWay (quireSet pa) w (fun l =>
      { l with valid := setB l.valid i false, weak := setB l.weak i false }))

/-- The owner of a sector keeps a shared copy, or none where its data fails its check, and the directory names it as a sharer (R277, R282). -/
def State.shareCopy (s : State) (pa n : Nat) (bad : Bool) : State :=
  let s := s.modHalf (homeEast pa) (fun k => { k with dir := tput {} k.dir (pa / 128) { dstate := 1, sharers := 1#64 <<< n } })
  s.modCore n (fun k =>
    let l := tget {} k.l2 (pa / 128)
    if bad then
      { k with l2 := tput {} k.l2 (pa / 128) {}, l1i := k.l1i.filter (fun e => e.1 != pa / 128),
               l1d := k.l1d.filter (fun e => e.1 != pa / 128),
               res := if k.res.any (fun r => r.toNat / 128 == pa / 128) then none else k.res }
    else if l.st = .invalid then k else { k with l2 := tput {} k.l2 (pa / 128) { l with st := .shared } })

/-- A read in one step of a sector that a core owns does what SnpDown does (R277, R282): the core's dirty data enters the home, lost where it
fails its check, and the core keeps a shared copy. -/
def State.downOwner (s : State) (pa : Nat) : State :=
  let h := homeEast pa
  let pa := sectorBase pa
  let e := tget {} (s.half h).dir (pa / 128)
  if isScratch pa || e.dstate != 2 then s
  else
    let c := s.coreCopy pa
    let s := s.shareCopy pa e.owner.toNat (c.any (fun c => c.2))
    match c, (s.half h).lineAt pa with
    | some (d, false), _ => s.pokeHome pa d
    | some (_, true), some (w, _) => s.loseSector h (quireSet pa) w (sectorOf pa)
    | _, _ => s

/-- What a one-step read of a sector does beside returning its data (log 15): an owner gives it up (R282), the line ages or the dead-line filter
counts (R212, R242), a held sector that fails its check is dropped or lost (R243), the codewords of a fetch are counted, and an uncorrectable one
is recorded with its context (R249, R251). -/
def State.noteRead (s : State) (pa : Nat) (x : Option Nat) (hint : Nat := 0) : State :=
  let s := (s.downOwner pa).foundWeak pa State.loseSector
  let bad := !isScratch pa && decide (pa < s.capacity) && errsUncorrectable (s.fetchErrs pa)
  let s := (s.countFetch pa).noteAccess pa hint true
  if bad then s.memError 2 (s.placeOf pa).1 (pa := some (sectorBase pa)) (x := x) else s

/-- A sequencing error record and its event (R337). -/
def State.seqError (s : State) (kind x : Nat) (len : Nat := 1) (cluster group engine : Nat := 0)
    (members : List Nat := []) : State :=
  let ms := (members.take 8).zipIdx.foldl (fun a (q, i) => a + put q 14 (130 - 14 * i)) 0
  s.event 5 (some x) (put (put kind 4 252 + put x 12 240 + put (s.genOf x) 4 236 + put len 14 222 + put cluster 7 215 +
    put group 6 209 + put engine 6 203 + ms + put s.time32 32 0) 256 96) 5

/-- ModState changes; SMBALERT# goes low (R350, R470). -/
def State.setModState (s : State) (v : BitVec 4) : State :=
  if s.modState = v then s
  else { s with modState := v, sec := { s.sec with alert := s.sec.alert ||| 1, alertLow := true } }

/-! ### Translation -/

/-- A failed translation: reason of R302 and the level at which the walk ended. -/
structure XFail where
  reason : Nat
  level : Nat
deriving DecidableEq, Repr

/-- Whether a valid entry is an invalid one (R293). -/
def State.pteInvalid (s : State) (x level idx : Nat) (e : BitVec 64) : Bool :=
  let ty := fld e 2 1
  let span := fld e 59 57
  let lg := 12 + 9 * level
  let addr := fld e 47 12 * 4096
  let pos := (idx % 2 ^ span) * 2 ^ lg
  decide (fld e 63 60 ≠ 0) || decide (fld e 11 6 ≠ 0) || ty == 3 || (ty == 0 && level == 0) ||
  (ty != 0 && level == 3) ||
  (ty == 0 && (span != 0 || bit e 56 || fld e 55 48 != 0 || fld e 5 3 != 0)) ||
  (ty != 0 && (decide (4 < span) || ((bit e 4 || bit e 5) && !bit e 3))) ||
  (ty == 2 && (bit e 5 || decide (fld (s.ctx x).xlat 83 75 ≤ fld e 55 48))) ||
  (ty == 1 && (fld e 55 48 != 0 || addr % 2 ^ lg != 0 || decide (addr < pos) || (addr - pos) % 2 ^ (lg + span) != 0 ||
    !(decide (addr + 2 ^ lg ≤ s.reservedBase) ||
      (decide (scratchBase ≤ addr ∧ addr + 2 ^ lg ≤ scratchBase + 0x20000000)))))

/-- The translation a leaf gives to its whole merged group (R295). -/
def leafEnt (x gen va level : Nat) (e : BitVec 64) (slot : BitVec 128) : TlbEnt :=
  let lg := 12 + 9 * level
  let span := fld e 59 57
  let idx := va / 2 ^ lg % 512
  { ctx := BitVec.ofNat 12 x, gen := BitVec.ofNat 4 gen, lo := BitVec.ofNat 48 (va / 2 ^ (lg + span) * 2 ^ (lg + span)),
    lg := BitVec.ofNat 6 (lg + span),
    base := BitVec.ofInt 48 ((fld e 47 12 * 4096 : Nat) - ((idx % 2 ^ span) * 2 ^ lg : Nat)),
    pin := bit e 56, r := bit e 3, w := bit e 4, x := bit e 5, remote := decide (fld e 2 1 = 2), slot := slot }

/-- What reading one entry of a walk leads to. -/
inductive WalkStep where
  | fail (f : XFail)
  | table (pa : Nat)
  | leaf
deriving DecidableEq, Repr

/-- The step of a walk at an entry (R291-R294). -/
def State.walkStep (s : State) (x level va : Nat) (e : BitVec 64) : WalkStep :=
  if !bit e 0 then .fail { reason := 1, level := level }
  else if s.pteInvalid x level (va / 2 ^ (12 + 9 * level) % 512) e then .fail { reason := 2, level := level }
  else if fld e 2 1 = 0 then .table (fld e 47 12 * 4096)
  else .leaf

/-- Physical address of the entry a walk reads at a level. -/
def pteAddr (table level va : Nat) : Nat := table + va / 2 ^ (12 + 9 * level) % 512 * 8

/-- A walk made in one step (log 15): levels from `level` down (fuel: level + 1). -/
def State.walkFrom (s : State) (x gen va : Nat) : Nat → Nat → Except XFail TlbEnt
  | 0, _ => .error { reason := 2, level := 0 }
  | level + 1, table =>
    let a := pteAddr table level va
    let er := s.readErr a
    if er = 1 then .error { reason := 9, level := level }
    else if er ≠ 0 then .error { reason := 2, level := level }
    else
      let e := BitVec.ofNat 64 (s.viewNat a 8)
      match s.walkStep x level va e with
      | .fail f => .error f
      | .table t => s.walkFrom x gen va level t
      | .leaf =>
        if fld e 2 1 = 2 then
          let sa := fld (s.ctx x).xlat 119 84 * 4096 + fld e 55 48 * 16
          let sr := s.readErr sa
          if sr = 1 then .error { reason := 9, level := level }
          else if sr ≠ 0 then .error { reason := 2, level := level }
          else
            let slot := BitVec.ofNat 128 (s.viewNat sa 16)
            if bit slot 127 then .ok (leafEnt x gen va level e slot) else .error { reason := 2, level := level }
        else .ok (leafEnt x gen va level e 0)

/-- Translate a virtual address of a context in one step. -/
def State.walk (s : State) (x va : Nat) : Except XFail TlbEnt :=
  if 2 ^ 48 ≤ va then .error { reason := 4, level := 3 }
  else s.walkFrom x (s.genOf x) va 4 (fld (s.ctx x).xlat 47 12 * 4096)

/-- Physical address, or window offset of a remote leaf, of a virtual address under an entry. -/
def TlbEnt.addr (e : TlbEnt) (va : Nat) : Nat := (e.base.toNat + (va - e.lo.toNat)) % 2 ^ 48

/-- Level of the leaf that an entry was formed from. -/
def TlbEnt.level (e : TlbEnt) : Nat := (e.lg.toNat - 12) / 9

/-- Whether an entry covers an address under the current generation (R296). -/
def TlbEnt.covers (e : TlbEnt) (x gen va : Nat) : Bool :=
  e.ctx.toNat == x && e.gen.toNat == gen && decide (e.lo.toNat ≤ va ∧ va < e.lo.toNat + 2 ^ e.lg.toNat)

/-- Kinds of access for the check of R298. -/
inductive AccessDir where
  | read
  | write
  | fetch
  | atomic
deriving DecidableEq, Repr

/-- The check of R298 for the engines of a cluster: none where allowed, else the reason. -/
def clusterCheck (d : AccessDir) (e : TlbEnt) (va : Nat) : Option Nat :=
  match d with
  | .read => if e.remote || !e.pin || !e.r then some 3 else none
  | .fetch => if e.remote || !e.pin || !e.x then some 3 else none
  | .atomic => if e.remote || !e.pin || !e.w then some 3 else none
  | .write =>
    if !e.pin || !e.w then some 3
    else if e.remote && decide (fld e.slot 90 63 * 4096 ≤ e.addr va) then some 5 else none

/-- Translate for a cluster engine in one step and check (R298): a local physical address or remote entry, or the reason. -/
def State.clusterXlate (s : State) (x va : Nat) (d : AccessDir) : Except Nat TlbEnt :=
  match s.walk x va with
  | .error f => .error f.reason
  | .ok e => match clusterCheck d e va with
    | some r => .error r
    | none => .ok e

/-- Number of sets and ways of a look-aside buffer by its source (R296, R481). -/
def tlbShape (src : Nat) : Nat × Nat :=
  if src < 0x100 then (128, 8) else if src < 0x300 then (64, 4) else (512, 8)

def tlbSet (sets : Nat) (e : TlbEnt) : Nat := ((e.lo.toNat / 2 ^ e.lg.toNat) ^^^ e.ctx.toNat) % sets

/-- The last element of a list that satisfies a test is removed. -/
def dropLastWhere {α : Type} (p : α → Bool) (l : List α) : List α :=
  match takeFirst p l.reverse with
  | some (_, r) => r.reverse
  | none => l

/-- Enter a translation (R481): most recent first; in a full set a stale entry goes, else the least recently used. -/
def State.tlbInsert (s : State) (src : Nat) (l : List TlbEnt) (e : TlbEnt) : List TlbEnt :=
  let (sets, ways) := tlbShape src
  let l := l.filter (fun o => !(o.ctx == e.ctx && o.gen == e.gen && o.lo == e.lo && o.lg == e.lg))
  let same := fun o => tlbSet sets o == tlbSet sets e
  let stale := fun o => same o && o.gen.toNat != s.genOf o.ctx.toNat
  let l := if l.countP same < ways then l
    else if l.any stale then dropLastWhere stale l else dropLastWhere same l
  e :: l

/-- The look-aside buffer a source uses. -/
def State.tlbOf (s : State) (src : Nat) : List TlbEnt :=
  if src < 0x100 then (s.cluster src).tlb
  else if src < 0x300 then (s.engine (src - 0x200)).tlb
  else s.sh.winTlb

def State.setTlb (s : State) (src : Nat) (l : List TlbEnt) : State :=
  if src < 0x100 then s.modCluster src (fun k => { k with tlb := l })
  else if src < 0x300 then s.modEngine (src - 0x200) (fun k => { k with tlb := l })
  else s.modShared (fun h => { h with winTlb := l })

/-- The walk cache of a source's die (R296). -/
def State.wcOf (s : State) (src : Nat) : List WcEnt :=
  if src < 0x100 then (if clusterEast src then s.sh.wcEast else s.sh.wcWest) else s.sh.wcSpine

def State.setWc (s : State) (src : Nat) (l : List WcEnt) : State :=
  s.modShared (fun h =>
    if src < 0x100 then (if clusterEast src then { h with wcEast := l } else { h with wcWest := l })
    else { h with wcSpine := l })

/-- Region of a walk-cache entry: the region one pointer entry of its level covers. -/
def wcLg (level : Nat) : Nat := 12 + 9 * level
def wcSet (e : WcEnt) : Nat := ((e.lo.toNat / 2 ^ wcLg e.level.toNat) ^^^ e.ctx.toNat) % 256

/-- Enter a pointer (R296, R481). -/
def State.wcInsert (s : State) (src : Nat) (e : WcEnt) : State :=
  let l := (s.wcOf src).filter (fun o => !(o.ctx == e.ctx && o.gen == e.gen && o.lo == e.lo && o.level == e.level))
  let same := fun o => wcSet o == wcSet e
  let stale := fun o => same o && o.gen.toNat != s.genOf o.ctx.toNat
  let l := if l.countP same < 8 then l
    else if l.any stale then dropLastWhere stale l else dropLastWhere same l
  s.setWc src (e :: l)

/-- The deepest cached pointer for an address (R297). -/
def State.wcHit (s : State) (src x gen va : Nat) : Option WcEnt :=
  [1, 2, 3].findSome? (fun level => (s.wcOf src).find? (fun e => e.ctx.toNat == x && e.gen.toNat == gen && e.level.toNat == level &&
    e.lo.toNat == va / 2 ^ wcLg level * 2 ^ wcLg level))

/-- The level and table at which a walk begins: below the deepest cached pointer, which becomes the most recently used, else at the root
(R297, R481). -/
def State.wcLookup (s : State) (src x gen va : Nat) : Nat × Nat × State :=
  match s.wcHit src x gen va with
  | some e => (e.level.toNat - 1, e.table.toNat, s.setWc src (e :: (s.wcOf src).erase e))
  | none => (3, fld (s.ctx x).xlat 47 12 * 4096, s)

/-- Walks a walker's die has in flight (R296): West, East, Spine by source. -/
def walkDie (src : Nat) : Nat := if src < 0x100 then (if clusterEast src then 1 else 0) else 2

/-- Start a walk for a source (R294): the read of its first entry is an RdSec under the source's own tag.  A walk for which its walker has
no room waits until another of that walker ends (R296). -/
def State.startWalk (s : State) (src x va : Nat) : State :=
  let gen := s.genOf x
  let page := va / 4096 * 4096
  let busy := s.sh.walks.countP (fun w => walkDie w.src.toNat == walkDie src)
  let q := (BitVec.ofNat 12 src, BitVec.ofNat 12 x, BitVec.ofNat 48 page)
  if s.sh.walks.any (fun w => w.src.toNat == src && w.ctx.toNat == x && w.va.toNat == page) || s.sh.walkQueue.contains q then s
  else if (if walkDie src = 2 then 32 else 64) ≤ busy then s.modShared (fun h => { h with walkQueue := h.walkQueue ++ [q] })
  else
    let (level, table, s) := s.wcLookup src x gen va
    let w : Walk := { src := BitVec.ofNat 12 src, ctx := BitVec.ofNat 12 x, gen := BitVec.ofNat 4 gen,
                      va := BitVec.ofNat 48 page, level := BitVec.ofNat 2 level, table := BitVec.ofNat 48 table,
                      leaf := none, leafLevel := 0, seq := s.sh.walkSeq }
    (s.modShared (fun h => { h with walks := h.walks ++ [w], walkSeq := h.walkSeq + 1 })).request
      { vc := 0, op := 1, src := w.src, tag := 0, ctx := w.ctx, gen := w.gen,
        pa := BitVec.ofNat 48 (sectorBase (pteAddr table level page)) } (.walk w.ctx w.va w.seq)

/-- Result of a look-aside access by an engine that waits for walks. -/
inductive Look where
  | hit (e : TlbEnt)
  | miss
  | fail (f : XFail)
deriving DecidableEq, Repr

/-- Look an address up for a source (R296-R298): a hit, a failed walk that has ended, or a miss.  An address of more than 48 bits makes no walk:
its Level is 3 (log 98). -/
def State.look (s : State) (src x va : Nat) : Look :=
  if 2 ^ 48 ≤ va then .fail { reason := 4, level := 3 }
  else match (s.tlbOf src).find? (fun e => e.covers x (s.genOf x) va) with
    | some e => .hit e
    | none =>
      match s.sh.walkFails.find? (fun f => f.src.toNat == src && f.ctx.toNat == x && f.page.toNat == va / 4096 * 4096) with
      | some f => .fail { reason := f.reason.toNat, level := f.level.toNat }
      | none => .miss

/-- Base of the 4 KiB page of an address. -/
def pageOf (va : Nat) : Nat := va / 4096 * 4096

/-- Look an address up for a unit of a cluster: among the translations its waiting access has obtained, then as its source.  A failed walk
is seen only by those that have waited for it: its result is never cached (R294). -/
def State.lookFor (s : State) (c o x va : Nat) : Look :=
  match (s.cluster c).xlat.find? (fun p => p.1 == o && p.2.covers x (s.genOf x) va) with
  | some p => .hit p.2
  | none => match s.look c x va with
    | .fail f => if decide (2 ^ 48 ≤ va) || (s.cluster c).waits.contains (o, pageOf va) then .fail f else .miss
    | r => r

/-- Addresses of a unit's access that miss. -/
def State.misses (s : State) (c o x : Nat) (vas : List Nat) : List Nat :=
  vas.filter (fun va => match s.lookFor c o x va with | .miss => true | _ => false)

/-- A unit's access keeps the translations it has and asks for those that miss (R296, R297), so that it ends however they share the
look-aside buffer. -/
def State.gather (s : State) (c o x : Nat) (vas : List Nat) : State :=
  let got := (vas.filterMap (fun va => match s.lookFor c o x va with | .hit e => some (o, e) | _ => none)).eraseDups
  let miss := s.misses c o x vas
  miss.foldl (fun s va => s.startWalk c x va) (s.modCluster c (fun u =>
    { u with xlat := u.xlat.filter (fun p => p.1 != o) ++ got, waits := (u.waits ++ miss.map (fun va => (o, pageOf va))).eraseDups }))

/-- The failed walks of a cluster that nobody waits for any more are forgotten (R294). -/
def State.dropFails (s : State) (c : Nat) : State :=
  let idle := fun (f : WalkFail) => f.src.toNat == c && !(s.cluster c).waits.any (fun p => p.2 == f.page.toNat)
  if s.sh.walkFails.any idle then s.modShared (fun h => { h with walkFails := h.walkFails.filter (fun f => !idle f) }) else s

/-- A unit's access has taken its translations, or is given up. -/
def State.ungather (s : State) (c o : Nat) : State :=
  if (s.cluster c).xlat.any (fun p => p.1 == o) || (s.cluster c).waits.any (fun p => p.1 == o) then
    (s.modCluster c (fun u => { u with xlat := u.xlat.filter (fun p => p.1 != o), waits := u.waits.filter (fun p => p.1 != o) })).dropFails c
  else s

/-- Forget the failed walks of a source that an access has taken note of. -/
def State.clearFails (s : State) (src : Nat) : State :=
  if s.sh.walkFails.any (fun f => f.src.toNat == src) then
    s.modShared (fun h => { h with walkFails := h.walkFails.filter (fun f => f.src.toNat != src) }) else s

/-- A hit makes its entry the most recently used (R481). -/
def State.tlbTouch (s : State) (src : Nat) (e : TlbEnt) : State :=
  if (s.tlbOf src).contains e then s.setTlb src (e :: (s.tlbOf src).erase e) else s

/-- Sectors that a one-step walk reads (log 15). -/
def State.walkSectors (s : State) (x va : Nat) : Nat → Nat → List Nat
  | 0, _ => []
  | level + 1, table =>
    let a := pteAddr table level va
    let e := BitVec.ofNat 64 (s.viewNat a 8)
    sectorBase a :: (if s.readErr a ≠ 0 then [] else match s.walkStep x level va e with
      | .fail _ => []
      | .table t => s.walkSectors x va level t
      | .leaf => if fld e 2 1 = 2 then [sectorBase (fld (s.ctx x).xlat 119 84 * 4096 + fld e 55 48 * 16)] else [])

/-- What a one-step walk does beside translating. -/
def State.noteWalk (s : State) (x va : Nat) : State :=
  if 2 ^ 48 ≤ va then s
  else (s.walkSectors x va 4 (fld (s.ctx x).xlat 47 12 * 4096)).foldl (fun s pa => s.noteRead pa (some x)) s

/-- A write of one piece of a sector through a context's tables in one step: dropped where the page does not translate to local memory; one
whose sector does not read is recorded (R482). -/
def State.writePieceVA (s : State) (x va : Nat) (bs : List Byte) : State :=
  match s.walk x va with
  | .ok e =>
    if e.remote then s
    else (s.noteWalk x va).pokeNoted (e.addr va) bs (some x)
  | .error _ => s.noteWalk x va

/-- Bytes written in one step through a context's tables (completion records, read data; log 15), one write for each sector. -/
def State.writeVA (s : State) (x va : Nat) (bs : List Byte) : State :=
  (cutSectors bs.length va bs).foldl (fun s p => s.writePieceVA x p.1 p.2) s

/-- Bytes read in one step through a context's tables; none if a page does not translate to readable local memory or a sector does
not read. -/
def State.readVA (s : State) (x : Nat) : Nat → Nat → Option (List Byte)
  | _, 0 => some []
  | va, n + 1 =>
    match s.walk x va with
    | .ok e =>
      if e.remote || s.readErr (sectorBase (e.addr va)) != 0 then none
      else (s.readVA x (va + 1) n).map (fun t => s.viewByte (e.addr va) :: t)
    | .error _ => none

/-- What such a read does beside returning its bytes. -/
def State.noteVA (s : State) (x va n : Nat) : State :=
  (cutSectors n va (List.replicate n 0)).foldl (fun s p =>
    let s := s.noteWalk x p.1
    match s.walk x p.1 with
    | .ok e => if e.remote then s else s.noteRead (sectorBase (e.addr p.1)) (some x)
    | .error _ => s) s

/-- Whether a sector that such a read needs is under ordered reduction or in a transaction of the cores: the read waits (R238, R282). -/
def State.tracksVA (s : State) (x va n : Nat) : Bool :=
  (cutSectors n va (List.replicate n 0)).any (fun p => match s.walk x p.1 with
    | .ok e => !e.remote && s.sectorBusy (e.addr p.1)
    | .error _ => false)

/-! ### Queues -/

namespace Queue
def st (q : Queue) : Nat := fld q.reg 31 28
def head (q : Queue) : Nat := fld q.reg 63 48
def tail (q : Queue) : Nat := fld q.reg 47 32
def type (q : Queue) : Nat := fld q.reg 23 22
def ctx (q : Queue) : Nat := fld q.reg 21 10
def bind (q : Queue) : Nat := fld q.reg 9 4
def done (q : Queue) : Nat := fld q.reg 127 64
def setSt (q : Queue) (v : Nat) : Queue := { q with reg := setF q.reg 31 28 v }
def setErr (q : Queue) (v : Nat) : Queue := { q with reg := setF q.reg 27 24 v }
def setHead (q : Queue) (v : Nat) : Queue := { q with reg := setF q.reg 63 48 v }
def setTail (q : Queue) (v : Nat) : Queue := { q with reg := setF q.reg 47 32 v }
def setDone (q : Queue) (v : Nat) : Queue := { q with reg := setF q.reg 127 64 v }
def armed (q : Queue) : Bool := bit q.reg 0
def setArmed (q : Queue) (b : Bool) : Queue := { q with reg := setB q.reg 0 b }
end Queue

/-- Error code of a queue (R314). -/
def Queue.err (q : Queue) : Nat := fld q.reg 27 24

/-- Entries of a queue that have been fetched, are being fetched or run. -/
def Queue.held (k : Queue) : Nat := k.fetched.length + k.inFetch + (if k.running.isSome then 1 else 0)

/-- The fence wait that a queue runs, which is not satisfied yet (R329). -/
def Queue.fence (k : Queue) : Option (BitVec 512) :=
  match k.running with
  | some e => if fld e 495 488 = 3 then some e else none
  | none => none

/-- The State that a queue shows which is neither unused, stopped nor in error (R314): blocked at a fence wait (R329, R334), else at a stamp
that it waits for (R322), else running, else fetching while entries are announced or held, else idle and armed (R323, log 88). -/
def Queue.settle (q : Queue) : Queue :=
  if q.st = 6 ∨ q.st = 7 ∨ q.st = 0 then q
  else if q.fence.isSome then q.setSt 4
  else if q.stampAt.isSome then q.setSt 3
  else if q.running.isSome then q.setSt 5
  else if q.head ≠ q.tail then (q.setSt 2).setArmed false
  else if q.held ≠ 0 then q.setSt 2
  else (q.setSt 1).setArmed true

/-- Whether a queue is stopped by an error or a stop of its context: its entries neither start nor are dispatched (R338, R339). -/
def Queue.halted (k : Queue) : Bool := k.st == 0 || k.st == 6 || (k.st == 7 && k.err == 3)

/-- The completion record (R319). -/
def cplRecord (id status replays done info num time : Nat) : Nat :=
  put id 32 224 + put status 8 216 + put replays 4 212 + put done 64 144 + put info 32 112 + put num 5 80 + put time 64 0

/-- Write a queue's completion record for the entry that brought Done to its present value, and raise its event (R319, R315,
R357). -/
def State.writeCpl (s : State) (q : Nat) (id status replays info num : Nat) (notify : Bool) : State :=
  let k := s.queue q
  let rcd := cplRecord id status replays k.done info num s.launchCounter.toNat
  let slot := (k.done + 2 ^ 64 - 1) % 2 ^ 64 % 2 ^ k.cplLog2.toNat
  let a := k.cpl.toNat + slot * 32
  let s := if k.cplHost then
      (if k.suspended then s.modHost (fun h => { h with dropped := h.dropped + 1 })
       else s.hostSend { addr := BitVec.ofNat 64 a, bytes := leBytes 32 rcd })
    else s.writeVA k.ctx a (leBytes 32 rcd)
  if notify then s.event 6 (some k.ctx) (put q 14 338 + put rcd 256 82) (16 + q % 16) else s

/-- Complete the running entry of a queue (R313). -/
def State.complete (s : State) (q status : Nat) (info : Nat := 0) (num : Nat := 0) (replays : Nat := 0) : State :=
  match (s.queue q).running with
  | none => s
  | some e =>
    let s := s.modQueue q (fun k => Queue.settle ({ k with running := none, dispatched := false, started := false }.setDone
      ((k.done + 1) % 2 ^ 64)))
    s.writeCpl q (q * 65536 + fld e 511 496) status replays info num (bit e 486)

/-- Queues of a context that have been created. -/
def State.queuesOf (s : State) (x : Nat) : List Nat :=
  (s.queues.filter (fun p => p.2.st != 0 && p.2.ctx == x)).map (fun p => p.1)

/-! ### Groups and clusters of a context -/

/-- Clusters that run a kernel of a context. -/
def State.clustersOf (s : State) (x : Nat) : List Nat :=
  (s.clusters.filter (fun p => match p.2.kernel with | some k => k.ctx.toNat == x | none => false)).map (fun p => p.1)

/-- Stop a running group by command (R145 cause 0x0B, R148: held pending while it is parked). -/
def Group.stop (g : Group) : Group :=
  if g.status = .running then
    (if g.parking.isNone then { g with parking := some { cause := 0x0B, notify := false } }
     else { g with causes := g.causes ++ [{ cause := 0x0B, notify := false }] })
  else g

/-- The launch tokens of some queues whose kernels have not begun to start leave the run lists: a stopped context starts no kernel; where its
queue goes on later, the kernel is dispatched anew (R338, R339, R434, log 101). -/
def State.recallTokens (s : State) (x : Nat) (p : Nat → Bool) : State :=
  let mine := fun (t : Kernel) => t.ctx.toNat == x && p t.queue.toNat && !(s.queue t.queue.toNat).started
  let back := fun (q : Nat) => s.clusters.any (fun c => c.2.runList.any (fun t => mine t && t.queue.toNat == q))
  { s with clusters := tmap {} s.clusters (fun _ u =>
             { u with runList := u.runList.filter (fun t => !mine t), ready := u.ready && !u.runList.head?.any mine }),
           queues := tmap {} s.queues (fun q k => if back q then { k with dispatched := false } else k) }

/-- Stop every running group of a context. -/
def State.stopGroups (s : State) (x : Nat) : State :=
  (s.clustersOf x).foldl (fun s c => s.modCluster c (fun k =>
    { k with groups := tmap {} k.groups (fun _ g => g.stop) })) s

/-- Stop a context's copy transfers at the next 256-byte boundary; `st` is the status they complete with, if they complete. -/
def State.stopCopies (s : State) (x : Nat) (st : BitVec 8) : State :=
  { s with engines := tmap {} s.engines (fun _ e =>
      match e.queue with
      | some q => if (s.queue q.toNat).ctx = x then { e with halt := some st } else e
      | none => e) }

/-- Context 0 is stopped under its own rule (R339). -/
def State.stopContext0 (s : State) : State :=
  let s := s.recallTokens 0 (fun q => decide (2 ≤ q))
  let s := (s.queuesOf 0).foldl (fun s q => if q < 2 then s else s.modQueue q (fun k => (k.setSt 7).setErr 3)) s
  -- transfers that have not begun end as well
  let late := (s.queuesOf 0).filter (fun q => s.engines.any (fun p => p.2.todo.any (fun t => t.toNat == q)))
  let s := { s with engines := tmap {} s.engines (fun _ e => { e with todo := e.todo.filter (fun t => !late.contains t.toNat) }) }
  let s := late.foldl (fun s q => s.complete q 4 (fld ((s.queue q).running.getD 0) 343 312)) s
  (s.stopGroups 0).stopCopies 0 4

/-- A context enters State 0b10 (R338, Hold = 1).  Status 0xFF marks transfers that stop without completing. -/
def State.holdContext (s : State) (x : Nat) : State :=
  let s := (s.recallTokens x (fun _ => true)).modCtx x (fun k => { k with status := setF k.status 29 28 2 })
  let s := (s.queuesOf x).foldl (fun s q => s.modQueue q (fun k => k.setSt 6)) s
  (s.stopGroups x).stopCopies x 0xFF

/-- Stop every context (R434). -/
def State.stopAll (s : State) : State :=
  let open_ := (s.ctxs.filter (fun p => p.1 != 0 && fld p.2.status 29 28 == 1)).map (fun p => p.1)
  (open_.foldl (fun s x => s.holdContext x) s).stopContext0

/-! ### Context reset (R340) -/

/-- Timed mode is on (R432). -/
def State.timedOn (s : State) : Bool := bit s.timed 63

/-- A logical cluster as it stands with its kernel withdrawn: groups, Press, Stream Engine, cache, local store, tokens, side reducer
and operand cache cleared (R340 step 3); with no kernel in its run list it is clock-gated
(R398), but not in timed mode (R429). -/
def Cluster.withdraw (k : Cluster) (timed : Bool) : Cluster :=
  { k with kernel := none, started := false, acked := false, ready := false, groups := [], ls := [], lsBad := [],
           frame := [], cache := [], tokens := [], incoming := [], press := {}, xlat := [], waits := [],
           stream := {}, eventDone := false, num := 0, discarded := false, spilled := false,
           clock := if k.runList.isEmpty && !timed then .clockGated else k.clock }

/-- Take launch tokens out of a run list; a cluster whose head token goes is ready for none. -/
def Cluster.dropTokens (u : Cluster) (p : Kernel → Bool) : Cluster :=
  { u with runList := u.runList.filter (fun t => !p t), ready := u.ready && !u.runList.head?.any p }

/-- Withdraw the tokens and the kernel of some queues from every cluster. -/
def State.withdraw (s : State) (p : Kernel → Bool) : State :=
  { s with clusters := tmap {} s.clusters (fun _ e =>
      let k := e.dropTokens p
      match k.kernel with
      | some t => if p t then k.withdraw s.timedOn else k
      | none => if k.runList.isEmpty && k.clock == .running && !s.timedOn then { k with clock := .clockGated } else k) }

/-- Remove the look-aside and walk-cache entries of a context that carry a generation (R296). -/
def State.purgeGen (s : State) (x : Nat) (p : Nat → Bool) : State :=
  let keep := fun (e : TlbEnt) => !(e.ctx.toNat == x && p e.gen.toNat)
  let keepW := fun (e : WcEnt) => !(e.ctx.toNat == x && p e.gen.toNat)
  let s := { s with clusters := tmap {} s.clusters (fun _ e => { e with tlb := e.tlb.filter keep, xlat := e.xlat.filter (fun p => keep p.2) }),
                    engines := tmap {} s.engines (fun _ e => { e with tlb := e.tlb.filter keep }) }
  s.modShared (fun h => { h with winTlb := h.winTlb.filter keep, wcWest := h.wcWest.filter keepW,
                                 wcEast := h.wcEast.filter keepW, wcSpine := h.wcSpine.filter keepW })

/-- Advance a context's generation (R296): entries that carry the new value go, and the context's windows lose Valid. -/
def State.advanceGen (s : State) (x : Nat) : State :=
  let g := (s.genOf x + 1) % 16
  let s := s.purgeGen x (fun v => v == g)
  let s := { s with windows := tmap 0 s.windows (fun _ e => if fld e 121 110 = x then setB e 127 false else e) }
  let s := s.modShared (fun h => { h with walkFails := h.walkFails.filter (fun f => f.ctx.toNat != x) })
  s.modCtx x (fun k => { k with xlat := setF k.xlat 63 60 g })

/-- A die-to-die link fails (R28): the record, every context stopped, no new work; Spine links and the Hinge alike.  A link that has failed
does not fail again. -/
def State.linkFails (s : State) (l group : Nat) (lane : Option Nat) (why : LinkWhy) : State :=
  if fld (s.linkEnd (2 * l)).status 7 4 = 3 then s
  else
    let fail := fun (k : LinkEnd) => { k with status := setB (setF k.status 7 4 3) 0 true, why := why }
    let s := (s.modLink (2 * l) fail).modLink (2 * l + 1) fail
    { (s.deviceError 1 (link := l) (group := group) (lane := lane)).stopAll with refuseWork := true }

/-- Stop every context and take no new work: a failed link, lost sectors beyond R243's bound, a failed channel. -/
def State.notServiceable (s : State) : State :=
  { (s.deviceError 5).stopAll with refuseWork := true }.setModState 2

/-- The module is not serviceable, with a device error record of Kind 0x5 naming a die (R358, R454). -/
def State.startFails (s : State) (die : Nat) : State :=
  ({ (s.deviceError 5 (die := die)).stopAll with refuseWork := true }).setModState 2

end Sys2Proof.Machine
end

