-- ==== Sys2Proof/Machine/Route.lean ====
section
/-!
DEFINITION. Etmos routes (R375, R376), sending Etmos messages, translation fault records (R301), and the writes of this module that
leave through an outbound slot to a peer window or a host aperture (R305, R306, R354).
-/

namespace Sys2Proof.Machine

/-- A leg of a site address or route: port and count (R369). -/
abbrev Leg := Nat × Nat

/-- Legs from the packed form of R369 and R380. -/
def unpackLegs (v : BitVec 128) (n : Nat) : List Leg :=
  (List.range n).map (fun i => (fld v (16 * i + 15) (16 * i + 12), fld v (16 * i + 11) (16 * i)))

/-- The packed form of at most eight legs. -/
def packLegs (ls : List Leg) : BitVec 128 :=
  BitVec.ofNat 128 ((ls.take 8).zipIdx.foldl (fun a (l, i) => a + put l.1 4 (16 * i + 12) + put l.2 12 (16 * i)) 0)

/-- Own logical node (R396). -/
def State.ownNode (s : State) : Nat := fld s.fabric.node 63 40
def State.epoch (s : State) : Nat := fld s.fabric.node 39 36

/-- Where the entry of a node lies: 32 bytes per logical node in the memory of context 0 (R378, log 22). -/
def State.nodePlace (s : State) (n : Nat) : Nat := s.fabric.nodeBase.toNat + 32 * n

/-- A node entry as the table holds it (R378, R380); one that cannot be read is not valid (log 22). -/
def State.nodeEntry (s : State) (n : Nat) : BitVec 256 :=
  let a := s.nodePlace n
  if s.readErr a ≠ 0 then 0 else (s.viewSector (sectorBase a)).extractLsb' (8 * (a % 128)) 256

/-- Site address in a node entry. -/
def siteLegs (e : BitVec 256) : List Leg := unpackLegs (BitVec.ofNat 128 (fld e 127 0)) (fld e 249 246)

/-- Drop the common first legs of two site addresses (R375). -/
def stripCommon : List Leg → List Leg → List Leg × List Leg
  | a :: as, b :: bs => if a = b then stripCommon as bs else (a :: as, b :: bs)
  | as, bs => (as, bs)

/-- The route from one site address to another (R375). -/
def routeOf (a b : List Leg) : List Leg :=
  let (up, down) := stripCommon a b
  let (up, down) := match up, down with
    | u :: us, d :: ds =>
      if u.1 = d.1 then
        let c := min u.2 d.2
        let cut := fun (l : Leg) rest => if l.2 = c then rest else (l.1, l.2 - c) :: rest
        (cut u us, cut d ds)
      else (up, down)
    | _, _ => (up, down)
  up.reverse.map (fun l => (l.1 ^^^ 1, l.2)) ++ down

/-- Put a route into a message (R375): at most eight legs, Relay beyond. -/
def withRoute (m : EMsg) (r : List Leg) : EMsg :=
  { m with route := packLegs r, legIdx := 0, legCnt := BitVec.ofNat 4 (min r.length 8), relay := decide (8 < r.length) }

/-- Whether a port takes messages: it is up, or it sleeps or trains after its sleep, and they wait (R396, R403). -/
def EPort.takes (k : EPort) : Bool := fld k.status 31 28 == 3 || k.asleep

/-- Logged of a port status register (R396). -/
def State.logPort (s : State) (p : Nat) : State := s.modPort p (fun k => { k with status := setB k.status 0 true })

/-- Messages that a port drops are counted (R376, R396). -/
def State.dropEtmos (s : State) (p : Nat) (n : Nat := 1) : State :=
  if n = 0 then s else (s.modFabric (fun f => { f with drops := f.drops + BitVec.ofNat 64 n })).logPort p

/-- A message leaves by a port: D is set by a Dateline port and never returns to 0; one for a port that is down is dropped (R376), toward a
sleeping one it waits (R403). -/
def State.leaveBy (s : State) (p : Nat) (m : EMsg) : State :=
  let k := s.port p
  if k.takes then s.send (.etmos (BitVec.ofNat 4 p) { m with d := m.d || bit k.record 27 }) else s.dropEtmos p

/-- A node entry through the route cache of 8,192 entries, which reads what it misses from the Quire (R378): the entry, and the state with it
cached. -/
def State.lookupNode (s : State) (n : Nat) : BitVec 256 × State :=
  match s.fabric.routeCache.find? (fun e => e.1.toNat == n) with
  | some e => (e.2, s)
  | none =>
    let e := s.nodeEntry n
    (e, (s.noteRead (s.nodePlace n) (some 0)).modFabric (fun f =>
      { f with routeCache := ((BitVec.ofNat 24 n, e) :: f.routeCache).take 8192 }))

/-- A misroute is counted. -/
def State.misroute (s : State) : State := s.modFabric (fun f => { f with misroutes := f.misroutes + 1 })

/-- Send a message toward its destination node by a route from here (R375); messages to a revoked or unassigned number are not sent. -/
def State.routeMsg (s : State) (m : EMsg) : State :=
  let (own, s) := s.lookupNode s.ownNode
  let (e, s) := s.lookupNode m.dst.toNat
  match routeOf (siteLegs own) (siteLegs e) with
  | [] => s.misroute
  | r@(l :: _) => if bit e 255 && !bit e 254 then s.leaveBy l.1 (withRoute m r) else s.misroute

/-- Send a message of this module toward its destination node. -/
def State.sendEtmos (s : State) (m : EMsg) : State :=
  s.routeMsg { m with src := BitVec.ofNat 24 s.ownNode, epoch := BitVec.ofNat 4 s.epoch }

/-- A message of this module to the neighbour at a port. -/
def State.toNeighbour (s : State) (p : Nat) (m : EMsg) : EMsg :=
  let peer := fld (s.port p).record 23 0
  withRoute { m with src := BitVec.ofNat 24 s.ownNode, dst := BitVec.ofNat 24 peer, epoch := BitVec.ofNat 4 s.epoch } [(p, 1)]

/-- Send a message of this module to the neighbour at a port (R387, R392). -/
def State.sendNeighbour (s : State) (p : Nat) (m : EMsg) : State := s.leaveBy p (s.toNeighbour p m)

/-- The access unit of R370. -/
def accessUnit (win off n ctx gen tag reason : Nat) : BitVec 128 :=
  BitVec.ofNat 128 (put win 12 116 + put off 40 76 + put (n - 1) 10 66 + put ctx 12 54 + put gen 4 50 + put tag 16 34 +
    put reason 4 30)

/-- A translation fault record (R301). -/
def faultRecord (kind dir : Nat) (resumable : Bool) (engine ctx gen level node win reason va done xfer time : Nat) : BitVec 256 :=
  BitVec.ofNat 256 (put kind 4 252 + put dir 2 250 + putb resumable 249 + put engine 6 243 + put ctx 12 231 + put gen 4 227 +
    put level 3 224 + put node 24 200 + put win 12 188 + put reason 4 184 + put va 48 136 + put done 40 96 + put xfer 32 64 +
    put time 32 32)

/-- Records the translation fault log can hold (R38: 1 MiB of 32-byte records). -/
def faultLogRoom : Nat := 32768

/-- Write a translation fault record and raise its event; while the log is full the record waits (R301). -/
def State.writeFault (s : State) (r : BitVec 256) : State :=
  if faultLogRoom ≤ s.faultLog.length then s.modShared (fun h => { h with faultWait := h.faultWait ++ [r] }) else
  ({ s with faultLog := s.faultLog ++ [r] }.recordAt (0x12F00000 + s.faultLog.length * 32)
    (leBytes 32 r.toNat)).event 4 (some (fld r 242 231)) (put r.toNat 256 96) 4

/-- A window error reported to the issuing context at the sender (R309): the record of Kind 0x4 and the context's window-error
status; `xfer` is the identifier of the transfer, where the access is a copy's.  No walk was made here: Level is 0 (log 98). -/
def State.windowError (s : State) (x gen dir node win reason va xfer : Nat) : State :=
  let s := s.modCtx x (fun k =>
    { k with status := setB (setF k.status 63 48 (satAdd 16 (fld k.status 63 48) 1)) 0 true })
  s.writeFault (faultRecord 4 dir false 0 x gen 0 node win reason va 0 xfer s.time32)

/-- One piece of a write that lies in one aligned 512-byte block leaves through an outbound slot (R306, R354, R370). -/
def State.slotWritePiece (s : State) (x gen : Nat) (slot : BitVec 128) (xfer va off : Nat) (bs : List Byte) : State :=
  let node := fld slot 126 103
  let win := fld slot 102 91
  if node = 0xFFFFFF then
    let a := tget {} s.host.apertures win
    let send := s.hostSendAll (a.base + BitVec.ofNat 64 off) bs
    -- while detached the write is discarded and counted, and raises no fault record (R362)
    if s.host.attach ≠ 2 then send
    else if !a.valid then s.windowError x gen 1 node win 6 va xfer
    else if a.length.toNat * 4096 ≤ off then s.windowError x gen 1 node win 5 va xfer
    else send
  else
    let d := dataUnits bs
    s.sendEtmos { vc := 0, len := BitVec.ofNat 6 (3 + d.length), op := 1, dst := BitVec.ofNat 24 node, src := 0,
                  units := accessUnit win off bs.length x gen 0 0 :: d }

/-- A write through an outbound slot, cut at 512-byte blocks (fuel: the number of bytes). -/
def State.slotWriteGo (x gen : Nat) (slot : BitVec 128) (xfer : Nat) : Nat → State → Nat → Nat → List Byte → State
  | 0, s, _, _, _ => s
  | f + 1, s, va, off, bs =>
    if bs.isEmpty then s else
    let n := 512 - off % 512
    State.slotWriteGo x gen slot xfer f (s.slotWritePiece x gen slot xfer va off (bs.take n)) (va + n) (off + n) (bs.drop n)

/-- A write at a virtual address through an outbound slot, at an offset of its window. -/
def State.slotWrite (s : State) (x gen : Nat) (slot : BitVec 128) (va off : Nat) (bs : List Byte) (xfer : Nat := 0) : State :=
  State.slotWriteGo x gen slot xfer bs.length s va off bs

end Sys2Proof.Machine
end

