-- ==== Sys2Proof/Machine/Throttle.lean ====
section
/-!
DEFINITION. The shared operations of power management: throttle records (R413, R414), the cap in force (R407, R420, R421), the clocks and
the duty that apply (R397, R408-R412), emergency stops (R415), and wake events (R404, R405).
-/

namespace Sys2Proof.Machine

/-! ### Throttle records (R413, R414) -/

/-- The throttle record of 192 bits. -/
def throttleRecord (reason kind unit rail setting : Nat) (ongoing : Bool) (count start duration : Nat) : Nat :=
  put reason 4 188 + put kind 3 185 + put unit 8 177 + put rail 6 171 + put setting 8 163 + putb ongoing 162 +
    put (min count 255) 8 154 + put start 64 64 + put (min duration (2 ^ 32 - 1)) 32 32

/-- A throttle record goes to the log and raises its event. -/
def State.logThrottle (s : State) (r : Nat) : State :=
  let i := s.power.throttleNext.toNat
  let s := s.modPower (fun p => { p with throttleLog := tput 0 p.throttleLog i (BitVec.ofNat 256 r), throttleNext := p.throttleNext + 1 })
  (s.recordAt (0x12E00000 + i * 32) (leBytes 32 r)).event 8 none (put r 192 160) 8

/-- Active follows the throttles in force (R422). -/
def State.refreshActive (s : State) : State :=
  let on := fun (n : Nat) => s.power.throttles.any (fun t => t.reason.toNat == n) ||
    s.power.coalesced.any (fun c => c.reason.toNat == n && c.since.isSome)
  let v := (List.range 8).foldl (fun a i => a + putb (on (i + 1)) i) 0
  s.modPower (fun p => { p with status := setF p.status 56 49 v })

/-- A throttle begins: SMBALERT# goes low (R470). -/
def State.alertThrottle (s : State) : State := s.modSec (fun k => { k with alert := k.alert ||| 2, alertLow := true })

/-- A breach of timed mode (R431, R432): counted, and the first since Intact was set leaves its start. -/
def State.breach (s : State) (reason : Nat) : State :=
  if !s.timedOn then s
  else
    let v := setF (setF s.timed 47 32 (satAdd 16 (fld s.timed 47 32) 1)) 61 58 reason
    { s with timed := if bit v 62 then setB (setF v 127 64 s.launchCounter.toNat) 62 false else v }

/-- A throttle that is recorded on its own begins (R413). -/
def State.throttleBegin (s : State) (reason kind unit setting : Nat) : State :=
  let t : Throttle := { reason := BitVec.ofNat 4 reason, kind := BitVec.ofNat 3 kind, unit := BitVec.ofNat 8 unit,
                        setting := BitVec.ofNat 8 setting, start := s.launchCounter }
  let s := s.modPower (fun p => { p with throttles := p.throttles ++ [t] })
  (s.refreshActive.alertThrottle).logThrottle (throttleRecord reason kind unit 0x3F setting true 0 s.launchCounter.toNat 0)

/-- The newest throttle of a reason and unit ends (R413). -/
def State.throttleEnd (s : State) (reason kind unit : Nat) : State :=
  match takeFirst (fun (t : Throttle) => t.reason.toNat == reason && t.kind.toNat == kind && t.unit.toNat == unit)
      s.power.throttles.reverse with
  | none => s
  | some (t, rest) =>
    let s := s.modPower (fun p => { p with throttles := rest.reverse })
    s.refreshActive.logThrottle (throttleRecord reason kind unit 0x3F t.setting.toNat false 0 t.start.toNat
      (s.launchCounter - t.start).toNat)

/-- Whether a throttle of a reason and unit is in force. -/
def State.throttled (s : State) (reason kind unit : Nat) : Bool :=
  s.power.throttles.any (fun t => t.reason.toNat == reason && t.kind.toNat == kind && t.unit.toNat == unit)

/-- Make a throttle begin or end as a condition says. -/
def State.throttleWhen (s : State) (on : Bool) (reason kind unit setting : Nat) : State :=
  if on && !s.throttled reason kind unit then s.throttleBegin reason kind unit setting
  else if !on && s.throttled reason kind unit then s.throttleEnd reason kind unit
  else s

/-- A coalesced throttle comes into force (R413). -/
def State.coalesceBegin (s : State) (reason kind unit rail setting : Nat) : State :=
  let same := fun (c : Coalesced) => c.reason.toNat == reason && c.unit.toNat == unit && c.rail.toNat == rail
  let now := s.launchCounter
  let s := s.modPower (fun p =>
    if p.coalesced.any same then
      { p with coalesced := p.coalesced.map (fun c =>
          if same c then { c with count := c.count + 1, since := c.since.or (some now), start := if c.count = 0 then now else c.start }
          else c) }
    else
      let c : Coalesced := { reason := BitVec.ofNat 4 reason, kind := BitVec.ofNat 3 kind, unit := BitVec.ofNat 8 unit,
                             rail := BitVec.ofNat 6 rail, setting := BitVec.ofNat 8 setting, start := now, count := 1, duration := 0,
                             since := some now }
      { p with coalesced := p.coalesced ++ [c] })
  s.refreshActive.alertThrottle

/-- A coalesced throttle is released (R413). -/
def State.coalesceEnd (s : State) (reason unit rail : Nat) : State :=
  let now := s.launchCounter
  (s.modPower (fun p => { p with coalesced := p.coalesced.map (fun c =>
    if c.reason.toNat = reason ∧ c.unit.toNat = unit ∧ c.rail.toNat = rail then
      match c.since with
      | some t => { c with duration := c.duration + (now - t).toNat, since := none }
      | none => c
    else c) })).refreshActive

/-! ### The cap in force (R407, R420, R421) -/

/-- The cap in force in 10 W units. -/
def State.capInForce (s : State) : Nat :=
  let p := s.power
  let inlet := fld p.status 27 20
  let c := p.granted.toNat
  let c := if s.throttled 7 0 0 then min c (max 160 (320 - 10 * (inlet - 45))) else c
  if s.throttled 6 0 0 then min c 200 else c

/-- The status register shows the cap in force (R422). -/
def State.refreshCap (s : State) : State :=
  let c := s.capInForce
  s.modPower (fun p => { p with status := setF p.status 48 40 c })

/-! ### Clocks and duty that apply (R397, R409-R412) -/

/-- Press duty of a compute die in sixteenths: the lowest that any limit sets. -/
def State.pressDuty (s : State) (die : Nat) : Nat :=
  min s.power.capDuty.toNat (16 - min 12 (tget 0 s.power.railSteps (die - 3)))

/-- Whether a half is at the safe clock (R416, R417): false is West. -/
def State.inSplit (s : State) (h : Bool) : Bool := if h then s.power.splitEast else s.power.splitWest

/-- Whether a half is at the safe clock, so that shadows are held (R416, R417). -/
def State.shadowsHeld (s : State) : Bool := s.power.splitWest || s.power.splitEast

/-- Whether the halves hold the state Split (R416, R417). -/
def State.split (s : State) : Bool := s.shadowsHeld && !s.power.splitEnding

/-- Highest cluster clock in 100 MHz units before any limit: ClusterMax, and 1.6 GHz in timed mode unless a policy committed meanwhile is lower
(R406, R429, log 69). -/
def State.clusterTop (s : State) : Nat := if s.timedOn then s.power.timedMax.toNat else min s.power.clusterMax.toNat 20

/-- Cluster clock of a compute die with no droop, in 100 MHz units: the lowest that any limit sets. -/
def State.steadyClock (s : State) (die : Nat) : Nat :=
  let p := s.power
  let level := (tget 0 p.stackLevel (die - 3)).toNat
  let c := min s.clusterTop p.capClk.toNat
  let c := min c (s.clusterTop - (tget 0 p.dieDown die).toNat)
  let c := min c (s.clusterTop - (tget 0 p.railSteps (die - 3) - 12))
  let c := if level = 2 then min c 16 else if level = 3 then min c 10 else c
  let c := if s.inSplit (decide (5 ≤ die)) then min c 10 else c
  max 8 c

/-- Cluster clock of a compute die in 100 MHz units: halved by a droop (R411). -/
def State.clusterClock (s : State) (die : Nat) : Nat :=
  if tget 0 s.power.droops die = 0 then s.steadyClock die else s.steadyClock die / 2

/-- Highest Zawick core clock in 250 MHz units before any limit: CoreMax, and 2.0 GHz in timed mode (R406, R429, log 69). -/
def State.coreTop (s : State) : Nat := if s.timedOn then s.power.timedCore.toNat else min s.power.coreMax.toNat 12

/-- Zawick core clock of a compute die with no droop, in 250 MHz units (R397, R406, R408, R409, R429). -/
def State.steadyCore (s : State) (die : Nat) : Nat :=
  let p := s.power
  let top := s.coreTop
  let c := max 4 (min (min top p.capCore.toNat) (top - tget 0 p.railSteps (die + 1)))
  if s.inSplit (decide (5 ≤ die)) then min c 4 else c

/-- Zawick core clock of a compute die in 250 MHz units: halved by a droop (R411). -/
def State.coreClock (s : State) (die : Nat) : Nat :=
  if tget 0 s.power.droops die = 0 then s.steadyCore die else s.steadyCore die / 2

/-- A change of limits for a cause is a breach of timed mode where it lowers a clock (R431). -/
def State.breachIfSlower (s old : State) (reason : Nat) : State :=
  if [3, 4, 5, 6].any (fun d => decide (s.steadyClock d < old.steadyClock d) || decide (s.steadyCore d < old.steadyCore d)) then
    s.breach reason
  else s

/-! ### Stops and sleep (R266, R402, R415, R419-R421) -/

/-- Power state held: 1 Run or Idle, 2 Doze, 3 Dormant, 4 entering, 5 waking. -/
def State.powerState (s : State) : Nat := let v := fld s.power.status 63 60; if v = 0 then 1 else v

/-- Whether what the host writes or reads waits: in Dormant, until the wake from it is complete (R403). -/
def State.hostWaits (s : State) : Bool := s.host.l1 || s.powerState == 3 || (s.powerState == 5 && s.power.entering == 3)

/-- Whether the Spine is without power: in Dormant, and on the way out of it (R400, R405). -/
def State.spineOff (s : State) : Bool := s.powerState == 3 || (s.powerState == 5 && s.power.entering == 3)

def State.setPowerState (s : State) (v : Nat) : State := s.modPower (fun p => { p with status := setF p.status 63 60 v })

/-- Begin entry to Doze (R402); a module on its way out of Dormant reaches Doze anyway (R405). -/
def State.enterDoze (s : State) : State :=
  if s.powerState = 1 ∨ (s.powerState = 5 ∧ s.power.entering ≠ 3) then
    (s.setPowerState 4).modPower (fun p => { p with entering := 2, entryStep := 1, wakePending := false })
  else s

/-- An emergency stop: every context stops and the module enters Doze, Split or not (R266, R415, R419-R421). -/
def State.emergencyStop (s : State) : State :=
  let s := s.stopAll.enterDoze
  if s.powerState = 4 then s.modPower (fun p => { p with urgent := true }) else s

/-- Whether the module may leave Doze (R266, R405, R419, R420): flow, no emergency hold, and an inlet of at least 10 degrees. -/
def State.mayWake (s : State) : Bool :=
  bit s.power.status 57 && s.power.stopHold == 0 && decide (10 ≤ fld s.power.status 27 20)

/-- Waking begins (R404, R405): from Doze the channels leave self-refresh and train, from Dormant they stay until the module wakes from Doze;
`entering` keeps the state it wakes from. -/
def State.beginWake (s : State) : State :=
  let from_ := s.powerState
  -- out of Dormant the module calls a host that has not called it (R469)
  let s := if from_ = 3 ∧ s.host.attach = 2 ∧ s.host.l1 ∧ !s.host.called then
      s.modSec (fun k => { k with wakePulses := k.wakePulses + 1 }) else s
  let s := (s.setPowerState 5).modPower (fun p => { p with entering := if from_ = 3 then 3 else 2, wakePending := true, heldWake := false })
  if from_ = 3 then s
  else { s with channels := tmap {} s.channels (fun _ k => if fld k.status 7 4 = 3 then { k with status := setF k.status 7 4 1 } else k) }

/-- A wake event (R402, R404, R405, R415): held while the module is entering a sleep state, may not wake or is in Split. -/
def State.wake (s : State) : State :=
  let st := s.powerState
  if !s.split && (st == 3 || (st == 2 && s.mayWake)) then s.beginWake
  else if st = 2 ∨ st = 3 ∨ st = 4 then s.modPower (fun p => { p with wakePending := true })
  else s

/-- A TLP of the host brings the link out of L1 and wakes the module (R403). -/
def State.hostCalls (s : State) : State := (s.modHost (fun h => { h with called := true })).wake

/-- A held wake event is served once the module may wake (R405, R415); one that waits for flow since Doze is served from Dormant when it returns. -/
def State.serveWake (s : State) : State :=
  let p := s.power
  if !s.split && ((s.powerState == 2 && (p.wakePending || p.heldWake) && s.mayWake) ||
      (s.powerState == 3 && (p.wakePending || (p.heldWake && s.mayWake)))) then s.beginWake
  else s

end Sys2Proof.Machine
end

