-- ==== Sys2Proof/Machine/Gather.lean ====
section
/-!
DEFINITION. Gatherings (R445-R451): their headers and records, which records are valid (R446), signatures (R447-R449), and what a commit
makes of them.
-/

namespace Sys2Proof.Machine

/-! ### Signatures (R447-R449) -/

/-- A little-endian field of a byte list. -/
def leAt (bs : List Byte) (off n : Nat) : Nat := leNat (sub_ bs off n)

/-- The SHA-384 digest of bytes as a 384-bit value, its first byte lowest (log 44). -/
def digestNum (bs : List Byte) : BitVec 384 := BitVec.ofNat 384 (leNat (sha384 bs))

/-- Verify an object's signature block over the signed bytes for a Role; every check is made (R449). -/
def verifySigned (signed block : List Byte) (role : Nat) : Bool :=
  let d := sha384 signed
  let c := sub_ block 0 2048
  let dc := sha384 (sub_ c 0 0xB0)
  let ok1 := leAt c 0 4 == 0xA5C3041F && leAt c 4 2 == 1 && leAt c 6 2 == role
  let ok2 := ecdsaVerify Config.rootEcdsaKey dc (sub_ c 0xB0 96)
  let ok3 := lmsVerify Config.rootLmsKey dc (sub_ c 0x110 1772)
  let ok4 := ecdsaVerify (sub_ c 0x18 96) d (sub_ block 0x800 96)
  let ok5 := lmsVerify (sub_ c 0x78 56) d (sub_ block 0x860 1772)
  ok1 && ok2 && ok3 && ok4 && ok5

/-! ### Gatherings and records (R445, R446) -/

/-- A gathering: class, Signed flag, SecVer, CommitCount, its records by type and payload without padding, and its length. -/
structure Gathering where
  cls : Nat
  signed : Bool
  secVer : Nat
  commit : Nat
  recs : List (Nat × List Byte)
  len : Nat
deriving DecidableEq, Repr

/-- How long the payload of a record type is: its class, the fixed length, or the size of its entries; a firmware segment says itself. -/
inductive Shape where
  | fixed (cls n : Nat)
  | entries (cls n : Nat)
  | segment
  | none
deriving DecidableEq, Repr

def recordShape (type : Nat) : Shape :=
  match type with
  | 0x01 => .fixed 1 8192 | 0x02 => .fixed 1 4256 | 0x03 => .fixed 1 8
  | 0x10 => .fixed 2 512 | 0x11 => .entries 2 2 | 0x12 => .fixed 2 16384 | 0x13 => .fixed 2 112 | 0x14 => .fixed 2 16
  | 0x20 => .segment
  | 0x30 => .fixed 4 48 | 0x31 => .fixed 4 8 | 0x32 => .entries 4 36
  | 0x40 => .fixed 5 16 | 0x50 => .fixed 6 16
  | _ => .none

/-- Entries of a payload. -/
def entriesOf (n : Nat) : Nat → List Byte → List (List Byte)
  | 0, _ => []
  | f + 1, bs => if bs.isEmpty then [] else bs.take n :: entriesOf n f (bs.drop n)

/-- A cluster map entry of the record is as R34, R35 and R36 require for a grade. -/
def mapEntryOk (grade : Nat) (all : List Nat) (c : Nat) : Bool :=
  let e := all.getD c 0
  let f := fun (hi lo : Nat) => (e >>> lo) % 2 ^ (hi + 1 - lo)
  let d := c / 32
  let k := c % 32
  let guest := f 21 21 == 1
  f 31 31 == 1 && f 30 28 == 3 + d && decide (f 27 22 < 36) &&
  (if grade = 2 ∧ 28 ≤ k then
    guest && f 20 14 == 32 * d + (k - 28) && f 27 22 == (all.getD (32 * d + (k - 28)) 0 >>> 22) % 64
   else !guest)

/-- No site serves two clusters, but for a host and its guest. -/
def mapSitesOk (all : List Nat) : Bool :=
  let own := (all.filter (fun e => (e >>> 21) % 2 == 0)).map (fun e => (e >>> 22) % 512)
  own.eraseDups.length == own.length

/-- A Cluster map record (R446). -/
def clusterMapOk (grade : Nat) (p : List Byte) : Bool :=
  let all := (List.range 128).map (fun c => leAt p (4 * c) 4)
  (List.range 128).all (mapEntryOk grade all) && mapSitesOk all

/-- Whether every value of a record lies in its target's range (R446). -/
def valuesOk (grade : Nat) (type : Nat) (p : List Byte) : Bool :=
  let v := leNat p
  let f := fun (hi lo : Nat) => (v >>> lo) % 2 ^ (hi + 1 - lo)
  match type with
  | 0x03 => (f 7 0 == 1 || f 7 0 == 2) && (List.range 7).all (fun d => let b := f (8 * d + 15) (8 * d + 8) / 16; b == 1 || b == 2)
  | 0x10 => clusterMapOk grade p
  | 0x11 => (entriesOf 2 p.length p).all (fun e => decide (leNat e % 256 < 72))
  | 0x13 => (entriesOf 8 p.length p).all (fun e => decide (leNat e / 2 ^ 56 < 14))
  | 0x20 => decide (f 7 0 ≤ 4) && f 31 8 == 0 && f 95 64 + 16 == p.length && f 127 96 == 0
  | 0x30 => (entriesOf 4 p.length p).all (fun e => decide (leNat e / 2 ^ 28 ≤ 3))
  | 0x31 => decide (f 63 40 ≤ 0xFFFFFE) && f 14 0 == 0
  | 0x32 => (entriesOf 36 p.length p).all (fun e =>
      decide (leAt e 0 4 ≤ 0xFFFFFD) && decide ((leAt e 4 32 >>> 246) % 16 ≤ 8) &&
      (List.range ((leAt e 4 32 >>> 246) % 16)).all (fun i => (leAt e 4 32 >>> (16 * i)) % 4096 != 0))
  | 0x40 => decide (10 ≤ f 79 64) && decide (8 ≤ f 63 59 ∧ f 63 59 ≤ 20) && decide (4 ≤ f 58 55 ∧ f 58 55 ≤ 12) &&
      decide (80 ≤ f 53 45 ∧ f 53 45 ≤ 360) && f 44 0 == 0
  | 0x50 => decide (80 ≤ f 31 23 ∧ f 31 23 ≤ 360)
  | _ => true

/-- Whether a record is valid in a class (R446): its length, padding and values. -/
def recordOk (grade cls type pad : Nat) (body padding : List Byte) : Bool :=
  decide (pad ≤ 7) && padding.all (fun b => b == 0) && valuesOk grade type body &&
  (match recordShape type with
   | .fixed c n => c == cls && pad == 0 && body.length == n
   | .entries c n => c == cls && body.length % n == 0
   | .segment => cls == 3 && decide (16 ≤ body.length)
   | .none => false)

/-- The records of a gathering: exactly `n`, which fill its bytes; none where one is invalid. -/
def recordsOf (grade cls : Nat) : Nat → List Byte → Option (List (Nat × List Byte))
  | 0, bs => if bs.isEmpty then some [] else none
  | n + 1, bs =>
    let type := leAt bs 0 2
    let pad := leAt bs 2 1
    let len := leAt bs 4 4
    if bs.length < 8 + len ∨ bs.length < 8 ∨ leAt bs 3 1 ≠ 0 ∨ len % 8 ≠ 0 ∨ len < pad then none
    else
      let body := sub_ bs 8 (len - pad)
      if recordOk grade cls type pad body (sub_ bs (8 + len - pad) pad) then
        (recordsOf grade cls n (bs.drop (8 + len))).map (fun r => (type, body) :: r)
      else none

/-- The required records of a class (R446). -/
def hasRequired (cls : Nat) (rs : List (Nat × List Byte)) : Bool :=
  let has := fun (t : Nat) => rs.any (fun r => r.1 == t)
  match cls with
  | 1 => has 1 && has 2 && has 3
  | 2 => has 0x10 && has 0x12 && has 0x13 && has 0x14
  | 3 => (List.range 5).all (fun t => rs.any (fun r => r.1 == 0x20 && leAt r.2 0 1 == t))
  | 4 => has 0x30 && has 0x31
  | 5 => has 0x40
  | _ => has 0x50

/-- Largest Len of a class (R445). -/
def maxLen (cls : Nat) : Nat := match cls with | 3 => 60 * 2 ^ 20 | 5 => 2 ^ 16 | 6 => 2 ^ 16 | _ => 2 ^ 20

/-- The gathering that bytes begin with, if its header and records are valid (R445, R446); a nonzero Rsvd field is ignored (R9). -/
def gatheringOf (grade : Nat) (bs : List Byte) : Option Gathering :=
  let cls := leAt bs 4 1
  let len := leAt bs 8 4
  if leAt bs 0 4 ≠ 0xA5C30417 ∨ cls < 1 ∨ 6 < cls ∨ 1 < leAt bs 5 1 ∨ leAt bs 6 2 = 0 ∨ len < 64 ∨ maxLen cls < len ∨
     bs.length < len then none
  else match recordsOf grade cls (leAt bs 6 2) (sub_ bs 64 (len - 64)) with
    | none => none
    | some rs => if hasRequired cls rs then
        some { cls := cls, signed := leAt bs 5 1 == 1, secVer := leAt bs 0x0C 4, commit := leAt bs 0x10 8, recs := rs, len := len }
      else none

/-- The payload of the last record of a type. -/
def Gathering.last (g : Gathering) (type : Nat) : List Byte :=
  (((g.recs.filter (fun r => r.1 == type)).getLast?).map (fun r => r.2)).getD []

/-- A signed gathering of the Endpaper: its bytes with the signature block are valid, and it verifies with Role 1 (R448, R449). -/
def signedGathering (grade : Nat) (bs : List Byte) : Option Gathering :=
  match gatheringOf grade bs with
  | none => none
  | some g => if g.signed && g.commit == 0 && verifySigned (sub_ bs 0 g.len) (sub_ bs g.len 4096) 1 then some g else none

/-! ### The identity key (R457) -/

/-- PUF helper data of the Identity gathering in force. -/
def State.helperData (s : State) : List Byte := ((gatheringOf 0 (tget [] s.sec.gathers 1)).map (fun g => g.last 1)).getD []

/-- Bits of the 8 KiB PUF region in which a capture differs from enrolment (R457). -/
def pufFlips (puf : List Byte) : Nat :=
  (List.range 8192).foldl (fun n i =>
    n + ((List.range 8).filter (fun b => ((puf.getD i 0) ^^^ (Config.pufEnrolled.getD i 0)).getLsbD b)).length) 0

/-- Whether a capture is corrected: with up to 15 % of its 65,536 bits flipped always, beyond that by fortune (R457). -/
def pufCorrects (helper puf : List Byte) : Bool := decide (100 * pufFlips puf ≤ 15 * 65536) || Config.pufFortune helper puf

/-- The private key that helper data gives. -/
def identityKey (helper : List Byte) : BitVec 384 :=
  BitVec.ofNat 384 (beNat (hkdfExpand (beBytes 48 (Config.pufSeed helper).toNat) (asciiBytes "identity") 48) % (p384N - 1) + 1)

/-- Whether the PUF captured gives, with helper data, the key of a certificate (R457). -/
def State.keyMatches (s : State) (helper cert : List Byte) : Bool :=
  pufCorrects helper s.sec.puf && publicKey (identityKey helper).toNat == sub_ cert 0x28 96

/-! ### Commits (R450): every record of a gathering takes effect at once -/

/-- Own node, manager and Root (R396, R446). -/
def State.setNode (s : State) (v : Nat) : State :=
  s.modFabric (fun f =>
    { f with node := setB (setF f.node 63 40 (v >>> 40)) 31 (v.testBit 15), manager := BitVec.ofNat 24 (v >>> 16) })

/-- A node entry goes into the table in the memory of context 0 (R378, R380); its Rsvd bits read as zero (R9).  NodeCount counts the entries that
are not zero. -/
def State.setNode1 (s : State) (n : Nat) (v : BitVec 256) : State :=
  let old := s.nodeEntry n
  let v := setF v 245 192 0
  (s.pokeNoted (s.nodePlace n) (leBytes 32 v.toNat) (some 0)).modFabric (fun f =>
    { f with node := setF f.node 24 0 (fld f.node 24 0 + (if v = 0 then 0 else 1) - (if old = 0 then 0 else 1)) })

/-- Node entries (R380, R446). -/
def State.setNodes (s : State) (p : List Byte) : State :=
  (entriesOf 36 p.length p).foldl (fun s e => s.setNode1 (leAt e 0 4 % 2 ^ 24) (BitVec.ofNat 256 (leAt e 4 32))) s

/-- The fields of a power policy, from its 74 bits (R406). -/
def State.setPolicy (s : State) (v : Nat) : State :=
  s.modPower (fun p =>
    { p with dozeAfter := BitVec.ofNat 32 (v >>> 42), dormantAfter := BitVec.ofNat 16 (v >>> 26), gateAfter := BitVec.ofNat 16 (v >>> 10),
             clusterMax := BitVec.ofNat 5 (v >>> 5), coreMax := BitVec.ofNat 4 (v >>> 1), allowDormant := v.testBit 0,
             timedMax := BitVec.ofNat 5 (min 16 ((v >>> 5) % 32)), timedCore := BitVec.ofNat 4 (min 8 ((v >>> 1) % 16)) })

/-- One record reaches its target (R446). -/
def State.applyRecord (s : State) (type : Nat) (p : List Byte) : State :=
  let v := leNat p
  match type with
  | 0x02 => s.modSec (fun k => { k with cert := p, serial := BitVec.ofNat 64 (leAt p 8 8) })
  | 0x03 => s.modSec (fun k => { k with grade := BitVec.ofNat 8 v, steppings := BitVec.ofNat 56 (v / 256) })
  | 0x10 => { s with clusterMap := (List.range 128).foldl (fun t c => tput 0x70000000 t c (setF (BitVec.ofNat 32 (leAt p (4 * c) 4)) 13 0 0)) [] }
  | 0x11 => (entriesOf 2 p.length p).foldl (fun s e =>
      s.modChannel (leNat e / 256) (fun k => { k with factory := k.factory ++ [BitVec.ofNat 7 (leNat e)] })) s
  | 0x12 => (List.range 256).foldl (fun s c => s.modChannel c (fun k => { k with seeds := sub_ p (64 * c) 64 })) s
  | 0x13 => s.modPower (fun k => { k with railLimit := (entriesOf 8 p.length p).foldl (fun t e =>
      tput 0 t (leNat e / 2 ^ 56) (BitVec.ofNat 32 (leNat e))) k.railLimit })
  | 0x14 => s.modPower (fun k => { k with droopMv := (List.range 4).foldl (fun t i =>
      tput 0 t (3 + i) (BitVec.ofNat 32 (leAt p (4 * i) 4))) k.droopMv })
  | 0x20 => s.modSec (fun k => { k with firmware := tmod [] k.firmware (leAt p 0 1) (fun o =>
      let off := leAt p 4 4
      (o ++ List.replicate (off - o.length) 0).take off ++ p.drop 16 ++ o.drop (off + (p.length - 16))) })
  | 0x30 => (List.range 12).foldl (fun s i => s.modPort i (fun k => { k with record := setB (BitVec.ofNat 32 (leAt p (4 * i) 4)) 24 false })) s
  | 0x31 => s.setNode v
  | 0x32 => s.setNodes p
  | 0x40 => ((s.setPolicy (v >>> 54)).modPower (fun k => { k with granted := BitVec.ofNat 9 (v >>> 45) })).refreshCap
  | 0x50 =>
    let seq := v >>> 96
    if s.power.grantSeq.any (fun o => decide (seq ≤ o.toNat)) then s
    else (s.modPower (fun k => { k with granted := BitVec.ofNat 9 (v >>> 23), grantSeq := some (BitVec.ofNat 32 seq) })).refreshCap
  | _ => s

/-- The records of a gathering become active together (R450). -/
def State.applyGathering (s : State) (g : Gathering) : State := g.recs.foldl (fun s r => s.applyRecord r.1 r.2) s

/-- A commit is a module-wide change, counted by both halves (R415, R417). -/
def State.countCommit (s : State) : State :=
  s.modPower (fun p => { p with westEpoch := p.westEpoch + 1, eastEpoch := p.eastEpoch + 1 })

/-- Commit a pending gathering (R381, R407, R450, R451): a Trellis gathering advances the Epoch and clears the route cache. -/
def State.commitPending (s : State) (g : PendingGath) : State :=
  let s := s.modFabric (fun f => { f with pendingGath := f.pendingGath.erase g })
  match gatheringOf s.sec.grade.toNat g.bytes with
  | none => s
  | some x =>
    let s := (s.applyGathering x).countCommit
    if x.cls = 4 then
      let s := s.modSec (fun k => { k with meas := tput 0 k.meas 4 (digestNum (sub_ g.bytes 0 x.len)) })
      s.modFabric (fun f => { f with node := setF f.node 39 36 (fld f.node 39 36 + 1), routeCache := [] })
    else s

/-- The pending gathering that commits next: the lowest CommitCount, of equal ones the first to arrive (R451). -/
def nextPending (gs : List PendingGath) : Option PendingGath :=
  gs.foldl (fun best g =>
    match best with
    | none => some g
    | some b => if g.commit.toNat < b.commit.toNat then some g else some b) none

/-- Commit the pending gatherings whose CommitCount has come, in their order, unless they are held (R417, R451; fuel: gatherings pending). -/
def State.commitDue : Nat → State → State
  | 0, s => s
  | f + 1, s => match nextPending s.fabric.pendingGath with
    | none => s
    | some g => if s.spineOff || s.shadowsHeld || decide (s.launchCounter.toNat < g.commit.toNat) then s else State.commitDue f (s.commitPending g)

/-- An answer in a Mgmt frame (R407, R451, R462): its kind, then its bytes. -/
def State.reply (s : State) (bs : List Byte) : State := s.modFabric (fun f => { f with replies := f.replies ++ [bs] })

/-- A gathering arrives in Mgmt frames (R386, R450, R451): accepted under the end-to-end session, unsigned, valid, with fewer than four of its
class pending; the answer carries the class and 1 for acceptance, 0 for rejection.  One whose CommitCount has passed commits at once (R407). -/
def State.gatheringArrives (s : State) (cls : Nat) (bs : List Byte) : State :=
  if !s.fabric.e2e.up then s
  else
    let no := s.reply [BitVec.ofNat 8 cls, 0]
    match gatheringOf s.sec.grade.toNat bs with
    | none => no
    | some g =>
      if g.signed || g.cls != cls || decide (4 ≤ s.fabric.pendingGath.countP (fun p => p.cls.toNat == cls)) then no
      else
        let commit := if cls = 6 then leAt (g.last 0x50) 4 8 else g.commit
        let p : PendingGath := { cls := BitVec.ofNat 8 cls, commit := BitVec.ofNat 64 commit, bytes := bs }
        let s := (s.modFabric (fun f => { f with pendingGath := f.pendingGath ++ [p] })).reply [BitVec.ofNat 8 cls, 1]
        if commit ≤ s.launchCounter.toNat then State.commitDue s.fabric.pendingGath.length s else s

end Sys2Proof.Machine
end

