-- ==== Sys2Proof/Machine/Fp.lean ====
section
/-!
DEFINITION. Floating point: the formats of R42, decoding to exact dyadic numbers, rounding to nearest, ties to even (R45, R46),
encoding, and the IEEE 754-2019 operations the rules name.  Every operation computes its exact result and rounds it once.
-/

namespace Sys2Proof.Machine

/-- A floating-point format: exponent bits, fraction bits, and whether it is E4M3, which has no infinity (R42). -/
structure FloatFmt where
  eb : Nat
  fb : Nat
  e4m3 : Bool := false
deriving DecidableEq, Repr

def e4m3 : FloatFmt := { eb := 4, fb := 3, e4m3 := true }
def e5m2 : FloatFmt := { eb := 5, fb := 2 }
def fp16 : FloatFmt := { eb := 5, fb := 10 }
def bf16 : FloatFmt := { eb := 8, fb := 7 }
def fp32 : FloatFmt := { eb := 8, fb := 23 }
def fp64 : FloatFmt := { eb := 11, fb := 52 }

def FloatFmt.bias (f : FloatFmt) : Int := (2 ^ (f.eb - 1) : Nat) - 1
/-- Exponent of the smallest normal. -/
def FloatFmt.emin (f : FloatFmt) : Int := 1 - f.bias
/-- Exponent of the largest finite value. -/
def FloatFmt.emax (f : FloatFmt) : Int := if f.e4m3 then f.bias + 1 else f.bias
/-- Width in bits. -/
def FloatFmt.width (f : FloatFmt) : Nat := 1 + f.eb + f.fb
/-- The canonical NaN (R44). -/
def FloatFmt.canonNaN (f : FloatFmt) : Nat :=
  if f.e4m3 then 0x7F else (2 ^ f.eb - 1) * 2 ^ f.fb + 2 ^ (f.fb - 1)
/-- The bits of an infinity; E4M3 has none and gives its canonical NaN (R60). -/
def FloatFmt.infBits (f : FloatFmt) (neg : Bool) : Nat :=
  if f.e4m3 then 0x7F else (if neg then 2 ^ (f.eb + f.fb) else 0) + (2 ^ f.eb - 1) * 2 ^ f.fb
/-- The bits of the largest finite value. -/
def FloatFmt.maxBits (f : FloatFmt) (neg : Bool) : Nat :=
  (if neg then 2 ^ (f.eb + f.fb) else 0) +
    (if f.e4m3 then 0x7E else (2 ^ f.eb - 1) * 2 ^ f.fb - 1)

/-- A value: NaN, an infinity, or plus or minus m times 2 to the e; zero keeps its sign. -/
inductive FVal where
  | nan
  | inf (neg : Bool)
  | fin (neg : Bool) (m : Nat) (e : Int)
deriving DecidableEq, Repr

/-- The value of a bit pattern (R42, R43: subnormals count in full). -/
def FloatFmt.decode (f : FloatFmt) (bits : Nat) : FVal :=
  let neg := decide ((bits >>> (f.eb + f.fb)) % 2 = 1)
  let ex := (bits >>> f.fb) % 2 ^ f.eb
  let fr := bits % 2 ^ f.fb
  if f.e4m3 && ex == 15 && fr == 7 then .nan
  else if !f.e4m3 && ex == 2 ^ f.eb - 1 then (if fr = 0 then .inf neg else .nan)
  else if ex = 0 then .fin neg fr (f.emin - f.fb)
  else .fin neg (2 ^ f.fb + fr) ((ex : Int) - f.bias - f.fb)

/-- Shift a magnitude right by s, rounding to nearest, ties to even; the flag says whether bits were lost (R45). -/
def shiftRne (m s : Nat) : Nat × Bool :=
  let q := m >>> s
  let r := m % 2 ^ s
  let half := 2 ^ s / 2
  (if s ≠ 0 ∧ (half < r ∨ (r = half ∧ q % 2 = 1)) then q + 1 else q, decide (r ≠ 0))

/-- Result of one rounding: the rounded magnitude as mant times 2 to the q, and whether it overflows, is inexact, is tiny. -/
structure Rounded where
  mant : Nat
  q : Int
  overflow : Bool
  inexact : Bool
  tiny : Bool
deriving DecidableEq, Repr

/-- Round the magnitude m times 2 to the e into a format, exponent unbounded above (R45, R46). -/
def FloatFmt.round (f : FloatFmt) (m : Nat) (e : Int) : Rounded :=
  if m = 0 then { mant := 0, q := f.emin - f.fb, overflow := false, inexact := false, tiny := false } else
  let top : Int := e + (m.log2 : Int)
  let q : Int := max (top - f.fb) (f.emin - f.fb)
  let r := if q ≤ e then (m <<< (e - q).toNat, false) else shiftRne m (q - e).toNat
  let qu : Int := top - f.fb
  let ru := if qu ≤ e then (m <<< (e - qu).toNat, false) else shiftRne m (qu - e).toNat
  let top' : Int := q + (r.1.log2 : Int)
  { mant := r.1, q := q,
    overflow := decide (r.1 ≠ 0 ∧ (f.emax < top' ∨ (f.e4m3 ∧ top' = f.emax ∧ 15 ≤ r.1 >>> (r.1.log2 - 3)))),
    inexact := r.2,
    tiny := decide (ru.1 = 0 ∨ qu + (ru.1.log2 : Int) < f.emin) }

/-- The bits of a rounded magnitude that does not overflow. -/
def FloatFmt.pack (f : FloatFmt) (neg : Bool) (r : Rounded) : Nat :=
  let s := if neg then 2 ^ (f.eb + f.fb) else 0
  if r.mant = 0 then s
  else
    -- bring a carry out of the fraction back to fb + 1 bits
    let up := r.mant.log2 - f.fb
    let m := r.mant >>> up
    let q := r.q + up
    if m < 2 ^ f.fb then s + m
    else s + (q + f.fb + f.bias).toNat * 2 ^ f.fb + (m - 2 ^ f.fb)

/-- What one rounding gave, beside the bits. -/
structure FRes where
  bits : Nat
  overflow : Bool := false
  inexact : Bool := false
  underflow : Bool := false
deriving DecidableEq, Repr

/-- Encode by IEEE 754-2019 rules: overflow to infinity (R60, propagate class; E4M3 to its NaN). -/
def FloatFmt.encode (f : FloatFmt) : FVal → FRes
  | .nan => { bits := f.canonNaN }
  | .inf n => { bits := f.infBits n }
  | .fin n m e =>
    let r := f.round m e
    if r.overflow then { bits := f.infBits n, overflow := true, inexact := true }
    else { bits := f.pack n r, inexact := r.inexact, underflow := r.tiny && r.inexact }

/-- The bits alone. -/
def FloatFmt.enc (f : FloatFmt) (v : FVal) : Nat := (f.encode v).bits

namespace FVal

def isNaN : FVal → Bool
  | .nan => true
  | _ => false

def isZero : FVal → Bool
  | .fin _ 0 _ => true
  | _ => false

def neg : FVal → FVal
  | .nan => .nan
  | .inf n => .inf (!n)
  | .fin n m e => .fin (!n) m e

def abs : FVal → FVal
  | .nan => .nan
  | .inf _ => .inf false
  | .fin _ m e => .fin false m e

/-- The signed integer of a finite value in units of 2 to the u, for u at most its exponent. -/
def units (u : Int) : FVal → Int
  | .fin n m e => let k : Int := (m <<< (e - u).toNat : Nat); if n then -k else k
  | _ => 0

/-- Exact sum; an exact zero sum of unlike signs is +0 (IEEE 754-2019, round to nearest). -/
def add : FVal → FVal → FVal
  | .nan, _ => .nan
  | _, .nan => .nan
  | .inf a, .inf b => if a = b then .inf a else .nan
  | .inf a, _ => .inf a
  | _, .inf b => .inf b
  | .fin n1 m1 e1, .fin n2 m2 e2 =>
    let u := min e1 e2
    let s := units u (.fin n1 m1 e1) + units u (.fin n2 m2 e2)
    if s = 0 then .fin (if m1 = 0 ∧ m2 = 0 then n1 && n2 else false) 0 u
    else .fin (decide (s < 0)) s.natAbs u

/-- Exact product. -/
def mul : FVal → FVal → FVal
  | .nan, _ => .nan
  | _, .nan => .nan
  | .inf a, .inf b => .inf (a != b)
  | .inf a, .fin n m _ => if m = 0 then .nan else .inf (a != n)
  | .fin n m _, .inf b => if m = 0 then .nan else .inf (n != b)
  | .fin n1 m1 e1, .fin n2 m2 e2 => .fin (n1 != n2) (m1 * m2) (e1 + e2)

/-- Quotient, exact but for a sticky lowest bit beyond any rounding position. -/
def div : FVal → FVal → FVal
  | .nan, _ => .nan
  | _, .nan => .nan
  | .inf _, .inf _ => .nan
  | .inf a, .fin n _ _ => .inf (a != n)
  | .fin n _ _, .inf b => .fin (n != b) 0 0
  | .fin n1 m1 e1, .fin n2 m2 e2 =>
    if m2 = 0 then (if m1 = 0 then .nan else .inf (n1 != n2))
    else
      let k := 128 + m2.log2
      let x := m1 <<< k
      .fin (n1 != n2) (2 * (x / m2) + (if x % m2 = 0 then 0 else 1)) (e1 - e2 - (k : Int) - 1)

/-- Integer square root by bits, from bit i down. -/
def isqrtGo (n : Nat) : Nat → Nat → Nat
  | 0, r => r
  | i + 1, r => let c := r + 2 ^ i; isqrtGo n i (if c * c ≤ n then c else r)

/-- The greatest r with r squared at most n. -/
def isqrt (n : Nat) : Nat := isqrtGo n (n.log2 / 2 + 1) 0

/-- Square root, exact but for a sticky lowest bit. -/
def sqrt : FVal → FVal
  | .nan => .nan
  | .inf n => if n then .nan else .inf false
  | .fin n m e =>
    if m = 0 then .fin n 0 e
    else if n then .nan
    else
      let k : Nat := 256 + (if e % 2 = 0 then 0 else 1)
      let x := m <<< k
      let r := isqrt x
      .fin false (2 * r + (if r * r = x then 0 else 1)) ((e - (k : Int)) / 2 - 1)

/-- a < b for values that are no NaN; zeros of either sign are equal. -/
def lt : FVal → FVal → Bool
  | .nan, _ => false
  | _, .nan => false
  | .inf a, .inf b => a && !b
  | .inf a, _ => a
  | _, .inf b => !b
  | .fin n1 m1 e1, .fin n2 m2 e2 =>
    let u := min e1 e2
    decide (units u (.fin n1 m1 e1) < units u (.fin n2 m2 e2))

def eq : FVal → FVal → Bool
  | .nan, _ => false
  | _, .nan => false
  | .inf a, .inf b => a == b
  | .inf _, _ => false
  | _, .inf _ => false
  | .fin n1 m1 e1, .fin n2 m2 e2 =>
    let u := min e1 e2
    decide (units u (.fin n1 m1 e1) = units u (.fin n2 m2 e2))

def sign : FVal → Bool
  | .nan => false
  | .inf n => n
  | .fin n _ _ => n

/-- The smaller value; a NaN operand gives a NaN, and -0 orders below +0 (R108). -/
def minOf (a b : FVal) : FVal :=
  if a.isNaN || b.isNaN then .nan
  else if a.lt b then a else if b.lt a then b else if a.sign then a else b

/-- The larger value; a NaN operand gives a NaN, and -0 orders below +0 (R108). -/
def maxOf (a b : FVal) : FVal :=
  if a.isNaN || b.isNaN then .nan
  else if a.lt b then b else if b.lt a then a else if a.sign then b else a

/-- The integer nearest to a finite value, ties to even, and whether it differs (R45). -/
def toInt : FVal → Int × Bool
  | .fin n m e =>
    let r := if 0 ≤ e then (m <<< e.toNat, false) else shiftRne m (-e).toNat
    (if n then -(r.1 : Int) else (r.1 : Int), r.2)
  | _ => (0, false)

/-- The value of an integer. -/
def ofInt (i : Int) : FVal := .fin (decide (i < 0)) i.natAbs 0

end FVal

/-- An FP32 addition of R52: IEEE 754-2019, one rounding. -/
def fp32Add (a b : Nat) : Nat := fp32.enc ((fp32.decode a).add (fp32.decode b))

/-- An addition in any format, one rounding. -/
def fpAdd (f : FloatFmt) (a b : Nat) : Nat := f.enc ((f.decode a).add (f.decode b))

/-- One level of the pairwise tree of R52. -/
def treeLevel (add : Nat → Nat → Nat) : List Nat → List Nat
  | a :: b :: t => add a b :: treeLevel add t
  | l => l

/-- Repeat `treeLevel`; five levels bring 32 values to one. -/
def treeSum (add : Nat → Nat → Nat) (l : List Nat) : Nat :=
  (treeLevel add (treeLevel add (treeLevel add (treeLevel add (treeLevel add l))))).headD 0

/-- Cut a list into chunks of n (fuel: the length of the list). -/
def chunksGo {α : Type} (n : Nat) : Nat → List α → List (List α)
  | 0, _ => []
  | k + 1, l => if l.isEmpty then [] else l.take n :: chunksGo n k (l.drop n)

/-- The chunks of n consecutive members; the last may be short. -/
def chunks {α : Type} (n : Nat) (l : List α) : List (List α) := chunksGo n l.length l

/-- The sum of one chunk of at most 32 values, padded with +0 (R52, R118). -/
def chunkSum (f : FloatFmt) (l : List Nat) : Nat :=
  treeSum (fpAdd f) (l ++ List.replicate (32 - l.length) 0)

/-- The sum of R118: chunk sums added in ascending order, starting from the sum of chunk 0. -/
def orderedSum (f : FloatFmt) (l : List Nat) : Nat :=
  match (chunks 32 l).map (chunkSum f) with
  | [] => 0
  | x :: xs => xs.foldl (fpAdd f) x

/-- The float format of a format code, where it names one (R42). -/
def floatOf : Nat → Option FloatFmt
  | 1 => some e4m3
  | 2 => some e5m2
  | 4 => some fp16
  | 5 => some bf16
  | 6 => some fp32
  | 7 => some fp64
  | _ => none

/-- Width in bytes of an element of a format code (R42, R67). -/
def widthOf : Nat → Nat
  | 1 => 1
  | 2 => 1
  | 3 => 1
  | 4 => 2
  | 5 => 2
  | 6 => 4
  | 7 => 8
  | 8 => 4
  | 9 => 16
  | 10 => 32
  | 11 => 8
  | _ => 0

/-- The value of an element of a float or integer format code. -/
def valOf (fmt bits : Nat) : FVal :=
  match floatOf fmt with
  | some f => f.decode bits
  | none => FVal.ofInt (sint (8 * widthOf fmt) bits)

/-- What an output write does to the status (R60): status bits [4:0] and the Kind, if it has one. -/
structure OutRes where
  bits : Nat
  status : Nat := 0
  kind : Option Nat := none
deriving DecidableEq, Repr

/-- Status bits of R61 and R110. -/
def stNF : Nat := 1
def stSat : Nat := 2
def stInv : Nat := 4
def stClip : Nat := 8
def stISat : Nat := 16

/-- One element written to an output in a format code, by the class of the context (R60, R65; `flag` true is the flag class; `org`
says that a NaN operand reached the value). -/
def outElem (flag : Bool) (fmt : Nat) (org : Bool) (v : FVal) : OutRes :=
  match floatOf fmt with
  | some f =>
    match v with
    | .nan =>
      if flag then { bits := f.canonNaN, status := stNF + stInv, kind := some (if org then 3 else 2) }
      else { bits := f.canonNaN }
    | .inf n =>
      if flag then { bits := f.maxBits n, status := stNF, kind := some 1 } else { bits := f.infBits n }
    | .fin n m e =>
      let r := f.round m e
      if r.overflow then
        (if flag then { bits := f.maxBits n, status := stSat, kind := some 0 } else { bits := f.infBits n })
      else { bits := f.pack n r }
  | none =>
    let w := 8 * widthOf fmt
    let hi : Int := (2 ^ (w - 1) : Nat) - 1
    let lo : Int := -((2 ^ (w - 1) : Nat) : Int)
    match v with
    | .nan => { bits := 0, status := stISat, kind := some 4 }
    | .inf n => { bits := unsint w (if n then lo else hi), status := stISat, kind := some 4 }
    | .fin n m e =>
      let i := (FVal.toInt (.fin n m e)).1
      if hi < i then { bits := unsint w hi, status := stISat, kind := some 4 }
      else if i < lo then { bits := unsint w lo, status := stISat, kind := some 4 }
      else { bits := unsint w i }

end Sys2Proof.Machine
end

