-- ==== Sys2Proof/Machine/Flags.lean ====
section
/-!
DEFINITION. Flag computations: the floating-point instructions of lanes and Zawick cores with the fflags bits they set (R47, R65, R187,
IEEE 754-2019 as the RISC-V F and D extensions apply it), and the flag bits by name.
-/

namespace Sys2Proof.Machine

/-! fflags bits: invalid, division by zero, overflow, underflow, inexact. -/
def flNV : Nat := 16
def flDZ : Nat := 8
def flOF : Nat := 4
def flUF : Nat := 2
def flNX : Nat := 1

/-- Result bits of a floating-point instruction and the fflags it sets. -/
structure FOut where
  bits : Nat
  flags : Nat := 0
deriving DecidableEq, Repr

/-- A signalling NaN: the top fraction bit is clear. -/
def FloatFmt.isSNaN (f : FloatFmt) (b : Nat) : Bool := (f.decode b).isNaN && !(b.testBit (f.fb - 1))

/-- Whether any operand is a signalling NaN. -/
def FloatFmt.anySNaN (f : FloatFmt) (bs : List Nat) : Bool := bs.any (fun b => f.isSNaN b)

/-- Round an exact result; `nv` and `dz` are set by the operation. -/
def FloatFmt.roundOut (f : FloatFmt) (v : FVal) (nv dz : Bool) : FOut :=
  let r := f.encode v
  { bits := r.bits,
    flags := (if nv then flNV else 0) + (if dz then flDZ else 0) + (if r.overflow then flOF else 0) +
      (if r.underflow then flUF else 0) + (if r.inexact then flNX else 0) }

/-- The result of an operation: invalid where an operand signals, or where no operand is a NaN and the result is. -/
def FloatFmt.arith (f : FloatFmt) (ops : List Nat) (v : FVal) : FOut :=
  let nv := f.anySNaN ops || (v.isNaN && !(ops.any (fun b => (f.decode b).isNaN)))
  f.roundOut v nv false

def FloatFmt.fadd (f : FloatFmt) (a b : Nat) : FOut := f.arith [a, b] ((f.decode a).add (f.decode b))
def FloatFmt.fsub (f : FloatFmt) (a b : Nat) : FOut := f.arith [a, b] ((f.decode a).add (f.decode b).neg)
def FloatFmt.fmul (f : FloatFmt) (a b : Nat) : FOut := f.arith [a, b] ((f.decode a).mul (f.decode b))

def FloatFmt.fdiv (f : FloatFmt) (a b : Nat) : FOut :=
  let x := f.decode a
  let y := f.decode b
  let o := f.arith [a, b] (x.div y)
  let dz := match x, y with
    | .fin _ m _, .fin _ 0 _ => decide (m ≠ 0)
    | _, _ => false
  if dz then { o with flags := flDZ } else o

def FloatFmt.fsqrt (f : FloatFmt) (a : Nat) : FOut := f.arith [a] (f.decode a).sqrt

/-- Fused multiply-add with chosen signs of the product and the addend; infinity times zero is invalid even beside a NaN. -/
def FloatFmt.fma (f : FloatFmt) (negP negC : Bool) (a b c : Nat) : FOut :=
  let p := (f.decode a).mul (f.decode b)
  let p' := if negP then p.neg else p
  let cv := if negC then (f.decode c).neg else f.decode c
  let o := f.arith [a, b, c] (p'.add cv)
  let nan2 := (f.decode a).isNaN || (f.decode b).isNaN
  if p.isNaN && !nan2 then { o with flags := flNV } else o

/-- Minimum and maximum of RISC-V: a NaN operand gives the other one, two NaNs the canonical NaN; -0 is below +0. -/
def FloatFmt.fminmax (f : FloatFmt) (isMax : Bool) (a b : Nat) : FOut :=
  let x := f.decode a
  let y := f.decode b
  let fl := if f.anySNaN [a, b] then flNV else 0
  if x.isNaN && y.isNaN then { bits := f.canonNaN, flags := fl }
  else if x.isNaN then { bits := b, flags := fl }
  else if y.isNaN then { bits := a, flags := fl }
  else
    let lt := x.lt y || (!(y.lt x) && x.sign && !y.sign)
    { bits := if lt != isMax then a else b, flags := fl }

/-- Sign injection: 0 copies, 1 negates, 2 xors the sign of b. -/
def FloatFmt.fsgnj (f : FloatFmt) (k a b : Nat) : Nat :=
  let n := f.eb + f.fb
  let s := match k with
    | 0 => b.testBit n
    | 1 => !(b.testBit n)
    | _ => (a.testBit n).xor (b.testBit n)
  a % 2 ^ n + (if s then 2 ^ n else 0)

/-- Comparisons: 2 feq (quiet), 1 flt, 0 fle (signalling). -/
def FloatFmt.fcmp (f : FloatFmt) (k a b : Nat) : FOut :=
  let x := f.decode a
  let y := f.decode b
  if x.isNaN || y.isNaN then
    { bits := 0, flags := if k = 2 then (if f.anySNaN [a, b] then flNV else 0) else flNV }
  else
    let r := if k = 2 then x.eq y else if k = 1 then x.lt y else x.lt y || x.eq y
    { bits := if r then 1 else 0 }

/-- fclass. -/
def FloatFmt.fclass (f : FloatFmt) (a : Nat) : Nat :=
  let neg := a.testBit (f.eb + f.fb)
  match f.decode a with
  | .nan => if f.isSNaN a then 256 else 512
  | .inf n => if n then 1 else 128
  | .fin _ m _ =>
    if m = 0 then (if neg then 8 else 16)
    else if m < 2 ^ f.fb then (if neg then 4 else 32)
    else (if neg then 2 else 64)

/-- Float to an integer of `w` bits; `nanVal` is what a NaN gives (0 on a lane by R65; the largest value by RISC-V on a core). -/
def FloatFmt.toIntOut (f : FloatFmt) (w : Nat) (signed : Bool) (nanVal : Int) (a : Nat) : Int × Nat :=
  let lo : Int := if signed then -((2 ^ (w - 1) : Nat) : Int) else 0
  let hi : Int := if signed then (2 ^ (w - 1) : Nat) - 1 else (2 ^ w : Nat) - 1
  match f.decode a with
  | .nan => (nanVal, flNV)
  | .inf n => (if n then lo else hi, flNV)
  | .fin n m e =>
    let r := FVal.toInt (.fin n m e)
    if r.1 < lo then (lo, flNV) else if hi < r.1 then (hi, flNV) else (r.1, if r.2 then flNX else 0)

/-- An integer to a float. -/
def FloatFmt.ofIntOut (f : FloatFmt) (i : Int) : FOut := f.roundOut (FVal.ofInt i) false false

/-- A float of one format to another. -/
def FloatFmt.convOut (src dst : FloatFmt) (a : Nat) : FOut := dst.roundOut (src.decode a) (src.isSNaN a) false

end Sys2Proof.Machine
end

