-- ==== Sys2Proof/Machine/Lane.lean ====
section
/-!
DEFINITION. How a lane instruction runs: the row of the opcode table an instruction word belongs to (R157-R187), the entry a group
executes (R134, R135), register access, the convergence stack (R136), parking (R145-R149), and the cluster cache (R206-R208, R212).
-/

namespace Sys2Proof.Machine

/-- The row of the opcode table a lane instruction word belongs to; `tile` stands for the five rows of dh.tile, which its descriptor
tells apart. -/
inductive LaneRow where
  | tile | twait | stream | swait | ocfill | ocflush
  | alu | branch | jump | load | store | mulDiv | fpArith | fpConv | csr | fence | ecall | ebreak | illegal
  | vany | vall | ballot | elect | vsum | vmin | vmax | vprefix | shfl | shflXor | shflUp | shflDown
  | lsLoad | lsStore | hintedLoad | hintedStore | deadhead | dhFence
  | amo (op : Nat)
  | tksig | tkwait | tkread | exit | park
deriving DecidableEq, Repr

/-! ### Instruction fields (R158) -/

def iRd (w : BitVec 32) : Nat := fld w 11 7
def iRs1 (w : BitVec 32) : Nat := fld w 19 15
def iRs2 (w : BitVec 32) : Nat := fld w 24 20
def iRs3 (w : BitVec 32) : Nat := fld w 31 27
def iF3 (w : BitVec 32) : Nat := fld w 14 12
def iF7 (w : BitVec 32) : Nat := fld w 31 25
def iImm (w : BitVec 32) : Int := sint 12 (fld w 31 20)
def iImmS (w : BitVec 32) : Int := sint 12 (fld w 31 25 * 32 + fld w 11 7)
def iImmB (w : BitVec 32) : Int :=
  sint 13 (fld w 31 31 * 4096 + fld w 7 7 * 2048 + fld w 30 25 * 32 + fld w 11 8 * 2)
def iImmU (w : BitVec 32) : Int := sint 32 (fld w 31 12 * 4096)
def iImmJ (w : BitVec 32) : Int :=
  sint 21 (fld w 31 31 * 2 ^ 20 + fld w 19 12 * 4096 + fld w 20 20 * 2048 + fld w 30 21 * 2)

/-- CSRs a lane may name (R128, R187). -/
def laneCsr (n : Nat) : Bool :=
  n == 1 || n == 2 || n == 3 || (decide (0xCC0 ≤ n) && decide (n ≤ 0xCC7)) || (decide (0xC00 ≤ n) && decide (n ≤ 0xC02))

/-- Whether a CSR instruction writes: csrrs and csrrc with x0 or a zero immediate are reads (R187). -/
def csrWrites (w : BitVec 32) : Bool := fld w 13 12 == 1 || iRs1 w != 0

/-- Rounding-mode field that R47 allows. -/
def rmOk (w : BitVec 32) : Bool := iF3 w == 0 || iF3 w == 7

/-- The row of an instruction word; every encoding not listed is illegal (R127, R159, R187). -/
def laneRow (w : BitVec 32) : LaneRow :=
  let f3 := iF3 w
  let f7 := iF7 w
  match fld w 6 0 with
  | 0x37 => .alu
  | 0x17 => .alu
  | 0x6F => .jump
  | 0x67 => if f3 = 0 then .jump else .illegal
  | 0x63 => if f3 = 2 ∨ f3 = 3 then .illegal else .branch
  | 0x03 => if f3 = 7 then .illegal else .load
  | 0x07 => if f3 = 2 then .load else .illegal
  | 0x23 => if f3 ≤ 3 then .store else .illegal
  | 0x27 => if f3 = 2 then .store else .illegal
  | 0x13 => if f3 = 1 then (if f7 / 2 = 0 then .alu else .illegal)
            else if f3 = 5 then (if f7 / 2 = 0 ∨ f7 / 2 = 0x10 then .alu else .illegal) else .alu
  | 0x1B => if f3 = 0 then .alu else if f3 = 1 then (if f7 = 0 then .alu else .illegal)
            else if f3 = 5 then (if f7 = 0 ∨ f7 = 0x20 then .alu else .illegal) else .illegal
  | 0x33 => if f7 = 0 then .alu else if f7 = 1 then .mulDiv
            else if f7 = 0x20 ∧ (f3 = 0 ∨ f3 = 5) then .alu else .illegal
  | 0x3B => if f7 = 0 ∧ (f3 = 0 ∨ f3 = 1 ∨ f3 = 5) then .alu
            else if f7 = 1 ∧ (f3 = 0 ∨ 4 ≤ f3) then .mulDiv
            else if f7 = 0x20 ∧ (f3 = 0 ∨ f3 = 5) then .alu else .illegal
  | 0x0F => if f3 = 0 then .fence else .illegal
  | 0x73 => if w = 0x00000073#32 then .ecall else if w = 0x00100073#32 then .ebreak
            else if f3 = 0 ∨ f3 = 4 then .illegal
            else if !laneCsr (fld w 31 20) || (csrWrites w && decide (0xC00 ≤ fld w 31 20)) then .illegal else .csr
  | 0x43 => if fld w 26 25 = 0 ∧ rmOk w then .fpArith else .illegal
  | 0x47 => if fld w 26 25 = 0 ∧ rmOk w then .fpArith else .illegal
  | 0x4B => if fld w 26 25 = 0 ∧ rmOk w then .fpArith else .illegal
  | 0x4F => if fld w 26 25 = 0 ∧ rmOk w then .fpArith else .illegal
  | 0x53 =>
    match f7 with
    | 0x00 => if rmOk w then .fpArith else .illegal
    | 0x04 => if rmOk w then .fpArith else .illegal
    | 0x08 => if rmOk w then .fpArith else .illegal
    | 0x0C => if rmOk w then .fpArith else .illegal
    | 0x2C => if rmOk w ∧ iRs2 w = 0 then .fpArith else .illegal
    | 0x10 => if f3 ≤ 2 then .fpArith else .illegal
    | 0x14 => if f3 ≤ 1 then .fpArith else .illegal
    | 0x50 => if f3 ≤ 2 then .fpArith else .illegal
    | 0x70 => if f3 ≤ 1 ∧ iRs2 w = 0 then .fpArith else .illegal
    | 0x78 => if f3 = 0 ∧ iRs2 w = 0 then .fpArith else .illegal
    | 0x60 => if rmOk w ∧ iRs2 w ≤ 3 then .fpConv else .illegal
    | 0x68 => if rmOk w ∧ iRs2 w ≤ 3 then .fpConv else .illegal
    | _ => .illegal
  | 0x0B =>
    if f3 = 0 then
      match f7 with
      | 0x00 => if iRs2 w = 0 then .vany else .illegal
      | 0x01 => if iRs2 w = 0 then .vall else .illegal
      | 0x02 => if iRs2 w = 0 then .ballot else .illegal
      | 0x03 => if iRs2 w = 0 ∧ iRs1 w = 0 then .elect else .illegal
      | 0x04 => if iRs2 w = 0 then .vsum else .illegal
      | 0x05 => if iRs2 w = 0 then .vmin else .illegal
      | 0x06 => if iRs2 w = 0 then .vmax else .illegal
      | 0x07 => if iRs2 w = 0 then .vprefix else .illegal
      | 0x10 => .shfl
      | 0x11 => .shflXor
      | 0x12 => .shflUp
      | 0x13 => .shflDown
      | _ => .illegal
    else if f3 = 1 ∧ iRs1 w = 0 ∧ iRd w = 0 then
      (if fld w 31 20 = 0 then .exit else if fld w 31 21 = 0x100 / 2 then .park else .illegal)
    else .illegal
  | 0x2B => .lsLoad
  | 0x5B =>
    if f3 ≤ 4 then .lsStore
    else if f3 = 5 then
      let wd := fld w 28 25
      if fld w 31 30 = 3 then .illegal
      else if bit w 29 then (if iRd w = 0 ∧ (wd ≤ 3 ∨ wd = 7) then .hintedStore else .illegal)
      else if iRs2 w = 0 ∧ wd ≤ 7 then .hintedLoad else .illegal
    else if f3 = 6 then
      (if fld w 31 28 = 0 ∧ fld w 27 24 ≠ 0 ∧ iRs1 w = 0 ∧ iRd w = 0 then .dhFence
       else if fld w 31 20 = 0x100 ∧ iRd w = 0 then .deadhead else .illegal)
    else
      let op := fld w 31 27
      let wide := bit w 25
      if 0x10 ≤ op then .illegal
      else if op = 0x0A ∨ op = 0x0B ∨ op = 0x0C then (if wide then .illegal else .amo op)
      else if op = 0x0D then (if wide ∧ iRs2 w = 0 then .amo op else .illegal)
      else if op = 0x0E ∨ op = 0x0F then (if wide ∧ iRs2 w = 0 ∧ iRd w = 0 then .amo op else .illegal)
      else .amo op
  | 0x7B =>
    if f3 = 0 then (if iRs2 w ≠ 0 then .illegal else if f7 = 0 then .tile else if f7 = 1 then .twait else .illegal)
    else if f3 = 1 then (if iRs2 w ≠ 0 then .illegal else if f7 = 0 then .stream else if f7 = 1 then .swait else .illegal)
    else if f3 = 2 then (if fld w 26 25 = 0 then .ocfill else if fld w 26 25 = 1 then .ocflush else .illegal)
    else if f3 = 3 then
      (if f7 = 0 then (if iRd w = 0 then .tksig else .illegal)
       else if f7 = 1 then (if iRd w = 0 then .tkwait else .illegal)
       else if f7 = 2 then (if iRs2 w = 0 then .tkread else .illegal) else .illegal)
    else .illegal
  | _ => .illegal

/-- Whether an encoding carries the V mark, or is a CSR read that traps in exact mode (R129, R161, R177). -/
def exactTraps (w : BitVec 32) : Bool :=
  match laneRow w with
  | .amo op => op == 0 || op == 9 || op == 0x0A || op == 0x0D || op == 0x0E || (op != 0x0F && iRd w != 0)
  | .tkread => true
  | .deadhead => true
  | .csr => decide (0xC00 ≤ fld w 31 20 ∧ fld w 31 20 ≤ 0xC02)
  | _ => false

/-! ### Registers -/

def Group.getX (g : Group) (l r : Nat) : Word := if r = 0 then 0 else tget 0 g.x (l * 32 + r)
/-- Write an integer register; x0 discards (R127). -/
def Group.setX (g : Group) (l r : Nat) (v : Word) : Group :=
  if r = 0 then g else { g with x := tput 0 g.x (l * 32 + r) v }
def Group.getF (g : Group) (l r : Nat) : BitVec 32 := tget 0 g.f (l * 32 + r)
def Group.setFr (g : Group) (l r : Nat) (v : BitVec 32) : Group := { g with f := tput 0 g.f (l * 32 + r) v }
def Group.getFcsr (g : Group) (l : Nat) : BitVec 32 := tget 0 g.fcsr l
/-- OR flags into a lane's fflags. -/
def Group.orFlags (g : Group) (l fl : Nat) : Group :=
  { g with fcsr := tput 0 g.fcsr l (g.getFcsr l ||| BitVec.ofNat 32 (fl % 32)) }
/-- Write one value into a register of every lane of a list. -/
def Group.setAll (g : Group) (ls : List Nat) (r : Nat) (v : Nat → Word) : Group :=
  ls.foldl (fun g l => g.setX l r (v l)) g

/-! ### The convergence stack (R134-R136) -/

/-- Put an entry on the stack at its place by PC; an equal PC merges and the merged entry is ready (R136). -/
def stackAdd (e : Entry) : List Entry → List Entry
  | [] => [e]
  | x :: xs =>
    if e.pc.toNat < x.pc.toNat then e :: x :: xs
    else if e.pc = x.pc then { x with mask := x.mask ||| e.mask, st := .ready, wait := .nothing,
                                      issued := x.issued || e.issued, walking := false } :: xs
    else x :: stackAdd e xs

/-- The entry a group executes: the ready entry with the lowest PC (R135); one whose access waits for a walk is passed over (R297),
one whose access is outstanding holds the group (log 13). -/
def Group.selected (g : Group) : Option Entry :=
  match g.stack.find? (fun e => e.st == .ready && !e.walking) with
  | some e => if e.out.isSome then none else some e
  | none => none

/-- Change the entry at a PC. -/
def Group.modEntry (g : Group) (pc : BitVec 48) (f : Entry → Entry) : Group :=
  { g with stack := g.stack.map (fun e => if e.pc = pc then f e else e) }

/-- Lanes that stand at the PC of an entry and are not of it: they reached the PC while the entry's access was outstanding (R136). -/
def Group.joined (g : Group) (e : Entry) : BitVec 32 :=
  (g.stack.filter (fun x => x.pc == e.pc)).foldl (fun m x => m ||| x.mask) 0 &&& ~~~e.mask

/-- Put an entry on the stack unless it has no lane. -/
def addLanes (e : Entry) (st : List Entry) : List Entry := if e.mask = 0 then st else stackAdd e st

/-- A stack of one entry resets the livelock count (R143). -/
def Group.settleAcq (g : Group) : Group :=
  if g.stack.length ≤ 1 then { g with acqFails := 0, stack := g.stack.map (fun x => { x with issued := false }) } else g

/-- Replace the entry at a PC by one entry per next PC (R136).  Lanes that joined it stay there, and issue the instruction themselves; of the
entries of a split the one with the lowest PC goes on as the entry that loops on dh.acq, the others are other entries (R143, log 86). -/
def Group.moveLanes (g : Group) (e : Entry) (nexts : List (BitVec 48 × BitVec 32)) : Group :=
  let rest := g.stack.filter (fun x => x.pc != e.pc)
  let first := fun (pc : BitVec 48) => nexts.all (fun n => n.2 == 0 || decide (pc.toNat ≤ n.1.toNat))
  let st := nexts.foldl (fun st (pc, m) => addLanes { pc := pc, mask := m, st := .ready, issued := e.issued && first pc } st) rest
  { g with stack := addLanes { pc := e.pc, mask := g.joined e, st := .ready } st }.settleAcq

/-- The whole entry goes on to the next instruction. -/
def Group.advance (g : Group) (e : Entry) : Group := g.moveLanes e [(e.pc + 4, e.mask)]

/-- Another entry than the one that loops on dh.acq issues: the livelock count resets (R143). -/
def Group.noteIssue (g : Group) (e : Entry) : Group :=
  if e.issued then g else { g with acqFails := 0, stack := g.stack.map (fun x => { x with issued := false }) }

/-- A retired instruction counts for each lane of its entry (R128). -/
def Group.retire (g : Group) (m : BitVec 32) : Group :=
  (lanesOf m).foldl (fun g l => { g with instret := tput 0 g.instret l (tget 0 g.instret l + 1) }) g

/-- Every other yielded entry becomes ready after a release or an atomic (R142). -/
def Group.wake (g : Group) (pc : BitVec 48) : Group :=
  { g with stack := g.stack.map (fun e => if e.pc ≠ pc ∧ e.st = .yielded then { e with st := .ready } else e) }

/-! ### Running one instruction -/

/-- What a lane meaning works on: cluster, group, the entry, the kernel, the instruction word. -/
structure LC where
  c : Nat
  g : Nat
  e : Entry
  k : Kernel
  w : BitVec 32
deriving DecidableEq, Repr

def LC.lanes (i : LC) : List Nat := lanesOf i.e.mask
def LC.ctx (i : LC) : Nat := i.k.ctx.toNat

/-- A group parks for a cause (R145-R148): parking is in progress until GROUP_PARK writes the record.  A cause that arises while another is
being recorded, or while the group is parked, is held pending (R148). -/
def State.park (s : State) (c g : Nat) (p : ParkCause) : State :=
  s.modGroup c g (fun k => if k.parking.isNone && k.status != .parked then { k with parking := some p } else { k with causes := k.causes ++ [p] })

/-- The instruction at the entry faults: it has no effect and the group parks there. -/
def State.fault (s : State) (i : LC) (cause : Nat) (reason : Nat := 0) (flanes : List Nat := []) (addr : Option Nat := none) : State :=
  s.park i.c i.g { cause := BitVec.ofNat 8 cause, reason := BitVec.ofNat 8 reason, addr := addr.map (BitVec.ofNat 48),
                   flanes := maskOf flanes, pc := i.e.pc, mask := i.e.mask, insn := i.w }

/-- Whether the kernel may still be replayed (R343). -/
def State.mayReplay (s : State) (k : Kernel) : Bool :=
  k.rep && decide ((s.queue k.queue.toNat).launch.replays.toNat < 3)

/-- A replayable kernel meets uncorrectable data: it is withdrawn from all of its clusters and waits for its replay (R343, R151,
R436). -/
def State.withdrawForReplay (s : State) (k : Kernel) : State :=
  let q := k.queue.toNat
  if (s.queue q).launch.withdrawn then s
  else ((s.withdraw (fun t => t.queue == k.queue && t.id == k.id)).modQueue q (fun u =>
    { u with launch := { u.launch with withdrawn := true, state := 2, complete := 0 }, started := false })).storeLaunch q

/-- Uncorrectable data in a lane access (R151). -/
def State.laneUncorrectable (s : State) (i : LC) (reason : Nat) (flanes : List Nat) (addr : Option Nat) : State :=
  if s.mayReplay i.k then s.withdrawForReplay i.k else s.fault i 8 reason flanes addr

/-- Whether a cluster runs groups now: its kernel has started and Go has come, it is resident and clocked. -/
def Cluster.runs (k : Cluster) : Bool := k.resident && k.started && k.acked && k.clock == .running

/-- An entry waits for the walks of its access (R297). -/
def State.awaitWalks (s : State) (i : LC) (vas : List Nat) : State :=
  (s.gather i.c i.g i.ctx vas).modGroup i.c i.g (fun k => k.modEntry i.e.pc (fun e => { e with walking := true }))

/-- The entry that a group would execute: none where the group issues nothing. -/
def State.issuer (s : State) (c g : Nat) : Option LC :=
  let k := s.cluster c
  let gr := k.group g
  match k.kernel with
  | none => none
  | some kn =>
    if !k.runs || gr.status != .running || gr.parking.isSome || !gr.causes.isEmpty then none
    else gr.selected.map (fun e => { c := c, g := g, e := e, k := kn, w := 0 })

/-- Whether a read of the sector of an address through a look-aside entry leaves both as they are: the entry is the most recently used of its
set (R481), no core owns the sector (R282), a present line has the age of a hit (R212), an absent one is in no filter entry (R242). -/
def State.readQuiet (s : State) (src : Nat) (t : TlbEnt) (a : Nat) : Bool :=
  let sets := (tlbShape src).1
  (!(s.tlbOf src).contains t || (s.tlbOf src).find? (fun o => tlbSet sets o == tlbSet sets t) == some t) &&
  (isScratch a || (tget {} (s.half (homeEast a)).dir (a / 128)).dstate != 2 && (match (s.half (homeEast a)).lineAt a with
    | some (_, l) => l.age == hitAge 0 l.age && !(l.valid &&& l.weak).getLsbD (sectorOf a) &&
      ((l.valid ||| l.filling ||| l.lost).getLsbD (sectorOf a) || !(s.half (homeEast a)).filter.any (fun e => e.1.toNat == lineOf a))
    | none => !(s.half (homeEast a)).filter.any (fun e => e.1.toNat == lineOf a)))

/-- The entry that a group would execute and its instruction word (log 7): none where the group issues nothing or its fetch is not done, an
error reason where the fetch is not allowed or fails (R298, R293). -/
def State.fetchLane (s : State) (c g : Nat) : Option (LC × Option Nat) :=
  match s.issuer c g with
  | none => none
  | some i =>
    let pc := i.e.pc.toNat
    match s.lookFor c g i.ctx pc with
    | .miss => none
    | .fail f => some (i, some f.reason)
    | .hit t => match clusterCheck .fetch t pc with
      | some r => some (i, some r)
      | none =>
        let a := t.addr pc
        let er := s.readErr (sectorBase a)
        if er = 1 then some (i, some 9) else if er ≠ 0 then some (i, some 3)
        else if s.sectorBusy a || !s.readQuiet c t a then none
        else some ({ i with w := BitVec.ofNat 32 (s.viewNat a 4) }, none)

/-- A group's fetch on its way: the walk that its translation waits for (R296, R297), or what the read of its sector does beside returning
the word (R212, R242, R481); it waits for an ordered reduction into the sector to end (R238). -/
def State.fetchOn (s : State) (c g : Nat) : State :=
  match s.issuer c g with
  | none => s
  | some i => match s.lookFor c g i.ctx i.e.pc.toNat with
    | .miss => s.awaitWalks i [i.e.pc.toNat]
    | .fail _ => s
    | .hit t =>
      let a := t.addr i.e.pc.toNat
      if s.sectorBusy a then s else ((s.tlbTouch c t).ungather c g).noteRead (sectorBase a) (some i.ctx)

/-- A fetch has failed: the walk's failure is taken note of (R294), and a sector that does not read is recorded (R249). -/
def State.fetchFailed (s : State) (i : LC) : State :=
  let s1 := s.ungather i.c i.g
  match s.lookFor i.c i.g i.ctx i.e.pc.toNat with
  | .hit t =>
    let s1 := (s.tlbTouch i.c t).ungather i.c i.g
    if s.readErr (sectorBase (t.addr i.e.pc.toNat)) = 1 then s1.noteRead (sectorBase (t.addr i.e.pc.toNat)) (some i.ctx) else s1
  | _ => s1

/-- Run one lane instruction of a row: a group whose fetch is not done goes on with it; nothing where the group issues nothing or the word
belongs to another row; a fetch that fails parks the group (R298, R293); a marked encoding traps in exact mode (R129, R161). -/
def State.laneStep (s : State) (c g : Nat) (row : LaneRow → Bool) (f : State → LC → State) : State :=
  match s.fetchLane c g with
  | none => s.fetchOn c g
  | some (i, some r) =>
    if r = 9 then (s.fetchFailed i).laneUncorrectable i 2 i.lanes (some i.e.pc.toNat)
    else (s.fetchFailed i).fault i 6 0 i.lanes (some i.e.pc.toNat)
  | some (i, none) =>
    if !row (laneRow i.w) then s
    else
      let s := s.modGroup c g (fun k => k.noteIssue i.e)
      if exactTraps i.w && bit (s.ctx i.ctx).status 4 then s.fault i 5 else f s i

/-- The instruction completes for all lanes of its entry: results written, the entry goes on. -/
def State.finish (s : State) (i : LC) (f : Group → Group) : State :=
  s.modGroup i.c i.g (fun k => ((f k).retire i.e.mask).advance i.e)

/-! ### The cluster store (R138-R140, R206) -/

def Kernel.groups (k : Kernel) : Nat := fld k.groupCfg 15 10 + 1
def Kernel.lsBytes (k : Kernel) : Nat := fld k.groupCfg 9 7 * 524288
def Kernel.frameBytes (k : Kernel) : Nat := 16384 * 2 ^ fld k.groupCfg 6 5
def Kernel.frameVA (k : Kernel) : Nat := fld k.groupCfg 63 32 * 65536
/-- Sets of the cluster cache (R206). -/
def Kernel.cacheSets (k : Kernel) : Nat := (4194304 - k.lsBytes - k.groups * k.frameBytes) / 16384
/-- Base of a cluster's own frame range (R139). -/
def Kernel.frameBase (k : Kernel) (c : Nat) : Nat := k.frameVA + c * k.groups * k.frameBytes

/-- Offset in the frame area of an address in the cluster's own frame range (R206). -/
def Kernel.frameOff (k : Kernel) (c va : Nat) : Option Nat :=
  let b := k.frameBase c
  if b ≤ va ∧ va < b + k.groups * k.frameBytes then some (va - b) else none

/-- Sectors of a cluster's own frame range, by offset and physical address; a launch has found the region mapped, pinned and writable (R139). -/
def State.frameSectors (s : State) (c : Nat) (k : Kernel) : List (Nat × Nat) :=
  let base := k.frameBase c
  (List.range (k.groups * k.frameBytes / 4096)).flatMap (fun p =>
    match s.walk k.ctx.toNat (base + p * 4096) with
    | .ok e => if e.remote then [] else (List.range 32).map (fun i => (p * 4096 + i * 128, e.addr (base + p * 4096) + i * 128))
    | .error _ => [])

/-- What the translation of a cluster's frame range does beside (log 15). -/
def State.noteFrames (s : State) (c : Nat) (k : Kernel) : State :=
  (List.range (k.groups * k.frameBytes / 4096)).foldl (fun s p => s.noteWalk k.ctx.toNat (k.frameBase c + p * 4096)) s

/-- Whether an address lies in the kernel's frame region (R139, R172, R178). -/
def Kernel.inFrames (k : Kernel) (va : Nat) : Bool :=
  decide (k.frameVA ≤ va ∧ va < k.frameVA + 128 * k.groups * k.frameBytes)

/-! ### The cluster cache -/

def cacheSet (k : Kernel) (pa : Nat) : Nat := (pa % 2 ^ 41 / 2048) % k.cacheSets

def Cluster.cline (k : Cluster) (pa : Nat) : Option CLine := k.cache.find? (fun l => l.line.toNat == lineOf pa)
def Cluster.modCline (k : Cluster) (pa : Nat) (f : CLine → CLine) : Cluster :=
  { k with cache := k.cache.map (fun l => if l.line.toNat = lineOf pa then f l else l) }

/-- Write a line's dirty sectors back, in ascending sector order, full or masked (R208). -/
def State.writeBackLine (s : State) (c : Nat) (k : Kernel) (l : CLine) : State :=
  l.dirty.foldl (fun s (i, m) =>
    let full := m == BitVec.allOnes 128
    s.request { vc := 0, op := if full then 2 else 3, src := BitVec.ofNat 12 c, tag := 0, ctx := k.ctx, hint := l.hint,
                gen := k.gen, pa := BitVec.ofNat 48 (l.line.toNat * 2048 + i * 128), ctl := if full then 0 else m,
                data := tget 0 l.data i } .writeBack) s

/-- Write the frame lines back to the frame region, as a site switch does (R37, R139). -/
def State.writeBackFrames (s : State) (c : Nat) (k : Kernel) : State :=
  (s.frameSectors c k).foldl (fun s p =>
    s.request { vc := 0, op := 2, src := BitVec.ofNat 12 c, tag := 0, ctx := k.ctx, gen := k.gen, pa := BitVec.ofNat 48 p.2,
                data := ofSectorBytes (readBytes (s.cluster c).frame p.1 128) } .writeBack) (s.noteFrames c k)

/-- A line that holds dirty bytes and is being filled: a Quire-performed write of the cluster waits for the fill, so that the loads
that wait for it see the dirty bytes (R191). -/
def Cluster.mixedLine (k : Cluster) (pa : Nat) : Bool :=
  match k.cline pa with
  | some l => l.dirty != [] && l.filling != 0
  | none => false

/-- The line holds nothing; it keeps its way while a fill of it is outstanding (R198). -/
def CLine.emptied (l : CLine) : CLine := { l with dirty := [], valid := 0, data := [] }

/-- Invalidate the lines of the cluster cache that a test names, dirty bytes with them. -/
def Cluster.invalidate (k : Cluster) (p : CLine → Bool) : Cluster :=
  { k with cache := (k.cache.filter (fun l => !p l || l.filling != 0)).map (fun l => if p l then l.emptied else l) }

/-- Fills of a cluster whose sectors a test names no longer make data valid: their lines have been invalidated, or their sectors written
through, since they were sent (R189, R192, R196, R198). -/
def State.orphanFills (s : State) (c : Nat) (p : Nat → Bool) : State :=
  s.modShared (fun h => { h with reqs := h.reqs.map (fun r =>
    if r.msg.src.toNat = c ∧ r.why = .fill ∧ p r.msg.pa.toNat then { r with why := .fillOnce } else r) })

/-- Whether such a fill of a sector is still outstanding: a load of the sector waits for it. -/
def State.orphaned (s : State) (c pa : Nat) : Bool :=
  s.sh.reqs.any (fun r => r.msg.src.toNat == c && r.why == .fillOnce && r.msg.pa.toNat == sectorBase pa)

/-- Invalidate one line of a cluster's cache, with its fills. -/
def State.dropLine (s : State) (c pa : Nat) : State :=
  (s.modCluster c (fun u => u.invalidate (fun l => l.line.toNat == lineOf pa))).orphanFills c (fun p => lineOf p == lineOf pa)

/-- Write dirty bytes of a line back and drop the line before a Quire-performed write of the same cluster (R189, R190). -/
def State.flushLine (s : State) (c : Nat) (k : Kernel) (pa : Nat) : State :=
  match (s.cluster c).cline pa with
  | none => s
  | some l => (s.writeBackLine c k l).dropLine c pa

/-- A device-scope acquire drops every clean line of the cluster cache, once per acquire; a line that is dirty stays (R197, R198). -/
def State.acquireClean (s : State) (c : Nat) : State :=
  let clean := (s.cluster c).cache.filter (fun l => l.dirty = [])
  (s.modCluster c (fun u => u.invalidate (fun l => l.dirty = []))).orphanFills c (fun p =>
    clean.any (fun l => l.line.toNat == lineOf p))

/-- The way a new line takes, and the state with the victim written back (R208, R212). -/
def State.cacheAlloc (s : State) (c : Nat) (k : Kernel) (pa hint : Nat) : Option State :=
  let set := cacheSet k pa
  let inSet := (s.cluster c).cache.filter (fun l => l.set.toNat == set)
  let add := fun (s : State) (w : Nat) => s.modCluster c (fun u => { u with cache := u.cache ++
    [{ set := BitVec.ofNat 8 set, way := BitVec.ofNat 3 w, line := BitVec.ofNat 37 (lineOf pa), valid := 0, filling := 0,
       age := insertAge hint, hint := BitVec.ofNat 2 hint, dirty := [], data := [] }] })
  match (List.range 8).find? (fun w => !inSet.any (fun l => l.way.toNat == w)) with
  | some w => some (add s w)
  | none =>
    let el := inSet.filter (fun l => l.filling == 0)
    let top := el.foldl (fun a l => max a l.age.toNat) 0
    match (List.range 8).find? (fun w => el.any (fun l => l.way.toNat == w && l.age.toNat == top)) with
    | none => none
    | some w =>
      match el.find? (fun l => l.way.toNat == w) with
      | none => none
      | some v =>
        let s := s.modCluster c (fun u => { u with cache := u.cache.map (fun l =>
          if l.set.toNat = set ∧ l.filling = 0 then { l with age := BitVec.ofNat 2 (l.age.toNat + (3 - top)) } else l) })
        let s := s.writeBackLine c k v
        some (add (s.modCluster c (fun u => { u with cache := u.cache.filter (fun l => l.line != v.line) })) w)

/-- A little-endian number of `n` bytes in a sector. -/
def sectorNum (d : Sector) (a n : Nat) : Nat := (d.toNat >>> (8 * (a % 128))) % 2 ^ (8 * n)

/-- A sector that holds a number of `n` bytes at an address. -/
def numSector (a n v : Nat) : Sector := BitVec.ofNat 1024 ((v % 2 ^ (8 * n)) <<< (8 * (a % 128)))

/-- Bytes of a line, if the line can answer: the sector is valid, or every byte is dirty (R207). -/
def CLine.read (l : CLine) (pa n : Nat) : Option Nat :=
  let i := sectorOf pa
  let m := byteMask pa n
  if l.valid.getLsbD i || (tget 0 l.dirty i &&& m) == m then some (sectorNum (tget 0 l.data i) pa n) else none

end Sys2Proof.Machine
end

