-- ==== Sys2Proof/Machine/Operands.lean ====
section
/-!
DEFINITION. Operands of lane accesses: widths, virtual addresses, where an address of a lane leads (R189, R206, R298), the checks that
come before an access has any effect (R162, R298), and the descriptors and operands that collective instructions read.
-/

namespace Sys2Proof.Machine

/-- Where a lane's address leads: the frame area, local memory, or a remote leaf at a window offset. -/
inductive LaneTarget where
  | frame (off : Nat)
  | local_ (pa : Nat)
  | remote (slot : BitVec 128) (off : Nat)
deriving DecidableEq, Repr

/-- A lane's access: lane, virtual address, target. -/
abbrev LaneTo := Nat × Nat × LaneTarget

/-- What checking the addresses of an execution leads to. -/
inductive Resolved where
  | stop (s : State)
  | go (ts : List LaneTo)

/-- Virtual address of a lane: rs1 plus an immediate, 64 bits. -/
def Group.laneVA (g : Group) (l rs1 : Nat) (imm : Int) : Nat := (g.getX l rs1 + BitVec.ofInt 64 imm).toNat

/-- Make the entries that an execution used the most recently used (R481), and let go of what it has gathered. -/
def State.touchAll (s : State) (i : LC) (vas : List (Nat × Nat)) : State :=
  (vas.foldl (fun s (_, va) => match s.look i.c i.ctx va with | .hit e => s.tlbTouch i.c e | _ => s) s).ungather i.c i.g

/-- Check and translate the addresses of an execution (R162, R298): while an address misses, walks are started and the entry waits
(R297); a walk that met uncorrectable data comes first (R148, R293), then a protection error, then a misaligned address. `noFrame` refuses
the kernel's frame region (R172, R178). -/
def State.resolve (s : State) (i : LC) (d : AccessDir) (width : Nat) (noFrame : Bool) (vas : List (Nat × Nat)) : Resolved :=
  let x := i.ctx
  let looks := vas.map (fun (l, va) => (l, va, s.lookFor i.c i.g x va))
  if s.misses i.c i.g x (vas.map (fun p => p.2)) ≠ [] then .stop (s.awaitWalks i (vas.map (fun p => p.2)))
  else
    let ucs := looks.filterMap (fun (l, va, r) => match r with
      | .fail f => if f.reason = 9 then some (l, va) else none
      | _ => none)
    let prot := looks.filterMap (fun (l, va, r) => match r with
      | .fail _ => some (l, va)
      | .miss => none
      | .hit e => if (clusterCheck d e va).isSome || (noFrame && i.k.inFrames va) then some (l, va) else none)
    let mis := vas.filter (fun (_, va) => va % width != 0)
    let lanes := fun (fs : List (Nat × Nat)) => fs.map (fun f => f.1)
    let addr := fun (fs : List (Nat × Nat)) => fs.head?.map (fun f => f.2)
    -- an entry that is found is the most recently used, be the access refused or not (R481)
    let t := s.touchAll i vas
    if ucs ≠ [] then .stop (t.laneUncorrectable i 2 (lanes ucs) (addr ucs))
    else if prot ≠ [] then .stop (t.fault i 6 0 (lanes prot) (addr prot))
    else if mis ≠ [] then .stop (t.fault i 7 0 (lanes mis) (addr mis))
    else .go (looks.filterMap (fun (l, va, r) => match r with
      | .hit e =>
        some (l, va, if e.remote then LaneTarget.remote e.slot (e.addr va)
          else match i.k.frameOff i.c va with
            | some o => LaneTarget.frame o
            | none => LaneTarget.local_ (e.addr va))
      | _ => none))

/-! ### Access widths and value forms (R168, R170, R187) -/

/-- Form of a loaded value: bytes, sign-extending, into an f register. -/
structure LoadForm where
  bytes : Nat
  signed : Bool
  isF : Bool
deriving DecidableEq, Repr

/-- Form of a base load by its word. -/
def baseLoadForm (w : BitVec 32) : LoadForm :=
  if fld w 6 0 = 0x07 then ⟨4, false, true⟩ else ⟨2 ^ (iF3 w % 4), decide (iF3 w < 4), false⟩

/-- Form of a local-store load (R168). -/
def lsLoadForm (w : BitVec 32) : LoadForm :=
  if iF3 w = 7 then ⟨4, false, true⟩ else ⟨2 ^ (iF3 w % 4), decide (iF3 w < 4), false⟩

/-- Form of a hinted load (R170). -/
def hintedLoadForm (w : BitVec 32) : LoadForm :=
  let n := fld w 28 25
  if n = 7 then ⟨4, false, true⟩ else ⟨2 ^ (n % 4), decide (n < 4), false⟩

/-- Form of the load that a word is, of whichever row. -/
def loadForm (w : BitVec 32) : LoadForm :=
  match laneRow w with
  | .lsLoad => lsLoadForm w
  | .hintedLoad => hintedLoadForm w
  | _ => baseLoadForm w

/-- The hint a lane access carries (R170). -/
def accessHint (w : BitVec 32) : Nat :=
  match laneRow w with
  | .hintedLoad => fld w 31 30
  | .hintedStore => fld w 31 30
  | _ => 0

/-- A loaded value in a 64-bit register. -/
def LoadForm.extend (f : LoadForm) (v : Nat) : Word :=
  if f.signed then BitVec.ofInt 64 (sint (8 * f.bytes) v) else BitVec.ofNat 64 v

/-- Write a loaded value to the destination. -/
def Group.setLoaded (g : Group) (w : BitVec 32) (l : Nat) (v : Nat) : Group :=
  let f := loadForm w
  if f.isF then g.setFr l (iRd w) (BitVec.ofNat 32 v) else g.setX l (iRd w) (f.extend v)

/-- Bytes of a store and whether its source is an f register. -/
def storeForm (w : BitVec 32) : Nat × Bool :=
  match laneRow w with
  | .lsStore => if iF3 w = 4 then (4, true) else (2 ^ iF3 w, false)
  | .hintedStore => if fld w 28 25 = 7 then (4, true) else (2 ^ fld w 28 25, false)
  | _ => if fld w 6 0 = 0x27 then (4, true) else (2 ^ iF3 w, false)

/-- The value a lane stores. -/
def Group.storeValue (g : Group) (w : BitVec 32) (l : Nat) : Nat :=
  let f := storeForm w
  if f.2 then (g.getF l (iRs2 w)).toNat else (g.getX l (iRs2 w)).toNat % 2 ^ (8 * f.1)

/-! ### Local store (R169) -/

/-- Check the offsets of a local-store execution: below the size, then aligned; AV is 0 (R169). -/
def State.lsCheck (s : State) (i : LC) (width : Nat) (offs : List (Nat × Nat)) : Option State :=
  let out := offs.filter (fun (_, o) => decide (i.k.lsBytes < o + width))
  let mis := offs.filter (fun (_, o) => o % width != 0)
  if out ≠ [] then some (s.fault i 6 0 (out.map (fun f => f.1)))
  else if mis ≠ [] then some (s.fault i 7 0 (mis.map (fun f => f.1)))
  else none

/-- Whether bytes of the local store lie in a codeword of 32 bytes that fails its check, now or by an earlier access (R249, log 14). -/
def Cluster.lsFails (k : Cluster) (bad : List Nat) (off n : Nat) : Bool :=
  (List.range n).any (fun j => bad.contains ((off + j) / 32) || k.lsBad.contains ((off + j) / 32))

/-! ### Values that all lanes of a collective present (R144) -/

/-- The value of rs1 in every active lane if they agree. -/
def Group.uniform (g : Group) (lanes : List Nat) (r : Nat) : Option Word :=
  match lanes with
  | [] => none
  | l :: _ => if lanes.all (fun m => g.getX m r == g.getX l r) then some (g.getX l r) else none

end Sys2Proof.Machine
end

