-- ==== Sys2Proof/Machine/LaneAlu.lean ====
section
/-!
DEFINITION. Base instructions of a lane: integer, branches and jumps, multiply and divide, floating point, CSRs, fences, ecall, ebreak,
and illegal words (R127-R129, R136, R175, R187).
-/

namespace Sys2Proof.Machine

/-! ### Integer arithmetic, shared with the Zawick cores -/

/-- Register-register and register-immediate operations of RV64I by funct3; `alt` is the sub or sra form. -/
def aluOp (f3 : Nat) (alt : Bool) (a b : Word) : Word :=
  match f3 with
  | 0 => if alt then a - b else a + b
  | 1 => a <<< (b.toNat % 64)
  | 2 => if a.toInt < b.toInt then 1 else 0
  | 3 => if a.toNat < b.toNat then 1 else 0
  | 4 => a ^^^ b
  | 5 => if alt then a.sshiftRight (b.toNat % 64) else a >>> (b.toNat % 64)
  | 6 => a ||| b
  | _ => a &&& b

/-- The low 32 bits sign-extended. -/
def sext32 (v : Nat) : Word := BitVec.ofInt 64 (sint 32 v)

/-- Word operations of RV64I by funct3. -/
def aluOpW (f3 : Nat) (alt : Bool) (a b : Word) : Word :=
  let x : BitVec 32 := a.truncate 32
  let y : BitVec 32 := b.truncate 32
  let r : BitVec 32 := match f3 with
    | 0 => if alt then x - y else x + y
    | 1 => x <<< (y.toNat % 32)
    | _ => if alt then x.sshiftRight (y.toNat % 32) else x >>> (y.toNat % 32)
  r.signExtend 64

/-- Multiply and divide of `w` bits by funct3; division by zero and overflow give the RISC-V results (R187). -/
def mulDivOp (w f3 : Nat) (a b : Nat) : Nat :=
  let sa := sint w a
  let sb := sint w b
  let m := 2 ^ w
  match f3 with
  | 0 => a * b % m
  | 1 => unsint w (sa * sb / (m : Int))
  | 2 => unsint w (sa * (b : Int) / (m : Int))
  | 3 => a * b / m % m
  | 4 => if b = 0 then m - 1 else unsint w (Int.tdiv sa sb)
  | 5 => if b = 0 then m - 1 else a / b
  | 6 => if b = 0 then a else unsint w (Int.tmod sa sb)
  | _ => if b = 0 then a else a % b

/-- Result of an integer instruction of the alu row (R187), by its word, pc and operands. -/
def aluResult (w : BitVec 32) (pc : Nat) (a b : Word) : Word :=
  let f3 := iF3 w
  match fld w 6 0 with
  | 0x37 => BitVec.ofInt 64 (iImmU w)
  | 0x17 => BitVec.ofInt 64 ((pc : Int) + iImmU w)
  | 0x13 =>
    if f3 = 1 ∨ f3 = 5 then aluOp f3 (bit w 30) a (BitVec.ofNat 64 (fld w 25 20))
    else aluOp f3 false a (BitVec.ofInt 64 (iImm w))
  | 0x1B =>
    if f3 = 1 ∨ f3 = 5 then aluOpW f3 (bit w 30) a (BitVec.ofNat 64 (fld w 24 20))
    else aluOpW f3 false a (BitVec.ofInt 64 (iImm w))
  | 0x33 => aluOp f3 (bit w 30) a b
  | _ => aluOpW f3 (bit w 30) a b

/-- Whether a branch is taken. -/
def branchTaken (f3 : Nat) (a b : Word) : Bool :=
  match f3 with
  | 0 => a == b
  | 1 => a != b
  | 4 => decide (a.toInt < b.toInt)
  | 5 => decide (b.toInt ≤ a.toInt)
  | 6 => decide (a.toNat < b.toNat)
  | _ => decide (b.toNat ≤ a.toNat)

/-- Multiply or divide result of a word. -/
def mulDivResult (w : BitVec 32) (a b : Word) : Word :=
  if fld w 6 0 = 0x33 then BitVec.ofNat 64 (mulDivOp 64 (iF3 w) a.toNat b.toNat)
  else sext32 (mulDivOp 32 (iF3 w) (a.toNat % 2 ^ 32) (b.toNat % 2 ^ 32))

/-! ### Meanings -/

/-- BASE_ALU: upper immediates, register-immediate, register-register and word instructions (R187). -/
def stepBaseAlu (c : BitVec 7) (g : BitVec 6) (s : State) : State :=
  s.laneStep c.toNat g.toNat (· == .alu) (fun s i =>
    s.finish i (fun k => i.lanes.foldl (fun k l =>
      k.setX l (iRd i.w) (aluResult i.w i.e.pc.toNat (k.getX l (iRs1 i.w)) (k.getX l (iRs2 i.w)))) k))
def execBaseAlu (c : BitVec 7) (g : BitVec 6) (s : State) : Host.Outcome State Fault Refusal := .next (stepBaseAlu c g s)

/-- BASE_BRANCH: lanes that take the branch and lanes that do not split the entry; a taken target that is no multiple of 4 parks the
group (R136, R187); a target of more than 48 bits is a protection error (R289). -/
def stepBaseBranch (c : BitVec 7) (g : BitVec 6) (s : State) : State :=
  s.laneStep c.toNat g.toNat (· == .branch) (fun s i =>
    let gr := s.group i.c i.g
    let taken := i.lanes.filter (fun l => branchTaken (iF3 i.w) (gr.getX l (iRs1 i.w)) (gr.getX l (iRs2 i.w)))
    let t64 := (BitVec.ofInt 64 ((i.e.pc.toNat : Int) + iImmB i.w)).toNat
    let target := BitVec.ofNat 48 t64
    if taken ≠ [] ∧ 2 ^ 48 ≤ t64 then s.fault i 6 0 taken (some t64)
    else if taken ≠ [] ∧ t64 % 4 ≠ 0 then s.fault i 7 0 taken (some t64)
    else s.modGroup i.c i.g (fun k => (k.retire i.e.mask).moveLanes i.e
      [(target, maskOf taken), (i.e.pc + 4, i.e.mask &&& ~~~maskOf taken)]))
def execBaseBranch (c : BitVec 7) (g : BitVec 6) (s : State) : Host.Outcome State Fault Refusal := .next (stepBaseBranch c g s)

/-- BASE_JUMP: jal and jalr; differing targets split the entry; a target that is no multiple of 4, or of more than 48 bits, is met
as R187 and R289 say. -/
def stepBaseJump (c : BitVec 7) (g : BitVec 6) (s : State) : State :=
  s.laneStep c.toNat g.toNat (· == .jump) (fun s i =>
    let gr := s.group i.c i.g
    let target := fun l =>
      if fld i.w 6 0 = 0x6F then (BitVec.ofInt 64 ((i.e.pc.toNat : Int) + iImmJ i.w)).toNat
      else (gr.getX l (iRs1 i.w) + BitVec.ofInt 64 (iImm i.w)).toNat / 2 * 2
    let bad := i.lanes.filter (fun l => target l % 4 != 0)
    let high := i.lanes.filter (fun l => decide (2 ^ 48 ≤ target l))
    if high ≠ [] then s.fault i 6 0 high (high.head?.map target)
    else if bad ≠ [] then s.fault i 7 0 bad (bad.head?.map target)
    else s.modGroup i.c i.g (fun k =>
      ((k.setAll i.lanes (iRd i.w) (fun _ => BitVec.ofNat 64 (i.e.pc.toNat + 4))).retire i.e.mask).moveLanes i.e
        (i.lanes.map (fun l => (BitVec.ofNat 48 (target l), maskOf [l])))))
def execBaseJump (c : BitVec 7) (g : BitVec 6) (s : State) : Host.Outcome State Fault Refusal := .next (stepBaseJump c g s)

/-- BASE_MUL_DIV (R187). -/
def stepBaseMulDiv (c : BitVec 7) (g : BitVec 6) (s : State) : State :=
  s.laneStep c.toNat g.toNat (· == .mulDiv) (fun s i =>
    s.finish i (fun k => i.lanes.foldl (fun k l =>
      k.setX l (iRd i.w) (mulDivResult i.w (k.getX l (iRs1 i.w)) (k.getX l (iRs2 i.w)))) k))
def execBaseMulDiv (c : BitVec 7) (g : BitVec 6) (s : State) : Host.Outcome State Fault Refusal := .next (stepBaseMulDiv c g s)

/-- Where a floating-point result goes. -/
inductive FDest where
  | f (v : Nat)
  | x (v : Word)

/-- Result and fflags of an FP32 instruction of a lane that is no conversion (R47, R187). -/
def fpLane (k : Group) (w : BitVec 32) (l : Nat) : FDest × Nat :=
  let a := (k.getF l (iRs1 w)).toNat
  let b := (k.getF l (iRs2 w)).toNat
  let d := (k.getF l (iRs3 w)).toNat
  let o := fun (r : FOut) => (FDest.f r.bits, r.flags)
  match fld w 6 0 with
  | 0x43 => o (fp32.fma false false a b d)
  | 0x47 => o (fp32.fma false true a b d)
  | 0x4B => o (fp32.fma true false a b d)
  | 0x4F => o (fp32.fma true true a b d)
  | _ =>
    match iF7 w with
    | 0x00 => o (fp32.fadd a b)
    | 0x04 => o (fp32.fsub a b)
    | 0x08 => o (fp32.fmul a b)
    | 0x0C => o (fp32.fdiv a b)
    | 0x2C => o (fp32.fsqrt a)
    | 0x10 => (.f (fp32.fsgnj (iF3 w) a b), 0)
    | 0x14 => o (fp32.fminmax (iF3 w == 1) a b)
    | 0x50 => let r := fp32.fcmp (iF3 w) a b; (.x (BitVec.ofNat 64 r.bits), r.flags)
    | 0x70 => if iF3 w = 1 then (.x (BitVec.ofNat 64 (fp32.fclass a)), 0) else (.x (sext32 a), 0)
    | _ => (.f ((k.getX l (iRs1 w)).toNat % 2 ^ 32), 0)

/-- Result and fflags of an FP32 conversion of a lane: a NaN converts to 0 (R65, R187). -/
def fpConvLane (k : Group) (w : BitVec 32) (l : Nat) : FDest × Nat :=
  let wd := if iRs2 w < 2 then 32 else 64
  let signed := iRs2 w % 2 == 0
  if iF7 w = 0x60 then
    let r := fp32.toIntOut wd signed 0 (k.getF l (iRs1 w)).toNat
    (.x (if wd = 32 then sext32 (unsint 32 r.1) else BitVec.ofInt 64 r.1), r.2)
  else
    let v := (k.getX l (iRs1 w)).toNat % 2 ^ wd
    let r := fp32.ofIntOut (if signed then sint wd v else (v : Int))
    (.f r.bits, r.flags)

/-- Write a floating-point result of a lane. -/
def Group.setFDest (k : Group) (l rd : Nat) (d : FDest × Nat) : Group :=
  let k := match d.1 with
    | .f v => k.setFr l rd (BitVec.ofNat 32 v)
    | .x v => k.setX l rd v
  if d.2 = 0 then k else k.orFlags l d.2

/-- FP_ARITHMETIC: arithmetic, sign, compare, class and move (R47, R187). -/
def stepFpArithmetic (c : BitVec 7) (g : BitVec 6) (s : State) : State :=
  s.laneStep c.toNat g.toNat (· == .fpArith) (fun s i =>
    s.finish i (fun k => i.lanes.foldl (fun k l => k.setFDest l (iRd i.w) (fpLane k i.w l)) k))
def execFpArithmetic (c : BitVec 7) (g : BitVec 6) (s : State) : Host.Outcome State Fault Refusal :=
  .next (stepFpArithmetic c g s)

/-- FP_CONVERSION (R65, R187). -/
def stepFpConversion (c : BitVec 7) (g : BitVec 6) (s : State) : State :=
  s.laneStep c.toNat g.toNat (· == .fpConv) (fun s i =>
    s.finish i (fun k => i.lanes.foldl (fun k l => k.setFDest l (iRd i.w) (fpConvLane k i.w l)) k))
def execFpConversion (c : BitVec 7) (g : BitVec 6) (s : State) : Host.Outcome State Fault Refusal :=
  .next (stepFpConversion c g s)

/-- The cluster's cycle count as a read finds it: no less than the last read found, and from zero at the kernel's start; by how much it has
gone up is a free value (R128, log 5). -/
def State.cycleNow (s : State) (c : Nat) : Word :=
  BitVec.ofNat 64 (min (2 ^ 64 - 1) ((s.cluster c).cycle.toNat + (Config.freeWord s.free).toNat))

/-- Value of a lane CSR (R47, R128). -/
def laneCsrValue (s : State) (i : LC) (l n : Nat) : Word :=
  let gr := s.group i.c i.g
  match n with
  | 1 => BitVec.ofNat 64 (fld (gr.getFcsr l) 4 0)
  | 2 => 0
  | 3 => BitVec.ofNat 64 (fld (gr.getFcsr l) 4 0)
  | 0xCC0 => BitVec.ofNat 64 l
  | 0xCC1 => BitVec.ofNat 64 i.g
  | 0xCC2 => BitVec.ofNat 64 i.k.groups
  | 0xCC3 => BitVec.ofNat 64 i.c
  | 0xCC4 => BitVec.ofNat 64 i.k.lsBytes
  | 0xCC5 => BitVec.ofNat 64 i.k.id.toNat
  | 0xCC6 => BitVec.ofNat 64 i.ctx
  | 0xCC7 => BitVec.ofNat 64 i.e.mask.toNat
  | 0xC00 => s.cycleNow i.c
  | 0xC01 => s.launchCounter
  | _ => tget 0 gr.instret l

/-- The new value a CSR instruction writes, if it writes (R187). -/
def csrNew (w : BitVec 32) (old rs1 : Word) : Option Word :=
  if !csrWrites w then none
  else
    let v := if bit w 14 then BitVec.ofNat 64 (iRs1 w) else rs1
    match fld w 13 12 with
    | 1 => some v
    | 2 => some (old ||| v)
    | _ => some (old &&& ~~~v)

/-- Write fflags, frm or fcsr: frm ignores writes (R47). -/
def Group.writeFcsr (k : Group) (l n : Nat) (v : Word) : Group :=
  if n = 2 then k else { k with fcsr := tput 0 k.fcsr l (BitVec.ofNat 32 (fld v 4 0)) }

/-- CSR_ACCESS (R127-R129, R187). -/
def stepCsrAccess (c : BitVec 7) (g : BitVec 6) (s : State) : State :=
  s.laneStep c.toNat g.toNat (· == .csr) (fun s i =>
    let n := fld i.w 31 20
    let s' := s.finish i (fun k => i.lanes.foldl (fun k l =>
      let old := laneCsrValue s i l n
      let rs1 := k.getX l (iRs1 i.w)
      let k := match csrNew i.w old rs1 with
        | some v => k.writeFcsr l n v
        | none => k
      k.setX l (iRd i.w) old) k)
    if n = 0xC00 then { s'.modCluster i.c (fun u => { u with cycle := s.cycleNow i.c }) with free := s'.free + 1 } else s')
def execCsrAccess (c : BitVec 7) (g : BitVec 6) (s : State) : Host.Outcome State Fault Refusal := .next (stepCsrAccess c g s)

/-- BASE_FENCE: a fence at device scope (R175, R197); no operation where its four predecessor or successor bits are zero.  Every
earlier access of an entry has been performed when the entry issues again (log 13), so a release waits for nothing. -/
def stepBaseFence (c : BitVec 7) (g : BitVec 6) (s : State) : State :=
  s.laneStep c.toNat g.toNat (· == .fence) (fun s i =>
    let pred := fld i.w 27 24
    let succ := fld i.w 23 20
    let s := s.finish i id
    if pred = 0 ∨ succ = 0 then s else s.acquireClean i.c)
def execBaseFence (c : BitVec 7) (g : BitVec 6) (s : State) : Host.Outcome State Fault Refusal := .next (stepBaseFence c g s)

/-- ECALL parks the group with cause 0x09 (R187). -/
def stepEcall (c : BitVec 7) (g : BitVec 6) (s : State) : State :=
  s.laneStep c.toNat g.toNat (· == .ecall) (fun s i => s.fault i 9)
def execEcall (c : BitVec 7) (g : BitVec 6) (s : State) : Host.Outcome State Fault Refusal := .next (stepEcall c g s)

/-- EBREAK parks the group with cause 0x0A (R187). -/
def stepEbreak (c : BitVec 7) (g : BitVec 6) (s : State) : State :=
  s.laneStep c.toNat g.toNat (· == .ebreak) (fun s i => s.fault i 0x0A)
def execEbreak (c : BitVec 7) (g : BitVec 6) (s : State) : Host.Outcome State Fault Refusal := .next (stepEbreak c g s)

/-- ILLEGAL_INSTRUCTION: any other word parks the group with cause 0x04 (R47, R127, R159, R187). -/
def stepIllegalInstruction (c : BitVec 7) (g : BitVec 6) (s : State) : State :=
  s.laneStep c.toNat g.toNat (· == .illegal) (fun s i => s.fault i 4)
def execIllegalInstruction (c : BitVec 7) (g : BitVec 6) (s : State) : Host.Outcome State Fault Refusal :=
  .next (stepIllegalInstruction c g s)

end Sys2Proof.Machine
end

