-- ==== Sys2Proof/Machine/LaneMem.lean ====
section
/-!
DEFINITION. Memory accesses of a lane: loads and stores through the cluster cache, hinted forms, local-store accesses, deadhead,
fences, atomics and locks (R141-R143, R168-R180, R189-R200, R207, R240).
-/

namespace Sys2Proof.Machine

/-! ### Loads -/

/-- An empty outstanding access of an instruction. -/
def LC.acc (i : LC) (kind : AccKind) : LaneAcc := { kind := kind, insn := i.w, mask := i.e.mask, wait := [], vals := [], fails := [] }

/-- Lanes of an access at the Quire whose sector is scratchpad that no half serves: the access is a protection error, and no lane performs it
(R146, R215). -/
def State.unassigned (s : State) (ts : List LaneTo) : List (Nat × Nat) :=
  ts.filterMap (fun (l, va, t) => match t with
    | .local_ pa => if isScratch pa && s.readErr (sectorBase pa) == 2 then some (l, va) else none
    | _ => none)

/-- A protection error of some lanes. -/
def State.refuseLanes (s : State) (i : LC) (fs : List (Nat × Nat)) : State :=
  s.fault i 6 0 (fs.map (fun p => p.1)) (fs.head?.map (fun p => p.2))

/-- Set the outstanding access of the entry that issued. -/
def State.setOut (s : State) (i : LC) (a : LaneAcc) : State :=
  s.modGroup i.c i.g (fun k => k.modEntry i.e.pc (fun e => { e with out := some a }))

/-- One lane's load of `n` bytes of local memory at a physical address: the value if the cluster cache has it, else the sector's fetch
begins (R207).  None where no way is eligible, or where a fill of the sector is outstanding that may leave nothing valid (R198). -/
def State.laneLoadAt (s : State) (i : LC) (hint pa n : Nat) : Option (State × Option Nat) :=
  let fill := fun (s : State) =>
      let req : MemMsg := { vc := 0, op := 1, src := BitVec.ofNat 12 i.c, tag := 0, ctx := i.k.ctx, hint := BitVec.ofNat 2 hint,
                            gen := i.k.gen, pa := BitVec.ofNat 48 (sectorBase pa) }
      some ((s.modCluster i.c (fun u => u.modCline pa (fun l =>
        { l with filling := setB l.filling (sectorOf pa) true }))).request req .fill, none)
  match (s.cluster i.c).cline pa with
  | some l =>
    let s := s.modCluster i.c (fun u => u.modCline pa (fun l => { l with age := hitAge hint l.age }))
    match l.read pa n with
    | some v => some (s, some v)
    | none =>
      if s.orphaned i.c pa then none
      else if l.filling.getLsbD (sectorOf pa) then some (s, none) else fill s
  | none =>
    if s.orphaned i.c pa then none else
    match s.cacheAlloc i.c i.k pa hint with
    | none => none
    | some s => fill s

/-- The lanes of a load, one after another: values that come at once, lanes that wait. -/
def State.loadLanes (i : LC) (hint n : Nat) : List LaneTo → State → LaneAcc → Option (State × LaneAcc)
  | [], s, a => some (s, a)
  | (l, va, t) :: ts, s, a =>
    match t with
    | .frame o => State.loadLanes i hint n ts s
        { a with vals := tins a.vals l (BitVec.ofNat 64 (readLe (s.cluster i.c).frame o n)) }
    | .remote _ _ => State.loadLanes i hint n ts s a
    | .local_ pa =>
      match s.laneLoadAt i hint pa n with
      | none => none
      | some (s, some v) => State.loadLanes i hint n ts s { a with vals := tins a.vals l (BitVec.ofNat 64 v) }
      | some (s, none) => State.loadLanes i hint n ts s
          { a with wait := a.wait ++ [(BitVec.ofNat 5 l, BitVec.ofNat 48 va, BitVec.ofNat 48 pa)] }

/-- Write the loaded values and go on. -/
def State.commitLoad (s : State) (i : LC) (a : LaneAcc) : State :=
  s.finish i (fun k => a.vals.foldl (fun k (l, v) => k.setLoaded a.insn l v.toNat) k)

/-- A load by its form, address offset and hint (R187, R171). -/
def State.laneLoad (s : State) (i : LC) (imm : Int) : State :=
  let gr := s.group i.c i.g
  let n := (loadForm i.w).bytes
  let vas := i.lanes.map (fun l => (l, gr.laneVA l (iRs1 i.w) imm))
  match s.resolve i .read n false vas with
  | .stop s => s
  | .go ts =>
    match State.loadLanes i (accessHint i.w) n ts (s.touchAll i vas) (i.acc .load) with
    | none => s
    | some (s, a) => if a.wait = [] then s.commitLoad i a else s.setOut i a

/-- BASE_LOAD (R187, R189, R207). -/
def stepBaseLoad (c : BitVec 7) (g : BitVec 6) (s : State) : State :=
  s.laneStep c.toNat g.toNat (· == .load) (fun s i => s.laneLoad i (iImm i.w))
def execBaseLoad (c : BitVec 7) (g : BitVec 6) (s : State) : Host.Outcome State Fault Refusal := .next (stepBaseLoad c g s)

/-- DH_HINTED_LOAD: the address is rs1 (R171). -/
def stepDhHintedLoad (c : BitVec 7) (g : BitVec 6) (s : State) : State :=
  s.laneStep c.toNat g.toNat (· == .hintedLoad) (fun s i => s.laneLoad i 0)
def execDhHintedLoad (c : BitVec 7) (g : BitVec 6) (s : State) : Host.Outcome State Fault Refusal :=
  .next (stepDhHintedLoad c g s)

/-! ### Stores -/

/-- Write bytes into a cache line and mark them dirty. -/
def CLine.storeDirty (l : CLine) (pa n v : Nat) : CLine :=
  let i := sectorOf pa
  let m := byteMask pa n
  { l with dirty := tput 0 l.dirty i (tget 0 l.dirty i ||| m),
           data := tput 0 l.data i (mergeSector (tget 0 l.data i) (numSector pa n v) m) }

/-- Write bytes into a cache line without marking them dirty (fence mode). -/
def CLine.storeClean (l : CLine) (pa n v : Nat) : CLine :=
  let i := sectorOf pa
  if l.valid.getLsbD i then
    { l with data := tput 0 l.data i (mergeSector (tget 0 l.data i) (numSector pa n v) (byteMask pa n)) }
  else l

/-- One lane's store of `n` bytes (R189): to the frame area, through an outbound slot, into the cluster cache (boundary mode), or
written through to the Quire under the lane's own request (fence mode, R196). -/
def State.storeLane (s : State) (i : LC) (hint n v l : Nat) (va : Nat) (t : LaneTarget) (a : LaneAcc) :
    Option (State × LaneAcc) :=
  match t with
  | .frame o => some (s.modCluster i.c (fun u => { u with frame := writeLe u.frame o n v }), a)
  | .remote slot off => some (s.slotWrite i.ctx i.k.gen.toNat slot va off (leBytes n v), a)
  | .local_ pa =>
    if bit (s.ctx i.ctx).status 3 then
      -- a fill of the sector that is on its way holds older data than this store (R191, R196)
      let s := (s.modCluster i.c (fun u => u.modCline pa (fun k =>
          { (k.storeClean pa n v) with age := hitAge hint k.age }))).orphanFills i.c (fun p => p == sectorBase pa)
      some (s.request { vc := 0, op := 3, src := BitVec.ofNat 12 i.c, tag := 0, ctx := i.k.ctx, hint := BitVec.ofNat 2 hint,
                          gen := i.k.gen, pa := BitVec.ofNat 48 (sectorBase pa), ctl := byteMask pa n,
                          data := numSector pa n v } (.laneStore (BitVec.ofNat 6 i.g) (BitVec.ofNat 5 l)),
              { a with wait := a.wait ++ [(BitVec.ofNat 5 l, BitVec.ofNat 48 va, BitVec.ofNat 48 pa)] })
    else
      match (s.cluster i.c).cline pa with
      | some _ => some (s.modCluster i.c (fun u => u.modCline pa (fun k =>
          { (k.storeDirty pa n v) with age := hitAge hint k.age })), a)
      | none =>
        match s.cacheAlloc i.c i.k pa hint with
        | none => none
        | some s => some (s.modCluster i.c (fun u => u.modCline pa (fun k => k.storeDirty pa n v)), a)

def State.storeLanes (i : LC) (hint n : Nat) (vals : List (Nat × Nat)) : List LaneTo → State → LaneAcc →
    Option (State × LaneAcc)
  | [], s, a => some (s, a)
  | (l, va, t) :: ts, s, a =>
    match s.storeLane i hint n (tget 0 vals l) l va t a with
    | none => none
    | some (s, a) => State.storeLanes i hint n vals ts s a

/-- A store by its form, address offset and hint (R187, R171). -/
def State.laneStore (s : State) (i : LC) (imm : Int) : State :=
  let gr := s.group i.c i.g
  let n := (storeForm i.w).1
  let vas := i.lanes.map (fun l => (l, gr.laneVA l (iRs1 i.w) imm))
  let vals := i.lanes.map (fun l => (l, gr.storeValue i.w l))
  match s.resolve i .write n false vas with
  | .stop s => s
  | .go ts =>
    if bit (s.ctx i.ctx).status 3 ∧ s.unassigned ts ≠ [] then s.refuseLanes i (s.unassigned ts) else
    match State.storeLanes i (accessHint i.w) n vals ts (s.touchAll i vas) (i.acc .store) with
    | none => s
    | some (s, a) => if a.wait = [] then s.finish i id else s.setOut i a

/-- BASE_STORE (R187, R189, R196). -/
def stepBaseStore (c : BitVec 7) (g : BitVec 6) (s : State) : State :=
  s.laneStep c.toNat g.toNat (· == .store) (fun s i => s.laneStore i (iImmS i.w))
def execBaseStore (c : BitVec 7) (g : BitVec 6) (s : State) : Host.Outcome State Fault Refusal := .next (stepBaseStore c g s)

/-- DH_HINTED_STORE (R171). -/
def stepDhHintedStore (c : BitVec 7) (g : BitVec 6) (s : State) : State :=
  s.laneStep c.toNat g.toNat (· == .hintedStore) (fun s i => s.laneStore i 0)
def execDhHintedStore (c : BitVec 7) (g : BitVec 6) (s : State) : Host.Outcome State Fault Refusal :=
  .next (stepDhHintedStore c g s)

/-! ### Local store -/

/-- Codewords that this access found to fail stay marked (R249). -/
def State.markBad (s : State) (c : Nat) (bad : List Nat) : State :=
  if bad = [] then s else
    s.modCluster c (fun u => { u with lsBad := u.lsBad ++ bad.filter (fun b => !u.lsBad.contains b) })

/-- The failing codewords among those that an access of `n` bytes at some offsets touches. -/
def touchedBad (bad : List Nat) (n : Nat) (offs : List (Nat × Nat)) : List Nat :=
  bad.filter (fun b => offs.any (fun p => decide (p.2 / 32 ≤ b ∧ b ≤ (p.2 + n - 1) / 32)))

/-- DH_LS_LOAD: `bad` names the codewords (offset divided by 32) that this access finds uncorrectable (R168, R169, R249). -/
def stepDhLsLoad (c : BitVec 7) (g : BitVec 6) (bad : List Nat) (s : State) : State :=
  s.laneStep c.toNat g.toNat (· == .lsLoad) (fun s i =>
    let gr := s.group i.c i.g
    let n := (lsLoadForm i.w).bytes
    let offs := i.lanes.map (fun l => (l, gr.laneVA l (iRs1 i.w) (iImm i.w)))
    match s.lsCheck i n offs with
    | some s => s
    | none =>
      let s := s.markBad i.c (touchedBad bad n offs)
      let u := s.cluster i.c
      let fails := offs.filter (fun p => u.lsFails [] p.2 n)
      if fails ≠ [] then s.laneUncorrectable i 2 (fails.map (fun p => p.1)) none
      else s.finish i (fun k => offs.foldl (fun k (l, o) => k.setLoaded i.w l (readLe u.ls o n)) k))
def execDhLsLoad (c : BitVec 7) (g : BitVec 6) (bad : List Nat) (s : State) : Host.Outcome State Fault Refusal :=
  .next (stepDhLsLoad c g bad s)

/-- DH_LS_STORE: lanes store in ascending order; a write of less than a codeword into a failing one is an uncorrectable-data fault
(R160, R168, R169, R249). -/
def stepDhLsStore (c : BitVec 7) (g : BitVec 6) (bad : List Nat) (s : State) : State :=
  s.laneStep c.toNat g.toNat (· == .lsStore) (fun s i =>
    let gr := s.group i.c i.g
    let n := (storeForm i.w).1
    let offs := i.lanes.map (fun l => (l, gr.laneVA l (iRs1 i.w) (iImmS i.w)))
    match s.lsCheck i n offs with
    | some s => s
    | none =>
      let s := s.markBad i.c (touchedBad bad n offs)
      let fails := offs.filter (fun p => (s.cluster i.c).lsFails [] p.2 n)
      if fails ≠ [] then s.laneUncorrectable i 3 (fails.map (fun p => p.1)) none
      else (s.modCluster i.c (fun u =>
        { u with ls := offs.foldl (fun t (l, o) => writeLe t o n (gr.storeValue i.w l)) u.ls })).finish i id)
def execDhLsStore (c : BitVec 7) (g : BitVec 6) (bad : List Nat) (s : State) : Host.Outcome State Fault Refusal :=
  .next (stepDhLsStore c g bad s)

/-! ### Deadhead and fences -/

/-- DH_DEADHEAD: each line that a lane names is dropped once, here and by one Dead message at its home (R172, R240). -/
def stepDhDeadhead (c : BitVec 7) (g : BitVec 6) (s : State) : State :=
  s.laneStep c.toNat g.toNat (· == .deadhead) (fun s i =>
    let gr := s.group i.c i.g
    let vas := i.lanes.map (fun l => (l, (gr.getX l (iRs1 i.w)).toNat))
    match s.resolve i .atomic 1 true vas with
    | .stop s => s
    | .go ts =>
      if s.unassigned ts ≠ [] then s.refuseLanes i (s.unassigned ts) else
      let lines := ts.foldl (fun acc (l, va, t) => match t with
        | .local_ pa => if acc.any (fun (_, _, p) => lineOf p == lineOf pa) then acc else acc ++ [(l, va, pa / 2048 * 2048)]
        | _ => acc) ([] : List (Nat × Nat × Nat))
      let s := lines.foldl (fun s (_, _, pa) =>
        (s.dropLine i.c pa).request
          { vc := 0, op := 5, src := BitVec.ofNat 12 i.c, tag := 0, ctx := i.k.ctx, gen := i.k.gen, pa := BitVec.ofNat 48 pa }
          (.laneDead (BitVec.ofNat 6 i.g))) (s.touchAll i vas)
      s.setOut i { (i.acc .dead) with wait := lines.map (fun (l, va, pa) =>
        (BitVec.ofNat 5 l, BitVec.ofNat 48 va, BitVec.ofNat 48 pa)) })
def execDhDeadhead (c : BitVec 7) (g : BitVec 6) (s : State) : Host.Outcome State Fault Refusal := .next (stepDhDeadhead c g s)

/-- DH_FENCE: an acquire (SR or SW) of device or system scope drops the clean lines of the cluster cache; every other order holds
already when the entry issues (R173, R197, R198, log 13). -/
def stepDhFence (c : BitVec 7) (g : BitVec 6) (s : State) : State :=
  s.laneStep c.toNat g.toNat (· == .dhFence) (fun s i =>
    let s := s.finish i id
    if fld i.w 25 24 ≠ 0 ∧ 2 ≤ fld i.w 21 20 then s.acquireClean i.c else s)
def execDhFence (c : BitVec 7) (g : BitVec 6) (s : State) : Host.Outcome State Fault Refusal := .next (stepDhFence c g s)

/-! ### Atomics and locks -/

/-- The new word of an atomic operation of `n` bytes on the old word m, with operand and compare value (R177, R179). -/
def amoNew (aop n m operand compare : Nat) : Nat :=
  let w := 8 * n
  let pick := fun (b : Bool) => if b then m else operand
  match aop with
  | 0x0 => operand
  | 0x1 => (m + operand) % 2 ^ w
  | 0x2 => m &&& operand
  | 0x3 => m ||| operand
  | 0x4 => m ^^^ operand
  | 0x5 => pick (decide (sint w m ≤ sint w operand))
  | 0x6 => pick (decide (sint w operand ≤ sint w m))
  | 0x7 => pick (decide (m ≤ operand))
  | 0x8 => pick (decide (operand ≤ m))
  | 0x9 => if m = compare then operand else m
  | 0xA => fp32Add m operand
  | 0xB => fp32.enc ((fp32.decode m).minOf (fp32.decode operand))
  | 0xC => fp32.enc ((fp32.decode m).maxOf (fp32.decode operand))
  | 0xD => if m = 0 then operand else m
  | 0xE => if m = 0 then operand else m
  | _ => 0

/-- The tag a lane writes into a lock word (R141). -/
def lockTag (c g l : Nat) : Nat := (c * 64 + g) * 32 + l + 1

/-- Operand and compare value of a lane's atomic: rs2 and the old rd, or the tag of an acquire (R177, R178). -/
def Group.amoOperands (k : Group) (w : BitVec 32) (c g l n : Nat) : Nat × Nat :=
  let aop := fld w 31 27
  (if aop = 0xD ∨ aop = 0xE then lockTag c g l else (k.getX l (iRs2 w)).toNat % 2 ^ (8 * n),
   (k.getX l (iRd w)).toNat % 2 ^ (8 * n))

/-- What rd receives: the old word, sign-extended from 32 bits; for dh.acq 1 on success and 0 on failure (R177, R178). -/
def amoRd (aop n m : Nat) : Word :=
  if aop = 0xD then (if m = 0 then 1 else 0)
  else if n = 4 then sext32 m else BitVec.ofNat 64 m

/-- Whether another entry of the group is ready. -/
def Group.otherReady (k : Group) (pc : BitVec 48) : Bool := k.stack.any (fun e => e.pc != pc && e.st == .ready)

/-- The livelock count of a failed or successful dh.acq (R143): an execution in which no lane acquires counts while the stack holds another
ready entry; the count resets when a lane acquires (and when the stack holds one entry, as `Group.settleAcq` says). -/
def Group.countAcq (k : Group) (e : Entry) (won : Bool) : Group :=
  if won || decide (k.stack.length ≤ 1) then { k with acqFails := 0 }
  else if k.otherReady e.pc then
    let n := min 65536 (k.acqFails.toNat + 1)
    let k := { k with acqFails := BitVec.ofNat 17 n, livelock := k.livelock || decide (n = 65536) }
    k.modEntry e.pc (fun x => { x with issued := true })
  else k

/-- Whether an atomic wakes yielded entries as it issues (R142, log 71). -/
def wakesYielded (aop : Nat) : Bool := aop != 0xD && aop != 0xE

/-- An atomic issues: every other yielded entry of the group becomes ready (R142). -/
def State.wakeOthers (s : State) (i : LC) : State :=
  if wakesYielded (fld i.w 31 27) then s.modGroup i.c i.g (fun k => k.wake i.e.pc) else s

/-- End an atomic of an entry once the old words of all its lanes are known: rd, the split of dh.spinacq (R141), and the acquire of a
successful lock on a memory word (R199). -/
def State.endAtomic (s : State) (i : LC) (olds : Tbl Word) : State :=
  let aop := fld i.w 31 27
  let n := if bit i.w 25 then 8 else 4
  let won := fun l => (tget 0 olds l).toNat == 0
  let winners := i.lanes.filter won
  let s := s.modGroup i.c i.g (fun k =>
    if aop = 0xE then
      let w := maskOf winners
      let t := (k.retire w).moveLanes i.e [(i.e.pc + 4, w), (i.e.pc, i.e.mask &&& ~~~w)]
      if k.joined i.e = 0 then t.modEntry i.e.pc (fun e => { e with st := .yielded }) else t
    else
      let k := i.lanes.foldl (fun k l => k.setX l (iRd i.w) (amoRd aop n (tget 0 olds l).toNat)) k
      let k := if aop = 0xD then k.countAcq i.e (winners != []) else k
      (k.retire i.e.mask).moveLanes (if aop = 0xD then { i.e with issued := k.acqFails != 0 } else i.e) [(i.e.pc + 4, i.e.mask)])
  if (aop = 0xD ∨ aop = 0xE) ∧ winners ≠ [] ∧ bit i.w 26 = false then s.acquireClean i.c else s

/-- An atomic or lock (R176-R180): at the local store at once, in ascending lane order; at the Quire by one Atomic message per lane,
after the line's dirty bytes have gone (R190). `bad` local-store codewords are those already marked. -/
def State.laneAtomicOp (s : State) (i : LC) : State :=
  let gr := s.group i.c i.g
  let aop := fld i.w 31 27
  let n := if bit i.w 25 then 8 else 4
  let vas := i.lanes.map (fun l => (l, (gr.getX l (iRs1 i.w)).toNat))
  if bit i.w 26 then
    match s.lsCheck i n vas with
    | some s => s
    | none =>
      let fails := vas.filter (fun p => (s.cluster i.c).lsFails [] p.2 n)
      if fails ≠ [] then s.laneUncorrectable i 3 (fails.map (fun p => p.1)) none
      else
        let (mem, olds) := vas.foldl (fun (t, o) (l, a) =>
          let m := readLe t a n
          let ops := gr.amoOperands i.w i.c i.g l n
          (writeLe t a n (amoNew aop n m ops.1 ops.2), tins o l (BitVec.ofNat 64 m))) ((s.cluster i.c).ls, ([] : Tbl Word))
        ((s.modCluster i.c (fun u => { u with ls := mem })).wakeOthers i).endAtomic i olds
  else
    match s.resolve i .atomic n true vas with
    | .stop s => s
    | .go ts =>
      if s.unassigned ts ≠ [] then s.refuseLanes i (s.unassigned ts)
      else if ts.any (fun (_, _, t) => match t with | .local_ pa => (s.cluster i.c).mixedLine pa | _ => false) then s else
      let s := ts.foldl (fun s (l, _, t) => match t with
        | .local_ pa =>
          let ops := gr.amoOperands i.w i.c i.g l n
          (s.flushLine i.c i.k pa).request
            { vc := 0, op := 4, src := BitVec.ofNat 12 i.c, tag := 0, ctx := i.k.ctx, gen := i.k.gen,
              attr := BitVec.ofNat 12 (put aop 5 7 + putb (n == 8) 6), pa := BitVec.ofNat 48 pa,
              ctl := BitVec.ofNat 128 (put ops.1 64 0 + put ops.2 64 64) }
            (.laneAtomic (BitVec.ofNat 6 i.g) (BitVec.ofNat 5 l))
        | _ => s) (s.touchAll i vas)
      (s.wakeOthers i).setOut i { (i.acc .atomic) with wait := ts.map (fun (l, va, t) =>
        (BitVec.ofNat 5 l, BitVec.ofNat 48 va, match t with | .local_ pa => BitVec.ofNat 48 pa | _ => 0)) }

/-- Run an atomic row by its AOp. -/
def State.amoStep (s : State) (c : BitVec 7) (g : BitVec 6) (aop : Nat) : State :=
  s.laneStep c.toNat g.toNat (· == .amo aop) (fun s i => s.laneAtomicOp i)

/-- DH_AMOSWAP (R176-R178, R180). -/
def execDhAmoswap (c : BitVec 7) (g : BitVec 6) (s : State) : Host.Outcome State Fault Refusal := .next (s.amoStep c g 0)

/-- DH_AMOADD (R176-R178, R180). -/
def execDhAmoadd (c : BitVec 7) (g : BitVec 6) (s : State) : Host.Outcome State Fault Refusal := .next (s.amoStep c g 1)

/-- DH_AMOAND (R176-R178, R180). -/
def execDhAmoand (c : BitVec 7) (g : BitVec 6) (s : State) : Host.Outcome State Fault Refusal := .next (s.amoStep c g 2)

/-- DH_AMOOR (R176-R178, R180). -/
def execDhAmoor (c : BitVec 7) (g : BitVec 6) (s : State) : Host.Outcome State Fault Refusal := .next (s.amoStep c g 3)

/-- DH_AMOXOR (R176-R178, R180). -/
def execDhAmoxor (c : BitVec 7) (g : BitVec 6) (s : State) : Host.Outcome State Fault Refusal := .next (s.amoStep c g 4)

/-- DH_AMOMIN (R176-R178, R180). -/
def execDhAmomin (c : BitVec 7) (g : BitVec 6) (s : State) : Host.Outcome State Fault Refusal := .next (s.amoStep c g 5)

/-- DH_AMOMAX (R176-R178, R180). -/
def execDhAmomax (c : BitVec 7) (g : BitVec 6) (s : State) : Host.Outcome State Fault Refusal := .next (s.amoStep c g 6)

/-- DH_AMOMINU (R176-R178, R180). -/
def execDhAmominu (c : BitVec 7) (g : BitVec 6) (s : State) : Host.Outcome State Fault Refusal := .next (s.amoStep c g 7)

/-- DH_AMOMAXU (R176-R178, R180). -/
def execDhAmomaxu (c : BitVec 7) (g : BitVec 6) (s : State) : Host.Outcome State Fault Refusal := .next (s.amoStep c g 8)

/-- DH_AMOCAS (R176-R178, R180). -/
def execDhAmocas (c : BitVec 7) (g : BitVec 6) (s : State) : Host.Outcome State Fault Refusal := .next (s.amoStep c g 9)

/-- DH_FAMOADD_S (R176-R178, R180). -/
def execDhFamoaddS (c : BitVec 7) (g : BitVec 6) (s : State) : Host.Outcome State Fault Refusal := .next (s.amoStep c g 0x0A)

/-- DH_FAMOMIN_S (R176-R178, R180). -/
def execDhFamominS (c : BitVec 7) (g : BitVec 6) (s : State) : Host.Outcome State Fault Refusal := .next (s.amoStep c g 0x0B)

/-- DH_FAMOMAX_S (R176-R178, R180). -/
def execDhFamomaxS (c : BitVec 7) (g : BitVec 6) (s : State) : Host.Outcome State Fault Refusal := .next (s.amoStep c g 0x0C)

/-- DH_ACQ (R176-R178, R180). -/
def execDhAcq (c : BitVec 7) (g : BitVec 6) (s : State) : Host.Outcome State Fault Refusal := .next (s.amoStep c g 0x0D)

/-- DH_SPINACQ (R176-R178, R180). -/
def execDhSpinacq (c : BitVec 7) (g : BitVec 6) (s : State) : Host.Outcome State Fault Refusal := .next (s.amoStep c g 0x0E)

/-- DH_REL (R176-R178, R180). -/
def execDhRel (c : BitVec 7) (g : BitVec 6) (s : State) : Host.Outcome State Fault Refusal := .next (s.amoStep c g 0x0F)

end Sys2Proof.Machine
end

