-- ==== Sys2Proof/Machine/Front.lean ====
section
/-!
DEFINITION. Entries of the hardware queues (R312-R319): their fields and validity (R316, R231, R318), which entry of a queue may start, and
the frame in which every admin command runs (R313, R331).
-/

namespace Sys2Proof.Machine

/-! ### Entries (R315, R316) -/

namespace Ent
def stamp (e : BitVec 512) : Nat := fld e 511 496
def op (e : BitVec 512) : Nat := fld e 495 488
def rep (e : BitVec 512) : Bool := bit e 487
def notify (e : BitVec 512) : Bool := bit e 486
-- kernel launch
def pc (e : BitVec 512) : Nat := fld e 479 432
def arg (e : BitVec 512) : Nat := fld e 431 384
def groupCfg (e : BitVec 512) : Nat := fld e 383 320
def sideCfg (e : BitVec 512) : Nat := fld e 319 304
-- copy
def src (e : BitVec 512) : Nat := fld e 479 432
def dst (e : BitVec 512) : Nat := fld e 431 384
def length (e : BitVec 512) : Nat := fld e 383 344
def xfer (e : BitVec 512) : Nat := fld e 343 312
def kind (e : BitVec 512) : Nat := fld e 311 310
def rop (e : BitVec 512) : Nat := fld e 309 306
def fmt (e : BitVec 512) : Nat := fld e 305 302
def redId (e : BitVec 512) : Nat := fld e 301 270
def ordinal (e : BitVec 512) : Nat := fld e 269 246
def count (e : BitVec 512) : Nat := fld e 245 222
-- fence wait
def target (e : BitVec 512) : Nat := fld e 479 466
def value (e : BitVec 512) : Nat := fld e 465 402
-- admin commands
def ctx (e : BitVec 512) : Nat := fld e 479 468
def queue (e : BitVec 512) : Nat := fld e 479 466
def cluster (e : BitVec 512) : Nat := fld e 467 461
def group (e : BitVec 512) : Nat := fld e 460 455
end Ent

/-- Lowest payload bit that an Op's table uses: every bit below it is Rsvd (R316).  A table that names no Rsvd bits gives none. -/
def rsvdBelow (op : Nat) : Option Nat :=
  match op with
  | 0x01 => some 290 | 0x02 => some 222 | 0x03 => some 402 | 0x04 => some 480
  | 0x40 => some 380 | 0x43 => some 324
  | 0x50 => some 271 | 0x51 => some 480 | 0x52 => some 375 | 0x53 => some 397 | 0x54 => some 416
  | 0x58 => some 410 | 0x59 => some 308 | 0x5A => some 476
  | 0x60 => some 406 | 0x61 => some 479 | 0x64 => some 245 | 0x68 => some 175 | 0x69 => some 96
  | 0x41 => some 0 | 0x42 => some 0 | 0x44 => some 0 | 0x45 => some 0 | 0x46 => some 0 | 0x47 => some 0 | 0x48 => some 0
  | 0x49 => some 0 | 0x4A => some 0 | 0x4B => some 0 | 0x4C => some 0 | 0x4D => some 0 | 0x4E => some 0 | 0x4F => some 0
  | _ => none

/-- Whether a queue type accepts a listed Op (R312, R316). -/
def typeTakes (type op : Nat) : Bool :=
  match type with
  | 0 => op == 4 || decide (0x40 ≤ op)
  | 1 => op == 1 || op == 3 || op == 4
  | 2 => op == 1 || op == 3 || op == 4
  | _ => op == 2 || op == 3 || op == 4

/-- Reduction control unit of a RedOrd (R231): Fmt, ROp, Ordinal, Count. -/
def redOrdOk (fmt rop ordinal count : Nat) : Bool :=
  (fmt == 4 || fmt == 5 || fmt == 6 || fmt == 7 || fmt == 9) && decide (1 ≤ rop ∧ rop ≤ 3) && (fmt != 9 || rop == 1) &&
  decide (1 ≤ count ∧ ordinal < count)

/-- Reduction control unit of a RedInt (R231). -/
def redIntOk (fmt rop redId ordinal count : Nat) : Bool :=
  (fmt == 8 || fmt == 0xB) && decide (1 ≤ rop ∧ rop ≤ 6) && redId == 0 && ordinal == 0 && count == 0

/-- Field checks of a copy entry (R316, R318). -/
def copyOk (e : BitVec 512) : Bool :=
  let zero := Ent.redId e == 0 && Ent.ordinal e == 0 && Ent.count e == 0
  let aligned := Ent.src e % 128 == 0 && Ent.dst e % 128 == 0 && Ent.length e % 128 == 0
  decide (1 ≤ Ent.length e) &&
  (match Ent.kind e with
   | 0 => Ent.rop e == 0 && Ent.fmt e == 0 && zero
   | 1 => aligned && redIntOk (Ent.fmt e) (Ent.rop e) (Ent.redId e) (Ent.ordinal e) (Ent.count e)
   | 2 => aligned && redOrdOk (Ent.fmt e) (Ent.rop e) (Ent.ordinal e) (Ent.count e)
   | _ => false)

/-- Whether an entry of a queue is valid under R316 and R329; the fields of admin commands are checked by the commands (R331). -/
def State.entryValid (s : State) (q : Nat) (e : BitVec 512) : Bool :=
  let k := s.queue q
  let op := Ent.op e
  match rsvdBelow op with
  | none => false
  | some n =>
    typeTakes k.type op && fld e 485 480 == 0 && e.toNat % 2 ^ n == 0 && (!Ent.rep e || op == 1) &&
    (op != 2 || copyOk e) &&
    (op != 3 || (let t := s.queue (Ent.target e); t.st != 0 && t.ctx == k.ctx && t.type != 0))

/-! ### Running an entry (R313) -/

/-- The fetched entry of a queue that may start now: the one before it has completed, the queue is not stopped and its context is not being
reset (R313, R340). -/
def State.readyEntry (s : State) (q : Nat) : Option (BitVec 512) :=
  let k := s.queue q
  if k.running.isSome || k.st == 0 || k.st == 6 || k.st == 7 || (s.ctx k.ctx).resetting || s.refuseWork && decide (2 ≤ q) then none
  else k.fetched.head?

/-- The first fetched entry becomes the running one (R314). -/
def State.beginEntry (s : State) (q : Nat) (e : BitVec 512) : State :=
  s.modQueue q (fun k => { k with fetched := k.fetched.drop 1, running := some e, dispatched := false, started := false }.settle)

/-- Whether queue 0 takes only Host attach now (R352). -/
def State.attachOnly (s : State) (q : Nat) (e : BitVec 512) : Bool := q == 0 && s.host.attach != 2 && Ent.op e != 0x50

/-- Start the first fetched entry of a queue where it is a valid one of an Op; queue 0 without a host rejects it (R352). -/
def State.runEntry (s : State) (q op : Nat) (f : State → BitVec 512 → State) : State :=
  match s.readyEntry q with
  | none => s
  | some e =>
    if Ent.op e ≠ op then s
    else if s.attachOnly q e then (s.beginEntry q e).complete q 8 2
    else if s.entryValid q e then f (s.beginEntry q e) e else s

/-- Whether the command of an Op that is ready at an admin queue reads memory of context 0 whose sector is under ordered reduction: it waits
(R238, log 15). -/
def State.adminTracked (s : State) (aq : Bool) (op : Nat) (va n : BitVec 512 → Nat) : Bool :=
  match s.readyEntry (if aq then 1 else 0) with
  | some e => Ent.op e == op && s.tracksVA 0 (va e) (n e)
  | none => false

/-- Run the admin command of an Op at the head of an admin queue: the unit runs one at a time, and takes the queues alternately where
both have one ready (R313). -/
def State.admin (s : State) (aq : Bool) (op : Nat) (f : State → Nat → BitVec 512 → State) : State :=
  let q := if aq then 1 else 0
  let o := 1 - q
  if (s.queue o).running.isSome || ((s.readyEntry o).isSome && s.adminLast == aq) then s
  else s.runEntry q op (fun s e => f { s with adminLast := aq } q e)

/-- The admin command is rejected: status 0x08 with its Info; it has no effect (R331). -/
def State.reject (s : State) (q info : Nat) : State := s.complete q 8 info

/-- The effect of the admin command is complete. -/
def State.adminDone (s : State) (q : Nat) (info : Nat := 0) : State := s.complete q 0 info

/-- A request of an admin buffer: write bytes to device memory of context 0 or to the host (R331, R349). -/
def State.writeBuf (s : State) (host : Bool) (addr : Nat) (bs : List Byte) : State :=
  if host then s.hostSendAll (BitVec.ofNat 64 addr) bs else s.writeVA 0 addr bs

end Sys2Proof.Machine
end

