-- ==== Sys2Proof/Machine/Copy.lean ====
section
/-!
DEFINITION. Copy transfers (R298, R300, R306, R318): their pieces, where both sides of one lie, how an engine goes on, and how a transfer
begins and ends.
-/

namespace Sys2Proof.Machine

def engineSrc (e : Nat) : Nat := 0x200 + e

/-- Context of the transfer that an engine has. -/
def State.engineCtx (s : State) (e : Nat) : Option Nat := (s.engine e).queue.map (fun q => (s.queue q.toNat).ctx)

/-- Whether an engine waits for an answer. -/
def State.engineBusy (s : State) (e : Nat) : Bool :=
  s.sh.reqs.any (fun r => r.msg.src.toNat == engineSrc e &&
    (match r.why with | .copyRead _ => true | .copyWrite _ => true | _ => false)) ||
  s.fabric.winReqs.any (fun r => r.engine.toNat == e)

/-- Direction of an engine's write side (R301). -/
def copyDir (ent : BitVec 512) : Nat := if Ent.kind ent = 0 then 1 else 2

/-- The status that marks a transfer told to end by a reset of its context: it ends with no completion record of its own (R340). -/
def endsByReset : BitVec 8 := 0xFE

/-- A transfer stops (R300): its fault record waits to be written; one that a reset ends leaves none (R340 step 4). -/
def State.copyStop (s : State) (e kind dir : Nat) (resumable : Bool) (reason level va : Nat) : State :=
  let k := s.engine e
  let x := (k.queue.map (fun q => (s.queue q.toNat).ctx)).getD 0
  let r := faultRecord kind dir resumable e x (s.genOf x) level 0 0 reason va k.done.toNat (Ent.xfer k.entry) s.time32
  let s := if k.halt = some endsByReset then s.modEngine e (fun k => { k with stopped := true })
    else s.modEngine e (fun k => { k with stopped := true, record := r, recordWaits := true })
  s.clearFails (engineSrc e)

/-- A failed translation of a copy engine: a page fault, or a protection failure (R298, R300). -/
def State.copyXFail (s : State) (e dir : Nat) (f : XFail) (va : Nat) : State :=
  let pf := f.reason == 1
  s.copyStop e (if pf then 1 else 2) dir pf f.reason f.level va

/-- The check of R298 for a copy engine, and of R306 and R354 for its remote side: none where allowed. -/
def copyCheck (t : TlbEnt) (va : Nat) (write red : Bool) : Option Nat :=
  if (if write then !t.w else !t.r) then some 3
  else if !t.remote then none
  else if fld t.slot 126 103 = 0xFFFFFF ∧ !(write && !red) then some 3
  else if fld t.slot 90 63 * 4096 ≤ t.addr va then some 5 else none

/-- Bytes of the next piece: within one sector of the source and of the destination, and up to the next 256-byte boundary. -/
def pieceLen (ent : BitVec 512) (done : Nat) : Nat :=
  min (min (128 - (Ent.src ent + done) % 128) (128 - (Ent.dst ent + done) % 128))
    (min (256 - done % 256) (Ent.length ent - done))

/-- Lowest free Etmos tag of this module's window requests; 0 marks a write (R370). -/
def State.freeWinTag (s : State) : Nat := let u := s.fabric.winReqs.map (fun r => r.tag.toNat); firstFree u.length 1 u

/-- The reduction control unit of a transfer (R231). -/
def redUnit (ent : BitVec 512) : BitVec 128 :=
  BitVec.ofNat 128 (put (Ent.redId ent) 32 96 + put (Ent.ordinal ent) 24 72 + put (Ent.count ent) 24 48 +
    put (Ent.fmt ent) 4 44 + put (Ent.rop ent) 4 40)

/-- Where a side of the next piece lies: a local or remote address under a look-aside entry, a walk to wait for, or a stop. -/
inductive CopySide where
  | at_ (t : TlbEnt) (a : Nat)
  | wait
  | stop (s : State)

def State.copySide (s : State) (e x va : Nat) (write : Bool) (ent : BitVec 512) : CopySide :=
  match s.look (engineSrc e) x va with
  | .fail f => .stop (s.copyXFail e (if write then copyDir ent else 0) f va)
  | .miss => .wait
  | .hit t => match copyCheck t va write (Ent.kind ent != 0) with
    | some r => .stop ((s.tlbTouch (engineSrc e) t).copyStop e 2 (if write then copyDir ent else 0) false r t.level va)
    | none => .at_ t (t.addr va)

/-- Send a window request of an engine (R305, R306, R370, R371). -/
def State.askWindow (s : State) (e x : Nat) (t : TlbEnt) (off va n : Nat) (op dir : Nat) (units : List (BitVec 128)) : State :=
  let tag := s.freeWinTag
  let node := fld t.slot 126 103
  let win := fld t.slot 102 91
  let r : WinReq := { ctx := BitVec.ofNat 12 x, gen := BitVec.ofNat 4 (s.genOf x), tag := BitVec.ofNat 16 tag, engine := BitVec.ofNat 6 e, node := BitVec.ofNat 24 node,
                      win := BitVec.ofNat 12 win, off := off, n := n, dir := BitVec.ofNat 2 dir, va := BitVec.ofNat 48 va }
  (s.modFabric (fun f => { f with winReqs := f.winReqs ++ [r] })).sendEtmos
    { vc := 0, len := BitVec.ofNat 6 (3 + units.length), op := BitVec.ofNat 8 op, dst := r.node, src := 0,
      units := accessUnit win off n x (s.genOf x) tag 0 :: units }

/-- The piece that an engine has read goes to its destination; a posted write through a slot is performed once it has left (R200). -/
def State.copyPut (s : State) (e x : Nat) (k : CopyEngine) (t : TlbEnt) (a va : Nat) : State × Bool :=
  let n := k.held.length
  let red := Ent.kind k.entry != 0
  let op := if Ent.kind k.entry = 1 then 2 else 1
  if t.remote then
    if red then (s.askWindow e x t a va n (if op = 2 then 3 else 4) 2 (redUnit k.entry :: dataUnits k.held), false)
    else (s.slotWrite x (s.genOf x) t.slot va a k.held (Ent.xfer k.entry), true)
  else
    let d : Sector := BitVec.ofNat 1024 (leNat k.held <<< (8 * (a % 128)))
    let m : MemMsg := { vc := 0, op := if n = 128 then 2 else 3, src := BitVec.ofNat 12 (engineSrc e), tag := 0,
                        ctx := BitVec.ofNat 12 x, gen := BitVec.ofNat 4 (s.genOf x), pa := BitVec.ofNat 48 (sectorBase a),
                        ctl := if n = 128 then 0 else byteMask a n, data := d }
    let m := if red then { m with vc := 3, op := BitVec.ofNat 8 op, ctl := redUnit k.entry } else m
    (s.request m (.copyWrite n), false)

/-- Whether an engine's transfer has been told to stop and stands at a 256-byte boundary or is stopped. -/
def CopyEngine.halted (k : CopyEngine) : Bool := k.halt.isSome && (k.stopped || (k.done.toNat % 256 == 0 && k.held == []))

/-- Go on with an engine's transfer until it waits, stops or has moved its last byte (fuel: pieces that need no answer).  Both sides are
translated before a piece is read, so that no byte beyond a page that fails is moved (R300). -/
def State.copyGoN : Nat → State → Nat → State
  | 0, s, _ => s
  | f + 1, s, e =>
    let k := s.engine e
    match k.queue with
    | none => s
    | some q =>
      let x := (s.queue q.toNat).ctx
      let done := k.done.toNat
      if k.stopped || k.ends.isSome || k.halted || s.engineBusy e || decide (Ent.length k.entry ≤ done) then s
      else
        let sva := Ent.src k.entry + done
        let dva := Ent.dst k.entry + done
        let src := s.copySide e x sva false k.entry
        let dst := s.copySide e x dva true k.entry
        let walk := fun (s : State) (r : CopySide) (va : Nat) => match r with | .wait => s.startWalk (engineSrc e) x va | _ => s
        match (if k.held = [] then src else .wait), dst with
        | .stop s, _ => s
        | .at_ _ _, .stop s => s
        | .wait, .stop s1 => if k.held = [] then s.startWalk (engineSrc e) x sva else s1
        | .at_ t a, .at_ _ _ =>
          let n := pieceLen k.entry done
          let s := s.tlbTouch (engineSrc e) t
          if t.remote then s.askWindow e x t a sva n 2 0 []
          else s.request { vc := 0, op := 1, src := BitVec.ofNat 12 (engineSrc e), tag := 0, ctx := BitVec.ofNat 12 x, hint := 2,
                           gen := BitVec.ofNat 4 (s.genOf x), pa := BitVec.ofNat 48 (sectorBase a) } (.copyRead n)
        | .wait, .at_ t a =>
          if k.held = [] then s.startWalk (engineSrc e) x sva
          else
            match (s.tlbTouch (engineSrc e) t).copyPut e x k t a dva with
            | (s, true) =>
              State.copyGoN f (s.modEngine e (fun k => { k with done := k.done + BitVec.ofNat 40 k.held.length, held := [] })) e
            | (s, false) => s
        | _, .wait => walk (if k.held = [] then walk s src sva else s) dst dva

/-- Begin the transfer at the head of an engine's list (R318). -/
def State.copyBegin (s : State) (e : Nat) : State :=
  let k := s.engine e
  match k.queue, k.todo with
  | none, q :: rest =>
    if k.recordWaits then s else
    match (s.queue q.toNat).running with
    | none => s.modEngine e (fun k => { k with todo := rest })
    | some ent =>
      let held := fld (s.ctx (s.queue q.toNat).ctx).status 29 28 == 2
      State.copyGoN 4 (s.modEngine e (fun k =>
        { k with todo := rest, queue := some q, entry := ent, done := 0, held := [], ends := none, stopped := false,
                 rereads := 0, halt := if held then some 0xFF else none })) e
  | _, _ => s

/-- A transfer that a reset of its context ends is given up where it stands at a 256-byte boundary, has stopped or has moved its last byte, and
nothing of it is outstanding; the engine takes up its next (R318, R340 step 4). -/
def State.copyDrop (s : State) (e : Nat) : State :=
  let k := s.engine e
  if k.queue.isSome && k.halt == some endsByReset && !s.engineBusy e &&
     (k.halted || k.ends.isSome || decide (Ent.length k.entry ≤ k.done.toNat)) then
    ((s.modEngine e (fun k => { k with queue := none, stopped := false, halt := none, ends := none, held := [] })).clearFails
      (engineSrc e)).copyBegin e
  else s

/-- Go on with an engine's transfer (R300, R438): one piece at a time, in ascending order. -/
def State.copyGo (s : State) (e : Nat) : State := (State.copyGoN 4 s e).copyDrop e

/-- The answer of an engine's request is dropped for its generation (R341): a write or contribution that has been performed counts, any
other piece is done anew. -/
def State.copyStale (s : State) (e n : Nat) (performed : Bool) : State :=
  if performed then (s.modEngine e (fun k => { k with held := [], done := k.done + BitVec.ofNat 40 n })).copyGo e else s.copyGo e

/-- Bytes that an engine has read arrive and go on to the destination. -/
def State.copyGot (s : State) (e : Nat) (bs : List Byte) : State :=
  (s.modEngine e (fun k => { k with held := bs, rereads := 0 })).copyGo e

/-- A write or contribution of an engine has been performed. -/
def State.copyPerformed (s : State) (e n : Nat) : State :=
  (s.modEngine e (fun k => { k with held := [], done := k.done + BitVec.ofNat 40 n })).copyGo e

/-- A transfer ends: its entry completes with a status, and the engine takes up the next (R313, R319). -/
def State.copyEnd (s : State) (e status : Nat) : State :=
  let k := s.engine e
  match k.queue with
  | none => s
  | some q =>
    (((s.modEngine e (fun k => { k with queue := none, stopped := false, halt := none, ends := none, held := [] })).clearFails
      (engineSrc e)).complete q.toNat status (Ent.xfer k.entry)).copyBegin e

end Sys2Proof.Machine
end

