-- ==== Sys2Proof/Machine/Reset.lean ====
section
/-!
DEFINITION. Context error and reset (R338-R341).
-/

namespace Sys2Proof.Machine

/-- Whether an answer is outstanding under the generation a context would adopt next (R341). -/
def State.genBusy (s : State) (x : Nat) : Bool :=
  s.sh.reqs.any (fun r => r.msg.ctx.toNat == x && r.msg.gen.toNat == (s.genOf x + 1) % 16) ||
  s.fabric.winReqs.any (fun r => r.ctx.toNat == x && r.gen.toNat == (s.genOf x + 1) % 16)

/-- A context's queues neither fetch nor start, and launch tokens not yet started leave the run lists (R340 step 1). -/
def State.stopFeeding (s : State) (x : Nat) : State :=
  let s := (s.queuesOf x).foldl (fun s q => s.modQueue q (fun k =>
    { k with inFetch := 0, stampAt := none, resetTail := some (BitVec.ofNat 16 k.tail) })) s
  let mine := fun (q : BitVec 14) => (s.queue q.toNat).ctx == x
  { s with holding := s.holding.filter (fun q => !mine q), walkPending := s.walkPending.filter (fun q => !mine q),
           engines := tmap {} s.engines (fun _ e => { e with todo := e.todo.filter (fun q => !mine q) }),
           clusters := tmap {} s.clusters (fun _ u => u.dropTokens (fun t => t.ctx.toNat == x)) }

/-- A context's transfers are told to end: those that have stopped end at once (R340 step 4). -/
def State.endCopies (s : State) (x : Nat) : State :=
  let mine := fun (e : CopyEngine) => e.queue.any (fun q => (s.queue q.toNat).ctx == x)
  let s := { s with engines := tmap {} s.engines (fun _ e => if mine e then { e with halt := some endsByReset } else e) }
  (List.range 64).foldl (fun s e => s.copyDrop e) s

/-- The digest job of a context that runs ends with a record of status 4; those that wait go (R442). -/
def State.endDigests (s : State) (x : Nat) : State :=
  let running := s.digests.head?.any (fun (d : DigestJob) => fld d.cmd 479 468 == x)
  let s := if running then
      match s.digests.head? with
      | some d =>
        let lg := fld d.cmd 379 375
        let chunks := (fld d.cmd 419 380 + 2 ^ lg - 1) / 2 ^ lg
        let rcd := leBytes 64 (put 4 8 504 + put (fld d.cmd 277 246) 32 464 + put chunks 32 432)
        if bit d.cmd 245 then s.hostSend { addr := BitVec.ofNat 64 (fld d.cmd 374 327), bytes := rcd }
        else s.writeVA x (fld d.cmd 374 327) rcd
      | none => s
    else s
  { s with digests := s.digests.filter (fun d => fld d.cmd 479 468 != x) }

/-- The Quire closes a context's reduction trackers, as R239 sets out (R340 step 5). -/
def State.closeReductions (s : State) (x : Nat) : State :=
  [false, true].foldl (fun s h => State.lateWrites (h := h) <|
    let k := s.half h
    let mine := k.reds.filter (fun t => t.ctx.toNat == x)
    let out := k.staged.filter (fun m => mine.any (fun t => t.pa.toNat == m.pa.toNat))
    let s := out.foldl (fun s m => s.sendMem { vc := 1, op := 4, src := m.src, tag := m.tag, ctx := m.ctx, gen := m.gen,
                                               attr := 5, pa := m.pa }) s
    s.modHalf h (fun k =>
      let k := { k with reds := k.reds.filter (fun t => t.ctx.toNat != x),
                        staged := k.staged.filter (fun m => !mine.any (fun t => t.pa.toNat == m.pa.toNat)) }
      mine.foldl (fun k t =>
        match k.findWay (quireSet t.pa.toNat) (lineOf t.pa.toNat) with
        | some w => k.modWay (quireSet t.pa.toNat) w (fun l =>
            { l with busy := k.reds.any (fun u => lineOf u.pa.toNat == lineOf t.pa.toNat) })
        | none => k) k)) s

/-- Steps 2 to 5 of a context reset (R340). -/
def State.resetContext (s : State) (x : Nat) : State :=
  let s := (s.advanceGen x).withdraw (fun t => t.ctx.toNat == x)
  ((s.endCopies x).endDigests x).closeReductions x

/-- Begin a context reset (R340): step 1, and the steps after it as soon as no answer is outstanding under the generation to come (R341). -/
def State.beginReset (s : State) (x : Nat) : State :=
  let s := (s.modCtx x (fun k => { k with status := setF k.status 29 28 3, resetting := true })).stopFeeding x
  if s.genBusy x then s.modCtx x (fun k => { k with waitGen := true }) else s.resetContext x

/-- A context enters error for a cause of R332 (R338, R339). -/
def State.contextError (s : State) (x cause : Nat) : State :=
  let s := s.modCtx x (fun k => { k with status := setF k.status 35 32 cause })
  if x = 0 then s.stopContext0
  else if (s.ctx x).resetting then s
  else if bit (s.ctx x).status 5 then s.holdContext x
  else s.beginReset x

end Sys2Proof.Machine
end

