-- ==== Sys2Proof/Machine/LaneCtl.lean ====
section
/-!
DEFINITION. Votes and shuffles (R164, R165), waits for tickets and tokens (R167, R181-R185), exit and park (R137, R145, R186), the
parking, waking, livelock report and retirement of groups (R137, R142-R150), and the end of a kernel on a cluster (R137, R193).
-/

namespace Sys2Proof.Machine

/-! ### Votes and shuffles -/

/-- A group instruction: a result for each active lane from the values of rs1 and rs2 in all lanes. -/
def State.vote (s : State) (c : BitVec 7) (g : BitVec 6) (row : LaneRow) (f : LC → Group → Nat → Word) : State :=
  s.laneStep c.toNat g.toNat (· == row) (fun s i =>
    let k := s.group i.c i.g
    s.finish i (fun k' => k'.setAll i.lanes (iRd i.w) (fun l => f i k l)))

def LC.rs1 (i : LC) (k : Group) (l : Nat) : Word := k.getX l (iRs1 i.w)
def LC.rs2 (i : LC) (k : Group) (l : Nat) : Word := k.getX l (iRs2 i.w)

/-- DH_VANY (R164). -/
def execDhVany (c : BitVec 7) (g : BitVec 6) (s : State) : Host.Outcome State Fault Refusal :=
  .next (s.vote c g .vany (fun i k _ => if i.lanes.any (fun m => i.rs1 k m != 0) then 1 else 0))
/-- DH_VALL (R164). -/
def execDhVall (c : BitVec 7) (g : BitVec 6) (s : State) : Host.Outcome State Fault Refusal :=
  .next (s.vote c g .vall (fun i k _ => if i.lanes.all (fun m => i.rs1 k m != 0) then 1 else 0))
/-- DH_BALLOT (R164). -/
def execDhBallot (c : BitVec 7) (g : BitVec 6) (s : State) : Host.Outcome State Fault Refusal :=
  .next (s.vote c g .ballot (fun i k _ => (maskOf (i.lanes.filter (fun m => i.rs1 k m != 0))).zeroExtend 64))
/-- DH_ELECT (R164). -/
def execDhElect (c : BitVec 7) (g : BitVec 6) (s : State) : Host.Outcome State Fault Refusal :=
  .next (s.vote c g .elect (fun i _ l => if i.lanes.head? = some l then 1 else 0))
/-- DH_VSUM: modulo 2^64 (R164). -/
def execDhVsum (c : BitVec 7) (g : BitVec 6) (s : State) : Host.Outcome State Fault Refusal :=
  .next (s.vote c g .vsum (fun i k _ => i.lanes.foldl (fun a m => a + i.rs1 k m) 0))

/-- The extreme value over the active lanes, signed. -/
def extreme (isMax : Bool) (vs : List Word) : Word :=
  match vs with
  | [] => 0
  | v :: vs => vs.foldl (fun a x => if (if isMax then decide (a.toInt < x.toInt) else decide (x.toInt < a.toInt)) then x else a) v

/-- DH_VMIN: signed (R164). -/
def execDhVmin (c : BitVec 7) (g : BitVec 6) (s : State) : Host.Outcome State Fault Refusal :=
  .next (s.vote c g .vmin (fun i k _ => extreme false (i.lanes.map (i.rs1 k))))
/-- DH_VMAX: signed (R164). -/
def execDhVmax (c : BitVec 7) (g : BitVec 6) (s : State) : Host.Outcome State Fault Refusal :=
  .next (s.vote c g .vmax (fun i k _ => extreme true (i.lanes.map (i.rs1 k))))
/-- DH_VPREFIX: the sum over the active lanes below (R164). -/
def execDhVprefix (c : BitVec 7) (g : BitVec 6) (s : State) : Host.Outcome State Fault Refusal :=
  .next (s.vote c g .vprefix (fun i k l => (i.lanes.filter (fun m => decide (m < l))).foldl (fun a m => a + i.rs1 k m) 0))

/-- The value a shuffle gives lane l from source lane `src`: its own where the source is no active lane (R165). -/
def shuffled (i : LC) (k : Group) (l : Nat) (src : Int) : Word :=
  if 0 ≤ src ∧ src < 32 ∧ i.e.mask.getLsbD src.toNat then i.rs1 k src.toNat else i.rs1 k l

/-- DH_SHFL (R164, R165). -/
def execDhShfl (c : BitVec 7) (g : BitVec 6) (s : State) : Host.Outcome State Fault Refusal :=
  .next (s.vote c g .shfl (fun i k l => shuffled i k l ((i.rs2 k l).toNat % 32 : Nat)))
/-- DH_SHFL_XOR (R164, R165). -/
def execDhShflXor (c : BitVec 7) (g : BitVec 6) (s : State) : Host.Outcome State Fault Refusal :=
  .next (s.vote c g .shflXor (fun i k l => shuffled i k l ((l ^^^ ((i.rs2 k l).toNat % 32)) : Nat)))
/-- DH_SHFL_UP (R164, R165). -/
def execDhShflUp (c : BitVec 7) (g : BitVec 6) (s : State) : Host.Outcome State Fault Refusal :=
  .next (s.vote c g .shflUp (fun i k l => shuffled i k l ((l : Int) - ((i.rs2 k l).toNat % 32 : Nat))))
/-- DH_SHFL_DOWN (R164, R165). -/
def execDhShflDown (c : BitVec 7) (g : BitVec 6) (s : State) : Host.Outcome State Fault Refusal :=
  .next (s.vote c g .shflDown (fun i k l => shuffled i k l ((l : Int) + ((i.rs2 k l).toNat % 32 : Nat))))

/-! ### Waits -/

/-- Whether a Press ticket names an operation that has not completed, faulted or been cancelled (R167). -/
def Press.outstanding (p : Press) (t : BitVec 8) : Bool := p.ops.any (fun o => o.ticket == t)

/-- The same for the counter that streams, fills and flushes share (R167). -/
def StreamEngine.outstanding (e : StreamEngine) (t : BitVec 8) : Bool :=
  e.ops.any (fun o => o.ticket == t) || e.fills.any (fun o => o.ticket == t)

/-- Whether a token has reached a target (R185). -/
def tokenReached (count target : BitVec 16) : Bool := decide ((count - target).toNat < 32768)

/-- Whether what an entry waits for holds (R167, R185). -/
def Cluster.waitMet (k : Cluster) : WaitFor → Bool
  | .nothing => true
  | .press ts => ts.all (fun t => !k.press.outstanding t)
  | .stream ts => ts.all (fun t => !k.stream.outstanding t)
  | .tokens ts => ts.all (fun p => tokenReached (tget 0 k.tokens p.1.toNat) p.2)

/-- Entries whose wait has come to hold become ready and issue the wait again (R135). -/
def Cluster.rewait (k : Cluster) : Cluster :=
  { k with groups := tmap {} k.groups (fun _ gr => { gr with stack := gr.stack.map (fun e =>
      if e.st = .waiting ∧ k.waitMet e.wait then { e with st := .ready, wait := .nothing } else e) }) }

/-- Run a wait instruction: rd where it holds, else the entry waits (R135, R167). -/
def State.waitStep (s : State) (i : LC) (w : WaitFor) (rd : Nat → Word) : State :=
  if (s.cluster i.c).waitMet w then s.finish i (fun k => k.setAll i.lanes (iRd i.w) rd)
  else s.modGroup i.c i.g (fun k => k.modEntry i.e.pc (fun e => { e with st := .waiting, wait := w }))

/-- DH_TWAIT (R166, R167). -/
def stepDhTwait (c : BitVec 7) (g : BitVec 6) (s : State) : State :=
  s.laneStep c.toNat g.toNat (· == .twait) (fun s i =>
    let k := s.group i.c i.g
    let t := fun l => BitVec.ofNat 8 ((i.rs1 k l).toNat % 256)
    s.waitStep i (.press (i.lanes.map t)) (fun l => if tget false (s.cluster i.c).press.ended (t l).toNat then 1 else 0))
def execDhTwait (c : BitVec 7) (g : BitVec 6) (s : State) : Host.Outcome State Fault Refusal := .next (stepDhTwait c g s)

/-- DH_SWAIT (R166, R167). -/
def stepDhSwait (c : BitVec 7) (g : BitVec 6) (s : State) : State :=
  s.laneStep c.toNat g.toNat (· == .swait) (fun s i =>
    let k := s.group i.c i.g
    let t := fun l => BitVec.ofNat 8 ((i.rs1 k l).toNat % 256)
    s.waitStep i (.stream (i.lanes.map t)) (fun l => if tget false (s.cluster i.c).stream.ended (t l).toNat then 1 else 0))
def execDhSwait (c : BitVec 7) (g : BitVec 6) (s : State) : Host.Outcome State Fault Refusal := .next (stepDhSwait c g s)

/-! ### Tokens (R181-R185) -/

/-- Add to a token of a cluster, and wake the waits it satisfies. -/
def Cluster.addToken (k : Cluster) (t : Nat) (n : BitVec 16) : Cluster :=
  ({ k with tokens := tput 0 k.tokens t (tget 0 k.tokens t + n) } : Cluster).rewait

/-- Whether a logical cluster runs the kernel that another cluster's kernel is part of (R184, R326). -/
def State.sameKernel (s : State) (c : Nat) (k : Kernel) : Bool :=
  match (s.cluster c).kernel with
  | some t => (s.cluster c).started && t.queue == k.queue && t.id == k.id
  | none => false

/-- DH_TKSIG: the increments set out for their tokens; a cluster that does not run the kernel is a protection error for all lanes
(R183, R184). -/
def stepDhTksig (c : BitVec 7) (g : BitVec 6) (s : State) : State :=
  s.laneStep c.toNat g.toNat (· == .tksig) (fun s i =>
    let k := s.group i.c i.g
    let target := fun l => let a := i.rs1 k l; if bit a 13 then fld a 12 6 else i.c
    let bad := i.lanes.filter (fun l => !s.sameKernel (target l) i.k)
    if bad ≠ [] then s.fault i 6 0 bad
    else
      let s := i.lanes.foldl (fun s l => s.modCluster (target l) (fun u => { u with incoming := u.incoming ++
        [{ cluster := BitVec.ofNat 7 i.c, group := BitVec.ofNat 6 i.g, lane := BitVec.ofNat 5 l,
           token := BitVec.ofNat 6 (fld (i.rs1 k l) 5 0), amount := BitVec.ofNat 16 (fld (i.rs2 k l) 15 0) }] })) s
      s.finish i id)
def execDhTksig (c : BitVec 7) (g : BitVec 6) (s : State) : Host.Outcome State Fault Refusal := .next (stepDhTksig c g s)

/-- TOKEN_ARRIVAL: the i-th increment on its way to a cluster reaches its token; those of one lane arrive in issue order (R184). -/
def stepTokenArrival (c : BitVec 7) (i : Nat) (s : State) : State :=
  let k := s.cluster c.toNat
  match k.incoming[i]? with
  | none => s
  | some t =>
    if (k.incoming.take i).any (fun u => u.cluster == t.cluster && u.group == t.group && u.lane == t.lane) then s
    else s.modCluster c.toNat (fun u =>
      ({ u with incoming := u.incoming.eraseIdx i } : Cluster).addToken t.token.toNat t.amount)
def execTokenArrival (c : BitVec 7) (i : Nat) (s : State) : Host.Outcome State Fault Refusal := .next (stepTokenArrival c i s)

/-- DH_TKWAIT (R183, R185). -/
def stepDhTkwait (c : BitVec 7) (g : BitVec 6) (s : State) : State :=
  s.laneStep c.toNat g.toNat (· == .tkwait) (fun s i =>
    let k := s.group i.c i.g
    s.waitStep i (.tokens (i.lanes.map (fun l =>
      (BitVec.ofNat 6 (fld (i.rs1 k l) 5 0), BitVec.ofNat 16 (fld (i.rs2 k l) 15 0))))) (fun _ => 0))
def execDhTkwait (c : BitVec 7) (g : BitVec 6) (s : State) : Host.Outcome State Fault Refusal := .next (stepDhTkwait c g s)

/-- DH_TKREAD (R183). -/
def stepDhTkread (c : BitVec 7) (g : BitVec 6) (s : State) : State :=
  s.laneStep c.toNat g.toNat (· == .tkread) (fun s i =>
    let u := s.cluster i.c
    s.finish i (fun k => i.lanes.foldl (fun k l =>
      k.setX l (iRd i.w) ((tget 0 u.tokens (fld (k.getX l (iRs1 i.w)) 5 0)).zeroExtend 64)) k))
def execDhTkread (c : BitVec 7) (g : BitVec 6) (s : State) : Host.Outcome State Fault Refusal := .next (stepDhTkread c g s)

/-! ### Exit and park -/

/-- DH_EXIT: the active lanes leave their entry (R137). -/
def stepDhExit (c : BitVec 7) (g : BitVec 6) (s : State) : State :=
  s.laneStep c.toNat g.toNat (· == .exit) (fun s i =>
    s.modGroup i.c i.g (fun k => (k.retire i.e.mask).moveLanes i.e []))
def execDhExit (c : BitVec 7) (g : BitVec 6) (s : State) : Host.Outcome State Fault Refusal := .next (stepDhExit c g s)

/-- DH_PARK: the group parks at the next instruction (R145, R186). -/
def stepDhPark (c : BitVec 7) (g : BitVec 6) (s : State) : State :=
  s.laneStep c.toNat g.toNat (· == .park) (fun s i =>
    (s.finish i id).park i.c i.g { cause := 1, pc := i.e.pc + 4, notify := bit i.w 20 })
def execDhPark (c : BitVec 7) (g : BitVec 6) (s : State) : Host.Outcome State Fault Refusal := .next (stepDhPark c g s)

/-! ### Parking (R145-R150) -/

/-- Rank of a cause in the order of R148. -/
def parkRank (p : ParkCause) : Nat :=
  if p.cause = 8 then 0
  else if p.cause = 0x0B then 3
  else if p.cause = 1 then 4
  else if p.ticket.isSome then 2
  else 1

/-- The causes of a group, the one to be recorded first: lowest rank, then the order they arose in. -/
def bestCause (p : ParkCause) (ps : List ParkCause) : ParkCause × List ParkCause :=
  match (List.range 5).findSome? (fun r => takeFirst (fun q => parkRank q == r) (p :: ps)) with
  | some r => r
  | none => (p, ps)

/-- The park record (R147). -/
def parkRecord (c g : Nat) (p : ParkCause) (pc mask insn entries : Nat) (rs : Bool) : BitVec 256 :=
  BitVec.ofNat 256 (put p.cause.toNat 8 248 + put p.reason.toNat 8 240 + put (p.ticket.getD 0).toNat 8 232 +
    putb p.ticket.isSome 231 + putb p.addr.isSome 230 + putb rs 229 + put g 6 223 + put c 7 216 + put mask 32 176 +
    put p.flanes.toNat 32 144 + put pc 48 96 + put (p.addr.getD 0).toNat 48 48 + put entries 6 42 + put insn 32 0)

/-- The entry a group parks at: that of the faulting instruction, else the one it would execute next, else the top one. -/
def Group.parkEntry (k : Group) (p : ParkCause) : Option Entry :=
  match (if p.ticket.isSome ∨ p.cause = 0x0B then none else k.stack.find? (fun e => e.pc == p.pc)) with
  | some e => some e
  | none =>
    match k.stack.find? (fun e => e.st == .ready) with
    | some e => some e
    | none => k.stack.head?

/-- The word at an address of a context as a lane would fetch it; zero where it may not. -/
def State.wordAt (s : State) (x pc : Nat) : Nat :=
  match s.clusterXlate x pc .fetch with
  | .error _ => 0
  | .ok t => if s.readErr (sectorBase (t.addr pc)) = 0 then s.viewNat (t.addr pc) 4 else 0

/-- What the read of such a word does beside (log 15). -/
def State.noteWord (s : State) (x pc : Nat) : State :=
  match s.clusterXlate x pc .fetch with
  | .error _ => s.noteWalk x pc
  | .ok t => (s.noteWalk x pc).noteRead (sectorBase (t.addr pc)) (some x)

/-- A park in progress makes its record once the results of the group's outstanding instructions are written (R146-R150). -/
def State.recordPark (s : State) (c g : Nat) : State :=
  let u := s.cluster c
  let k := u.group g
  match u.kernel, k.parking with
  | some kn, some p0 =>
    if k.status != .running || k.stack.any (fun e => e.out.isSome) then s
    else
      let (p, rest) := bestCause p0 k.causes
      let e := k.parkEntry p
      let pc := (e.map (fun e => e.pc.toNat)).getD 0
      let insn := if k.stack = [] then 0 else if p.insn != 0 then p.insn.toNat else s.wordAt kn.ctx.toNat pc
      let s := if k.stack = [] ∨ p.insn ≠ 0 then s else s.noteWord kn.ctx.toNat pc
      let rs := !(p.cause == 8 && p.reason == 1) && !k.stack.isEmpty
      let rcd := parkRecord c g p pc ((e.map (fun e => e.mask.toNat)).getD 0) insn k.stack.length rs
      -- a group that has stopped waits for no walk (R294)
      let s := (s.ungather c g).modGroup c g (fun k => { k with status := .parked, park := rcd, parking := none, causes := rest })
      if p.notify then s.event 2 (some kn.ctx.toNat) (put kn.id.toNat 32 320 + put rcd.toNat 256 64) 2 else s
  | _, _ => s

/-- The register image or the convergence stack of a group fails its code check: the kernel is replayed if it may be, else the group parks
with cause 0x08, Reason 0x01 (R145, R435). -/
def State.imageFails (s : State) (c g : Nat) : State :=
  let k := s.group c g
  match (s.cluster c).kernel with
  | none => s
  | some kn =>
    if k.status != .running || k.stack.isEmpty then s
    else if s.mayReplay kn then s.withdrawForReplay kn
    else s.park c g { cause := 8, reason := 1, pc := ((k.stack.find? (fun e => e.st == .ready)).map (fun e => e.pc)).getD 0 }

/-- A Group stop under way completes once its group no longer runs (R331, log 105). -/
def State.endStops (s : State) (c g : Nat) : State :=
  [0, 1].foldl (fun s q => match (s.queue q).running with
    | some e =>
      if Ent.op e = 0x4D ∧ fld e 467 461 = c ∧ fld e 460 455 = g ∧ (s.group c g).status ≠ .running then s.complete q 0 0 else s
    | none => s) s

/-- GROUP_PARK (R145-R150): a park in progress makes its record, and a Group stop that waits for it completes.  `bad` says that the group's
register image or convergence stack fails its code check (R435, log 14). -/
def stepGroupPark (c : BitVec 7) (g : BitVec 6) (bad : Bool) (s : State) : State :=
  ((if bad then s.imageFails c.toNat g.toNat else s).recordPark c.toNat g.toNat).endStops c.toNat g.toNat
def execGroupPark (c : BitVec 7) (x : GroupIn) (s : State) : Host.Outcome State Fault Refusal :=
  .next (stepGroupPark c x.g x.bad s)

/-- YIELD_WAKE_TIMEOUT: with no ready entry and a yielded one, every yielded entry becomes ready (R142). -/
def stepYieldWakeTimeout (c : BitVec 7) (g : BitVec 6) (s : State) : State :=
  let k := s.group c.toNat g.toNat
  if k.status = .running ∧ !k.stack.any (fun e => e.st == .ready) then
    s.modGroup c.toNat g.toNat (fun k => { k with stack := k.stack.map (fun e =>
      if e.st = .yielded then { e with st := .ready } else e) })
  else s
def execYieldWakeTimeout (c : BitVec 7) (g : BitVec 6) (s : State) : Host.Outcome State Fault Refusal :=
  .next (stepYieldWakeTimeout c g s)

/-- GROUP_LIVELOCK: the count of R143 has reached 65,536; the detector records the group and its context enters error (R336). -/
def stepGroupLivelock (c : BitVec 7) (g : BitVec 6) (s : State) : State :=
  let u := s.cluster c.toNat
  match u.kernel with
  | none => s
  | some kn =>
    if !(u.group g.toNat).livelock then s
    else
      let s := s.modGroup c.toNat g.toNat (fun k => { k with livelock := false, acqFails := 0 })
      (s.seqError 2 kn.ctx.toNat (cluster := c.toNat) (group := g.toNat)).contextError kn.ctx.toNat 2
def execGroupLivelock (c : BitVec 7) (g : BitVec 6) (s : State) : Host.Outcome State Fault Refusal :=
  .next (stepGroupLivelock c g s)

/-- Operations of a group that are outstanding on its cluster (R137). -/
def Cluster.groupBusy (k : Cluster) (g : Nat) : Bool :=
  k.press.ops.any (fun o => o.group.toNat == g) || k.stream.ops.any (fun o => o.group.toNat == g) ||
    k.stream.fills.any (fun o => o.group.toNat == g)

/-- GROUP_RETIRE: the last lane has exited and every operation of the group has ended (R137). -/
def stepGroupRetire (c : BitVec 7) (g : BitVec 6) (s : State) : State :=
  let u := s.cluster c.toNat
  let k := u.group g.toNat
  if u.runs && k.status == .running && k.stack.isEmpty && k.parking.isNone && k.causes.isEmpty && !u.groupBusy g.toNat then
    s.modGroup c.toNat g.toNat (fun k => { k with status := .retired })
  else s
def execGroupRetire (c : BitVec 7) (g : BitVec 6) (s : State) : Host.Outcome State Fault Refusal := .next (stepGroupRetire c g s)

/-! ### The end of a kernel on a cluster -/

/-- Logical clusters of a launch: first and one past the last (R316). -/
def launchRange (e : BitVec 512) : Nat × Nat := (fld e 303 297, fld e 303 297 + fld e 296 290 + 1)

/-- Every cluster of a launch has completed. -/
def LaunchRec.allDone (r : LaunchRec) : Bool :=
  let (a, b) := launchRange r.entry
  (List.range 128).all (fun c => !(decide (a ≤ c) && decide (c < b)) || r.complete.getLsbD c)

/-- A kernel has completed on a cluster: the launch record notes it, and the entry completes with the last one (R313, R342). -/
def State.clusterDone (s : State) (c : Nat) (kn : Kernel) : State :=
  let u := s.cluster c
  let q := kn.queue.toNat
  let s := s.modCluster c (fun k => k.withdraw s.timedOn)
  let r := (s.queue q).launch
  if r.id != kn.id || r.withdrawn || (s.queue q).running.isNone then s
  else
    let r := { r with complete := setB r.complete c true, num := r.num ||| u.num, discarded := r.discarded || u.discarded }
    if r.allDone then
      ((s.modQueue q (fun k => { k with launch := { r with state := 3 } })).storeLaunch q).complete q (if r.discarded then 1 else 0)
        (num := r.num.toNat) (replays := r.replays.toNat)
    else (s.modQueue q (fun k => { k with launch := r })).storeLaunch q

/-- After a kernel what its frame region holds is undefined: each sector takes a free value at its home (R139, log 74). -/
def State.frameUndefined (s : State) (pas : List Nat) : State :=
  let t := pas.foldl (fun u pa => u.pokeSector pa (Config.freeSector s.free pa)) s
  { t with free := s.free + 1 }

/-- CLUSTER_KERNEL_COMPLETE: with every group ended and every operation complete, the dirty lines are written back; once every write is
performed the kernel completes on the cluster, and what its frames held is lost (R137, R139, R193). -/
def stepClusterKernelComplete (c : BitVec 7) (s : State) : State :=
  let u := s.cluster c.toNat
  match u.kernel with
  | none => s
  | some kn =>
    let ended := (List.range kn.groups).all (fun g => let st := (u.group g).status; st == .retired || st == .discarded)
    if !u.runs || !ended || u.press.ops != [] || u.stream.ops != [] || u.stream.fills != [] then s
    else if u.cache.any (fun l => l.dirty != []) then
      (u.cache.foldl (fun s l => s.writeBackLine c.toNat kn l) s).modCluster c.toNat (fun k =>
        { k with cache := k.cache.map (fun l => { l with dirty := [] }) })
    else if s.sh.reqs.any (fun r => r.msg.src.toNat == c.toNat && r.why == .writeBack) then s
    else (s.clusterDone c.toNat kn).frameUndefined ((s.frameSectors c.toNat kn).map (fun p => p.2))
def execClusterKernelComplete (c : BitVec 7) (s : State) : Host.Outcome State Fault Refusal :=
  .next (stepClusterKernelComplete c s)

end Sys2Proof.Machine
end

