-- ==== Sys2Proof/Machine/PressMath.lean ====
section
/-!
DEFINITION. Arithmetic of the Press: the tile descriptor (R69), class tags (R50), the exact path (R49, R57), the FP32 path (R52, R53),
the slice path with its window (R54, R55, R58, R89), anchor entries (R68, R483), and what leaves at an output (R51, R56, R58, R60).
-/

namespace Sys2Proof.Machine

/-! ### Tile descriptor (R69) -/

namespace Tile
def utag (d : BitVec 256) : Nat := fld d 255 240
def tokEn (d : BitVec 256) : Bool := bit d 239
def tokNum (d : BitVec 256) : Nat := fld d 238 233
def mCount (d : BitVec 256) : Nat := fld d 232 225
def auxVirt (d : BitVec 256) : Bool := bit d 224
def auxAddr (d : BitVec 256) : Nat := fld d 223 176
def strideB (d : BitVec 256) : Nat := fld d 175 168
def addrB (d : BitVec 256) : Nat := fld d 167 146
def strideA (d : BitVec 256) : Nat := fld d 145 138
def addrA (d : BitVec 256) : Nat := fld d 137 116
def op (d : BitVec 256) : Nat := fld d 63 60
def fmtA (d : BitVec 256) : Nat := fld d 59 56
def fmtB (d : BitVec 256) : Nat := fld d 55 52
def fmtOut (d : BitVec 256) : Nat := fld d 51 48
def buf (d : BitVec 256) : Nat := fld d 47 47
def start (d : BitVec 256) : Nat := fld d 46 45
def finish (d : BitVec 256) : Nat := fld d 44 43
def anchorReg (d : BitVec 256) : Bool := bit d 42
def rows (d : BitVec 256) : Nat := fld d 41 35 + 1
def cols (d : BitVec 256) : Nat := fld d 34 28 + 1
def depth (d : BitVec 256) : Nat := fld d 24 0
end Tile

/-- The mode a pair of operand formats, or a merge's record format, gives (R48, R71). -/
def pairMode (fa fb : Nat) : BufMode :=
  if (fa = 1 ∨ fa = 2) ∧ (fb = 1 ∨ fb = 2) then .exact
  else if fa ≠ fb then .none
  else if fa = 3 then .exact
  else if fa = 4 ∨ fa = 5 then .fp32
  else if fa = 6 ∨ fa = 7 then .slice
  else .none

def mergeMode (fa : Nat) : BufMode := if fa = 9 then .exact else if fa = 6 then .fp32 else if fa = 0xA then .slice else .none

/-- Output formats of an operand pair (R48). -/
def pairOuts (fa : Nat) : List Nat :=
  match fa with
  | 1 => [6, 5, 4, 1, 2, 9]
  | 2 => [6, 5, 4, 1, 2, 9]
  | 3 => [8, 6, 9]
  | 4 => [6, 4]
  | 5 => [6, 5]
  | 6 => [6, 0xA]
  | 7 => [7, 0xA]
  | _ => []

/-- Output formats of a buffer mode (R70). -/
def modeOuts : BufMode → List Nat
  | .exact => [6, 5, 4, 1, 2, 8, 9]
  | .fp32 => [6, 5, 4]
  | .slice => [6, 7, 0xA]
  | .none => []

/-- Width of the record of a mode (R81). -/
def recWidth : BufMode → Nat
  | .exact => 16
  | .fp32 => 4
  | .slice => 32
  | .none => 0

/-- The mode of an operation that names a buffer; a drain takes its buffer's. -/
def tileMode (d : BitVec 256) : BufMode :=
  if Tile.op d = 1 then pairMode (Tile.fmtA d) (Tile.fmtB d) else if Tile.op d = 3 then mergeMode (Tile.fmtA d) else .none

/-! ### Tags (R50) -/

/-- Class tag of a value. -/
def classTag : FVal → Nat
  | .nan => 3
  | .inf false => 1
  | .inf true => 2
  | .fin _ _ _ => 0

/-- The table "Sum tags". -/
def sumTag (a b : Nat) : Nat :=
  if a = 3 ∨ b = 3 then 3 else if a = 0 then b else if b = 0 then a else if a = b then a else 3

/-- An element of a buffer, in the reading of its mode: sum (exact, slice) or FP32 bits, tag, NaN origin, and whether its window
dropped a bit. -/
structure AccV where
  val : Int := 0
  tag : Nat := 0
  org : Bool := false
  clip : Bool := false
  overrun : Bool := false
deriving DecidableEq, Repr

/-- While the tag is not finite the value is held at zero (R50). -/
def AccV.held (a : AccV) : AccV := if a.tag = 0 then a else { a with val := 0 }

/-- Add a product in the exact path (R49, R50). -/
def exactStep (acc : AccV) (a b : FVal) : AccV :=
  let p := a.mul b
  ({ acc with val := acc.val + FVal.units (-32) p, tag := sumTag acc.tag (classTag p),
              org := acc.org || a.isNaN || b.isNaN } : AccV).held

/-- Products of one element in the FP32 path (R52): each rounded once, chunks of 32 by the fixed tree, chunk sums in order. -/
def fp32Steps (acc : AccV) (prods : List (FVal × FVal)) : AccV :=
  let ps := prods.map (fun (a, b) => fp32.enc (a.mul b))
  let sums := (chunks 32 ps).map (chunkSum fp32)
  { acc with val := (sums.foldl fp32Add (acc.val.toNat) : Nat),
             org := acc.org || prods.any (fun (a, b) => a.isNaN || b.isNaN) }

/-- Significand and weight of bit 0 of M of a finite operand (R54): FP64 significands are shifted left by three. -/
def sliceOf (wide : Bool) : FVal → Bool × Nat × Int
  | .fin n m e => if wide then (n, m * 8, e - 3) else (n, m, e)
  | _ => (false, 0, 0)

/-- One product of the slice path under a window of exponent E (R54, R55): bits below 2^(E - 159) are dropped from each slice
product. -/
def sliceProd (wide : Bool) (E : Int) (a b : FVal) : Int × Bool :=
  let (na, ma, ua) := sliceOf wide a
  let (nb, mb, ub) := sliceOf wide b
  let n := if wide then 7 else 3
  let (sum, clip) := (List.range n).foldl (fun acc i => (List.range n).foldl (fun (t, c) j =>
    let p := (ma / 2 ^ (8 * i) % 256) * (mb / 2 ^ (8 * j) % 256)
    let sh : Int := 8 * ((i : Int) + j) + ua + ub - (E - 159)
    if 0 ≤ sh then (t + p * 2 ^ sh.toNat, c)
    else (t + p / 2 ^ (-sh).toNat, c || decide (p % 2 ^ (-sh).toNat ≠ 0))) acc) (0, false)
  (if na != nb then -(sum : Int) else (sum : Int), clip)

/-- Binade of a finite nonzero product, if it is one (R55). -/
def prodExp (a b : FVal) : Option Int :=
  match a.mul b with
  | .fin _ m e => if m = 0 then none else some (e + (m.log2 : Int))
  | _ => none

/-- An anchor entry: V in bit 15, E in bits 12 to 0 (R68). -/
def anchorOf : Option Int → BitVec 16
  | none => 0
  | some e => BitVec.ofNat 16 (2 ^ 15 + unsint 13 e)
def anchorE (a : BitVec 16) : Int := sint 13 a.toNat
def anchorV (a : BitVec 16) : Bool := bit a 15

/-- The greater of two anchor entries (R483). -/
def anchorMax (a b : BitVec 16) : BitVec 16 :=
  if anchorV a && anchorV b then (if anchorE a < anchorE b then b else a)
  else if anchorV a then a else if anchorV b then b else 0

/-- E over the products of an element (R55). -/
def expPass (prods : List (FVal × FVal)) : BitVec 16 :=
  prods.foldl (fun acc p => anchorMax acc (anchorOf (prodExp p.1 p.2))) 0

/-- A retained sum moves to a new window (R483): up exactly, down dropping bits of its magnitude. -/
def moveWindow (acc : AccV) (old new : Int) : AccV :=
  if new ≤ old then { acc with val := acc.val * 2 ^ (old - new).toNat }
  else
    let m := acc.val.natAbs
    let sh := (new - old).toNat
    let q : Int := (m / 2 ^ sh : Nat)
    { acc with val := if acc.val < 0 then -q else q, clip := acc.clip || decide (m % 2 ^ sh ≠ 0) }

/-- Add the products of an element in the slice path (R50, R55, R89): with the anchor register named, a product at or above the
window is an overrun. -/
def sliceSteps (wide useReg : Bool) (anchor : BitVec 16) (acc : AccV) (prods : List (FVal × FVal)) : AccV :=
  prods.foldl (fun acc (a, b) =>
    let t := classTag (a.mul b)
    let over_ := match prodExp a b with
      | some e => useReg && (!anchorV anchor || decide (anchorE anchor < e))
      | none => false
    let (v, c) := if t = 0 then sliceProd wide (anchorE anchor) a b else (0, false)
    ({ val := acc.val + v, tag := sumTag acc.tag t, org := acc.org || a.isNaN || b.isNaN, clip := acc.clip || c,
       overrun := acc.overrun || over_ } : AccV).held) acc

/-! ### Records (R56, R58) -/

/-- The exact-carry record of an element. -/
def exactRecord (a : AccV) : Nat := put a.tag 2 126 + putb a.org 125 + unsint 112 a.val
def exactOfRecord (v : Nat) : AccV :=
  { val := sint 112 v, tag := v / 2 ^ 126 % 4, org := decide (v / 2 ^ 125 % 2 = 1) }

/-- The slice-carry record of an element. -/
def sliceRecord (a : AccV) (E : Int) : Nat := put a.tag 2 254 + put (unsint 13 E) 13 241 + putb a.org 240 + unsint 192 a.val
def sliceOfRecord (v : Nat) : AccV × Int :=
  ({ val := sint 192 v, tag := v / 2 ^ 254 % 4, org := decide (v / 2 ^ 240 % 2 = 1) }, sint 13 (v / 2 ^ 241 % 2 ^ 13))

/-- Add a partial sum to an element (R57, R58). -/
def mergeStep (a b : AccV) : AccV := ({ a with val := a.val + b.val, tag := sumTag a.tag b.tag, org := a.org || b.org } : AccV).held

/-- Whether a value fits `n` bits in two's complement. -/
def fitsBits (n : Nat) (v : Int) : Bool := decide (-(2 ^ (n - 1) : Int) ≤ v ∧ v < 2 ^ (n - 1))

/-- Whether a value fits an element of a buffer in a mode: 96 bits in exact mode, 192 in slice mode (R57, R71, R73). -/
def AccV.fits (m : BufMode) (a : AccV) : Bool :=
  match m with
  | .exact => fitsBits 96 a.val
  | .slice => fitsBits 192 a.val
  | _ => true

/-- FP32 partials of a merge (R53, R88). -/
def fp32Merge (fromZero : Bool) (acc : AccV) (ps : List Nat) : AccV :=
  let org := ps.any (fun p => (fp32.decode p).isNaN)
  match fromZero, ps with
  | true, p :: ps => { val := (ps.foldl fp32Add p : Nat), org := org }
  | _, ps => { acc with val := (ps.foldl fp32Add acc.val.toNat : Nat), org := acc.org || org }

/-! ### Output -/

/-- The value of an element (R51, R52, R55). -/
def AccV.value (m : BufMode) (E : Int) (a : AccV) : FVal :=
  match m with
  | .fp32 => fp32.decode a.val.toNat
  | .exact => if a.tag = 3 then .nan else if a.tag = 1 then .inf false else if a.tag = 2 then .inf true
              else .fin (decide (a.val < 0)) a.val.natAbs (-32)
  | _ => if a.tag = 3 then .nan else if a.tag = 1 then .inf false else if a.tag = 2 then .inf true
         else .fin (decide (a.val < 0)) a.val.natAbs (E - 159)

/-- One element at the output of the Press (R51, R56, R58, R60).  A carry record holds tag and origin themselves, so a tag that is not finite
gives it no status and no Kind (log 84). -/
def AccV.out (m : BufMode) (E : Int) (flag : Bool) (fmt : Nat) (a : AccV) : OutRes :=
  if fmt = 9 then { bits := exactRecord a }
  else if fmt = 0xA then { bits := sliceRecord a E }
  else outElem flag fmt a.org (a.value m E)

end Sys2Proof.Machine
end

