-- ==== Sys2Proof/Machine/Home.lean ====
section
/-!
DEFINITION. The home half of the Quire: allocation, eviction and fetches (R208-R223, R227, R236, R272), the directory's transactions
(R276-R282), near-memory reductions (R231-R239, R479, R480), deadhead (R241, R242), lost sectors (R243), maintenance of lines
(R216, R217), and the order in which waiting requests are served (R219, R228).
-/

namespace Sys2Proof.Machine

/-! ### Answers -/

/-- A response to a request (R224, R225). -/
def replyTo (m : MemMsg) (vc op : Nat) (attr : Nat := 0) (ctl : BitVec 128 := 0) (data : Sector := 0) : MemMsg :=
  { vc := BitVec.ofNat 2 vc, op := BitVec.ofNat 8 op, src := m.src, tag := m.tag, ctx := m.ctx, gen := m.gen,
    attr := BitVec.ofNat 12 attr, pa := m.pa, ctl := ctl, data := data }

def State.answerData (s : State) (m : MemMsg) (d : Sector) : State := s.sendMem (replyTo m 1 1 (data := d))
def State.answerDone (s : State) (m : MemMsg) : State := s.sendMem (replyTo m 1 2)
def State.answerErr (s : State) (m : MemMsg) (code : Nat) : State := s.sendMem (replyTo m 1 4 code)
def State.answerRetry (s : State) (m : MemMsg) : State := s.sendMem (replyTo m 1 5)
def State.answerRed (s : State) (m : MemMsg) (staged : Bool) : State := s.sendMem (replyTo m 3 3 (if staged then 1 else 0))

def isRdSec (m : MemMsg) : Bool := m.vc == 0 && m.op == 1
def isWrFull (m : MemMsg) : Bool := m.vc == 0 && m.op == 2
def isWrMask (m : MemMsg) : Bool := m.vc == 0 && m.op == 3
def isAtomic (m : MemMsg) : Bool := m.vc == 0 && m.op == 4
def isDead (m : MemMsg) : Bool := m.vc == 0 && m.op == 5
def isRedOrd (m : MemMsg) : Bool := m.vc == 3 && m.op == 1
def isRedInt (m : MemMsg) : Bool := m.vc == 3 && m.op == 2

def homeSrc (h : Bool) : BitVec 12 := if h then 0x401 else 0x400

/-- A snoop from a home to a core (R273, R274). -/
def State.snoop (s : State) (h : Bool) (op dst : Nat) (core : BitVec 6) (tag : BitVec 16) (pa : BitVec 48) : State :=
  s.sendCoh { op := BitVec.ofNat 8 op, src := homeSrc h, tag := tag, core := core, dst := BitVec.ofNat 6 dst, pa := pa }

/-! ### Counters of a context (R244) -/

/-- A NoAlloc write that missed counts toward WrAround in units of 1,024 sectors. -/
def State.countAround (s : State) (x : Nat) : State :=
  if (s.ctx x).wrAcc = 1023 then (s.modCtx x (fun k => { k with wrAcc := 0 })).countDead x 0
  else s.modCtx x (fun k => { k with wrAcc := k.wrAcc + 1 })

/-- A Dead enters its line in the filter, which holds the newest last (R242). -/
def State.filterAdd (s : State) (h : Bool) (pa : Nat) (x : BitVec 12) : State :=
  let ln := BitVec.ofNat 37 (lineOf pa)
  let k := s.half h
  let s := s.modHalf h (fun k => { k with filter := k.filter.filter (fun e => e.1 != ln) ++ [(ln, x)] })
  if k.filter.any (fun e => e.1 == ln) || decide (k.filter.length < 4096) then s
  else match k.filter with
    | [] => s
    | e :: _ => (s.countDead e.2.toNat 32).modHalf h (fun k => { k with filter := k.filter.drop 1 })

/-! ### Lines -/

/-- Ways of a set that are no scratchpad (R213). -/
def QHalf.ways (k : QHalf) : Nat := 16 - k.scratchWays

/-- Whether a line holds an open tracker on any of its sectors. -/
def QHalf.lineTracked (k : QHalf) (line : Nat) : Bool := k.reds.any (fun t => lineOf t.pa.toNat == line)

/-- Directory entry of a sector. -/
def QHalf.dirOf (k : QHalf) (pa : Nat) : DirEnt := tget {} k.dir (pa / 128)
def State.setDir (s : State) (h : Bool) (pa : Nat) (e : DirEnt) : State :=
  s.modHalf h (fun k => { k with dir := tput {} k.dir (pa / 128) e })

/-- Cores that a directory entry names. -/
def DirEnt.holders (e : DirEnt) : List Nat :=
  if e.dstate = 2 then [e.owner.toNat] else if e.dstate = 1 then (List.range 64).filter (fun n => e.sharers.getLsbD n) else []

/-- The sectors of a line by physical address. -/
def lineSectors (line : Nat) : List Nat := (List.range 16).map (fun i => line * 2048 + i * 128)

/-- Sectors of a line that a core holds, and whether a transaction is open on any. -/
def QHalf.lineHeld (k : QHalf) (line : Nat) : List Nat := (lineSectors line).filter (fun p => (k.dirOf p).dstate != 0)
def QHalf.lineTrans (k : QHalf) (line : Nat) : Bool := k.trans.any (fun t => lineOf t.pa.toNat == line)

/-- Open a transaction that snoops every holder of a sector (R272, R282): SnpDown, SnpRecall to an owner, SnpInv to sharers, or SnpDrop. -/
def State.openSnoops (s : State) (h : Bool) (pa : Nat) (what : TransFor) (down drop : Bool) : State :=
  let e := (s.half h).dirOf pa
  let hs := e.holders
  let op := if drop then 0x15 else if down then 0x13 else if e.dstate = 2 then 0x14 else 0x12
  let p := BitVec.ofNat 48 (sectorBase pa)
  let s := s.modHalf h (fun k => { k with trans := k.trans ++
    [{ pa := p, what := what, waitFor := hs.map (BitVec.ofNat 6), snooped := hs.map (BitVec.ofNat 6) }] })
  hs.foldl (fun s n => s.snoop h op n 0 0 p) s

/-- Put a sector into its channel's way to the dies (R220, R223, R262): a buffered older copy is replaced where it stands. -/
def State.toChannel (s : State) (h : Bool) (pa : Nat) (d : Sector) : State :=
  let p := BitVec.ofNat 48 pa
  if (s.half h).around.any (fun e => e.1 == p) then
    s.modHalf h (fun k => { k with around := k.around.map (fun e => if e.1 = p then (p, d) else e) })
  else s.modChannel (s.placeOf pa).1 (fun k =>
    let w := if k.writes.any (fun e => e.1 == p) then k.writes.map (fun e => if e.1 = p then (p, d) else e)
      else k.writes ++ [(p, d)]
    { k with writes := w, drainMode := k.drainMode || decide (96 ≤ w.length) })

/-- Dirty sectors of a line. -/
def QLine.dirtyList (l : QLine) : List Nat := (List.range 16).filter (fun i => l.dirty.getLsbD i)

/-- Whether the channel of a line has room for its dirty sectors (R227). -/
def State.roomBelow (s : State) (l : QLine) : Bool :=
  let ds := l.dirtyList
  decide (ds.length + (s.channel (s.placeOf (l.line.toNat * 2048)).1).writes.length ≤ 128)

/-! ### Sectors that fail their check (R243) -/

/-- A dirty sector fails its check: it is lost; the third line of a set to hold a Lost sector stops every context. -/
def State.markLost (s : State) (h : Bool) (set w i : Nat) : State :=
  let k := s.half h
  let third := decide ((k.way set w).lost = 0) &&
    decide (2 ≤ (List.range 16).countP (fun v => v != w && (k.way set v).present && (k.way set v).lost != 0))
  let s := s.loseSector h set w i
  if third then s.notServiceable else s

/-- A read at its home finds whether the sector fails its check (R243, log 14). -/
def State.checked (s : State) (pa : Nat) : State := s.foundWeak pa State.markLost

/-- The dirty sectors of a line that fail their check as they are read to be written back are lost. -/
def State.checkWay (s : State) (h : Bool) (set w : Nat) : State :=
  let l := (s.half h).way set w
  ((List.range 16).filter (fun i => (l.weak &&& l.dirty).getLsbD i)).foldl (fun s i => s.markLost h set w i) s

/-- The stored bits of a sector that a half holds have gone wrong: the next read of them finds it.  A scratchpad sector is lost at once and
recorded (log 14). -/
def State.weaken (s : State) (pa : Nat) : State :=
  let h := homeEast pa
  let o := pa % 0x10000000 / 128
  if isScratch pa then
    (if (s.half h).bad.contains o then s
     else (s.modHalf h (fun k => { k with bad := k.bad ++ [o] })).deviceError 2 (pa := some (sectorBase pa)))
  else match (s.half h).lineAt pa with
    | none => s
    | some (w, _) => s.modHalf h (fun k => k.modWay (quireSet pa) w (fun l =>
        if l.valid.getLsbD (sectorOf pa) then { l with weak := setB l.weak (sectorOf pa) true } else l))

/-- Write a line's dirty sectors back, keeping the line. -/
def State.cleanWay (s : State) (h : Bool) (set w : Nat) : State :=
  let s := s.checkWay h set w
  let l := (s.half h).way set w
  (l.dirtyList.foldl (fun s i => s.toChannel h (l.line.toNat * 2048 + i * 128) (tget 0 l.data i)) s).modHalf h
    (fun k => k.modWay set w (fun l => { l with dirty := 0 }))

/-- The victim of a set by the rule of R212: an invalid eligible way first, else the lowest with the greatest age, every eligible
way's age raised by as much. -/
def QHalf.pickWay (k : QHalf) (set : Nat) : Option (Nat × QHalf) :=
  let el := (List.range k.ways).filter (fun w => let l := k.way set w
    !l.present || (!l.lock && !l.busy && l.filling == 0 && l.lost == 0 && !l.evicting))
  match el.find? (fun w => !(k.way set w).present) with
  | some w => some (w, k)
  | none =>
    let top := el.foldl (fun a w => max a (k.way set w).age.toNat) 0
    (el.find? (fun w => (k.way set w).age.toNat == top)).map (fun w =>
      (w, el.foldl (fun k v => k.modWay set v (fun l => { l with age := BitVec.ofNat 2 (l.age.toNat + (3 - top)) })) k))

/-- A fresh line. -/
def newLine (pa hint : Nat) : QLine :=
  { present := true, line := BitVec.ofNat 37 (lineOf pa), age := insertAge hint, hint := BitVec.ofNat 2 hint }

/-- Whether a line of a set is being evicted for a request that waits: that line is the victim (R272). -/
def QHalf.recalling (k : QHalf) (set : Nat) : Bool := (List.range k.ways).any (fun w => let l := k.way set w; l.present && l.evicting)

/-- Allocate a line (R208, R212, R227, R236, R272): the state and way, or the state in which the request waits.  A victim with a dirty sector that
fails its check stays, and another is chosen (R243; fuel: ways). -/
def State.allocGo (pa hint : Nat) : Nat → State → Except State (State × Nat)
  | 0, s => .error s
  | f + 1, s =>
  let h := homeEast pa
  let set := quireSet pa
  match (if (s.half h).recalling set then none else (s.half h).pickWay set) with
  | none => .error s
  | some (w, k) =>
    let l := k.way set w
    let put_ := fun (s : State) => (s.modHalf h (fun k => k.modWay set w (fun _ => newLine pa hint)), w)
    if !l.present then .ok (put_ s)
    else
      let ln := l.line.toNat
      if (k.lineHeld ln) ≠ [] ∨ k.lineTrans ln then
        let s := s.modHalf h (fun _ => k.modWay set w (fun l => { l with evicting := true }))
        .error ((k.lineHeld ln).foldl (fun s p =>
          if ((s.half h).transAt p).isSome then s else s.openSnoops h p .recall false false) s)
      else if !s.roomBelow l then .error s
      else if l.weak &&& l.dirty ≠ 0 then State.allocGo pa hint f ((s.modHalf h (fun _ => k)).checkWay h set w)
      else .ok (put_ ((s.modHalf h (fun _ => k)).cleanWay h set w))

def State.allocLine (s : State) (pa hint : Nat) : Except State (State × Nat) := State.allocGo pa hint 16 s

/-- Send a fetch for sectors of a present line (R218, R227); none where the channel has no credit. -/
def State.fetchSectors (s : State) (pa w : Nat) (sectors : List Nat) (src ctx : BitVec 12) : Option State :=
  let h := homeEast pa
  let ch := (s.placeOf pa).1
  if 64 ≤ (s.channel ch).fetches.length then none
  else
    let s := s.modHalf h (fun k => k.modWay (quireSet pa) w (fun l =>
      { l with filling := sectors.foldl (fun f i => setB f i true) l.filling }))
    some (s.modChannel ch (fun k => { k with fetches := k.fetches ++
      [{ sectors := sectors.map (fun i => BitVec.ofNat 48 (lineOf pa * 2048 + i * 128)), src := src, ctx := ctx,
         issued := false }] }))

/-- Sectors of a line in the order of R218, critical first, that are neither held nor on their way. -/
def QLine.absent (l : QLine) (c : Nat) : List Nat :=
  ((List.range 16).map (fun i => (c + i) % 16)).filter (fun i =>
    !(l.valid.getLsbD i || l.filling.getLsbD i || l.lost.getLsbD i))

/-- What a request for the data of a sector leads to: the data is there, it is lost, it is on its way, or the request has to stay at the head
of its bank's queue for want of a credit or a way (R227). -/
inductive Need where
  | ready
  | lost
  | wait (s : State)
  | hold (s : State)

/-- The data of a sector at its home: present, lost, or to be waited for, with a fetch sent (R215, R218, R219, R243). -/
def State.need (s : State) (pa hint : Nat) (src ctx : BitVec 12) : Need :=
  let h := homeEast pa
  let i := sectorOf pa
  if isScratch pa then (if (s.half h).bad.contains (pa % 0x10000000 / 128) then .lost else .ready)
  else match (s.half h).lineAt pa with
    | some (w, l) =>
      if l.lost.getLsbD i then .lost
      else if l.valid.getLsbD i then .ready
      else if l.filling.getLsbD i then .wait s
      else match s.fetchSectors pa w (if l.filling ≠ 0 ∨ hint = 2 then [i] else l.absent i) src ctx with
        | some s => .wait s
        | none => .hold s
    | none =>
      if 64 ≤ (s.channel (s.placeOf pa).1).fetches.length then .hold s
      else match s.allocLine pa hint with
        | .error s => .hold s
        | .ok (s, w) =>
          .wait ((s.fetchSectors pa w (if hint = 2 then [i] else ({} : QLine).absent i) src ctx).getD s)

/-- The data a home holds of a sector. -/
def State.homeData (s : State) (pa : Nat) : Sector :=
  let k := s.half (homeEast pa)
  if isScratch pa then tget 0 k.scratch (pa % 0x10000000 / 128)
  else match k.lineAt pa with
    | some (_, l) => tget 0 l.data (sectorOf pa)
    | none => 0

/-- Write a whole sector at its home: valid, dirty, no longer lost. -/
def State.homePut (s : State) (pa : Nat) (d : Sector) : State :=
  let i := sectorOf pa
  s.modHalf (homeEast pa) (fun k =>
    if isScratch pa then
      let o := pa % 0x10000000 / 128
      { k with scratch := tput 0 k.scratch o d, bad := k.bad.filter (· != o) }
    else match k.findWay (quireSet pa) (lineOf pa) with
      | none => k
      | some w => k.modWay (quireSet pa) w (fun l =>
          { l with data := tput 0 l.data i d, valid := setB l.valid i true, dirty := setB l.dirty i true,
                   lost := setB l.lost i false, weak := setB l.weak i false }))

/-! ### Reductions (R231-R239, R479, R480) -/

namespace Red
def redId (m : MemMsg) : Nat := fld m.ctl 127 96
def ordinal (m : MemMsg) : Nat := fld m.ctl 95 72
def count (m : MemMsg) : Nat := fld m.ctl 71 48
def fmt (m : MemMsg) : Nat := fld m.ctl 47 44
def rop (m : MemMsg) : Nat := fld m.ctl 43 40
end Red

/-- Combine two sectors element by element. -/
def zipElems (w : Nat) (f : Nat → Nat → Nat) (a b : Sector) : Sector :=
  BitVec.ofNat 1024 ((List.range (128 / w)).foldl (fun acc i =>
    acc + (f (a.toNat / 256 ^ (w * i) % 256 ^ w) (b.toNat / 256 ^ (w * i) % 256 ^ w) % 256 ^ w) * 256 ^ (w * i)) 0)

/-- An integer reduction of a sector (R232). -/
def redInt (fmt rop : Nat) (m c : Sector) : Sector :=
  let w := widthOf fmt
  zipElems w (fun a b =>
    match rop with
    | 1 => a + b
    | 2 => if sint (8 * w) a < sint (8 * w) b then b else a
    | 3 => if sint (8 * w) b < sint (8 * w) a then b else a
    | 4 => a &&& b
    | 5 => a ||| b
    | _ => a ^^^ b) m c

/-- One fold of an ordered reduction (R233); none where an exact-carry sum does not fit (R480). -/
def redFold (fmt rop : Nat) (m c : Sector) : Option Sector :=
  if fmt = 9 then
    let sum := fun (a b : Nat) => mergeStep (exactOfRecord a) (exactOfRecord b)
    let fits := (List.range 8).all (fun i =>
      let v := (sum (m.toNat / 2 ^ (128 * i) % 2 ^ 128) (c.toNat / 2 ^ (128 * i) % 2 ^ 128)).val
      decide (-(2 ^ 111 : Int) ≤ v ∧ v < 2 ^ 111))
    if fits then some (zipElems 16 (fun a b => exactRecord (sum a b)) m c) else none
  else match floatOf fmt with
    | none => none
    | some f => some (zipElems (widthOf fmt) (fun a b =>
        if rop = 1 then fpAdd f a b
        else if rop = 2 then f.enc ((f.decode a).maxOf (f.decode b))
        else f.enc ((f.decode a).minOf (f.decode b))) m c)

/-- Close a tracker: the line's Busy clears where it holds no other, and staged contributions go. -/
def State.closeTracker (s : State) (h : Bool) (pa : Nat) : State :=
  (s.modHalf h (fun k =>
    let k := { k with reds := k.reds.filter (fun t => t.pa.toNat != sectorBase pa),
                      staged := k.staged.filter (fun m => sectorBase m.pa.toNat != sectorBase pa) }
    match k.findWay (quireSet pa) (lineOf pa) with
    | some w => k.modWay (quireSet pa) w (fun l => { l with busy := k.lineTracked (lineOf pa) })
    | none => k)).lateWrites h

/-- Contributions staged for a sector. -/
def QHalf.stagedAt (k : QHalf) (pa : Nat) : List MemMsg := k.staged.filter (fun m => sectorBase m.pa.toNat == sectorBase pa)

/-- Contributions to a sector that wait for its data. -/
def QHalf.waitingFor (k : QHalf) (pa : Nat) : List MemMsg := k.wait.filter (fun m => isRedOrd m && sectorBase m.pa.toNat == sectorBase pa)

/-- End a tracker with an error to every staged contribution. -/
def State.failTracker (s : State) (h : Bool) (pa code : Nat) : State :=
  let out := (s.half h).stagedAt pa
  (out.foldl (fun s m => s.answerErr m code) s).closeTracker h pa

/-- Fold a contribution whose ordinal is the next, then the staged ones that follow (R234, R480; fuel: contributions staged, and one). -/
def State.foldRun (h : Bool) : Nat → State → MemMsg → Bool → State
  | 0, s, _, _ => s
  | f + 1, s, m, answered =>
    let pa := m.pa.toNat
    match redFold (Red.fmt m) (Red.rop m) (s.homeData pa) m.data with
    | none => ((s.answerErr m 3).failTracker h pa 3).contextError m.ctx.toNat 4
    | some d =>
      let s := (if answered then s else s.answerRed m false).homePut pa d
      let next := Red.ordinal m + 1
      if next = Red.count m then s.closeTracker h pa
      else
        let s := s.modHalf h (fun k => { k with reds := k.reds.map (fun t =>
          if t.pa.toNat = sectorBase pa then { t with next := BitVec.ofNat 24 next } else t) })
        match (s.half h).staged.find? (fun c => sectorBase c.pa.toNat == sectorBase pa && Red.ordinal c == next) with
        | none => s
        | some c => State.foldRun h f (s.modHalf h (fun k => { k with staged := k.staged.erase c })) c true

/-! ### Serving a request -/

/-- A request stays in the queue of its bank (R227, R228). -/
def State.holdMem (s : State) (m : MemMsg) : State :=
  s.modHalf (homeEast m.pa.toNat) (fun k => { k with queue := k.queue ++ [m] })

/-- A request waits at its home for a fetch or another request, and holds nothing behind it (R219, R228, R237). -/
def State.parkMem (s : State) (m : MemMsg) : State :=
  s.modHalf (homeEast m.pa.toNat) (fun k => { k with wait := k.wait ++ [m] })

/-- RedOrd at its home, coherent with the cores (R234, R235, R479). -/
def State.serveRedOrd (s : State) (m : MemMsg) : State :=
  let pa := m.pa.toNat
  let h := homeEast pa
  let k := s.half h
  let refuse := fun (s : State) => (s.answerRetry m).countDead m.ctx.toNat 16
  let inTracker := fun (s : State) (t : RedTracker) =>
    let k := s.half h
    if Red.ordinal m = t.next.toNat then
      match s.need pa m.hint.toNat m.src m.ctx with
      | .wait s => s.parkMem m
      | .hold s => s.holdMem m
      | .lost => (s.answerErr m 1).failTracker h pa 1
      | .ready => State.foldRun h (k.staged.length + 1) s m false
    else if 256 ≤ k.staged.length then refuse s
    else (s.modHalf h (fun k => { k with staged := k.staged ++ [m] })).answerRed m true
  match k.reds.find? (fun t => t.pa.toNat == sectorBase pa) with
  | some t =>
    if t.ctx != m.ctx || t.redId.toNat != Red.redId m || t.count.toNat != Red.count m ||
       decide (Red.ordinal m < t.next.toNat) || (k.stagedAt pa ++ k.waitingFor pa).any (fun c => Red.ordinal c == Red.ordinal m) then
      (s.answerErr m 3).contextError m.ctx.toNat 4
    else inTracker s t
  | none =>
    let isLost := match k.lineAt pa with
      | some (_, l) => l.lost.getLsbD (sectorOf pa)
      | none => isScratch pa && k.bad.contains (pa % 0x10000000 / 128)
    let others := ((k.reds.filter (fun t => lineSet t.pa.toNat == lineSet pa)).map
      (fun t => lineOf t.pa.toNat)).eraseDups.filter (· != lineOf pa)
    if isLost then s.answerErr m 1
    else if 4096 ≤ k.reds.length then refuse s
    else if !k.lineTracked (lineOf pa) && decide (2 ≤ others.length) then refuse s
    else if Red.ordinal m ≠ 0 ∧ 256 ≤ k.staged.length then refuse s
    else
      let t : RedTracker := { pa := BitVec.ofNat 48 (sectorBase pa), ctx := m.ctx, redId := BitVec.ofNat 32 (Red.redId m),
                              count := BitVec.ofNat 24 (Red.count m), next := 0 }
      let opened := fun (s : State) => s.modHalf h (fun k =>
        let k := { k with reds := k.reds ++ [t] }
        match k.findWay (quireSet pa) (lineOf pa) with
        | some w => k.modWay (quireSet pa) w (fun l => { l with busy := true })
        | none => k)
      if isScratch pa || (k.lineAt pa).isSome then inTracker (opened s) t
      else match s.allocLine pa m.hint.toNat with
        | .error s => s.holdMem m
        | .ok (s, _) => inTracker (opened s) t

/-- Dead at its home (R241, R242). -/
def State.serveDead (s : State) (m : MemMsg) : State :=
  let pa := m.pa.toNat
  let h := homeEast pa
  let s := s.modHalf h (fun k => match k.findWay (quireSet pa) (lineOf pa) with
    | none => k
    | some w => k.modWay (quireSet pa) w (fun l =>
        if l.lock || l.lost != 0 then { l with valid := 0, dirty := 0, weak := 0, filling := 0, data := [] } else {}))
  (s.filterAdd h pa m.ctx).answerDone m

/-- Perform a request whose sector is coherent and free of trackers (R218-R223, R232, R241, R243). -/
def State.act (s : State) (m : MemMsg) : State :=
  let s := if isWrFull m || isDead m then s else s.checked m.pa.toNat
  let pa := m.pa.toNat
  let h := homeEast pa
  let base := sectorBase pa
  let k := s.half h
  let buffered := k.around.any (fun e => e.1.toNat == base)
  let merge := fun (s : State) (d : Sector) (mask : BitVec 128) =>
    (s.modHalf h (fun k => { k with around := k.around.map (fun e =>
      if e.1.toNat = base then (e.1, mergeSector e.2 d mask) else e) })).answerDone m
  let hint := m.hint.toNat
  if isRdSec m then
    match s.need pa hint m.src m.ctx with
    | .wait s => s.parkMem m
    | .hold s => s.holdMem m
    | .lost => s.answerErr m 1
    | .ready => s.answerData m (s.homeData pa)
  else if isWrFull m then
    (if isScratch pa then (s.homePut pa m.data).answerDone m
     else match k.lineAt pa with
      | some (_, l) => if l.filling.getLsbD (sectorOf pa) then s.parkMem m else (s.homePut pa m.data).answerDone m
      | none =>
        if buffered then merge (if m.noAlloc then s.countAround m.ctx.toNat else s) m.data (BitVec.allOnes 128)
        else if m.noAlloc then
          (if 512 ≤ k.around.length then s.holdMem m
           else ((s.modHalf h (fun k => { k with around := k.around ++ [(BitVec.ofNat 48 base, m.data)] })).countAround
              m.ctx.toNat).answerDone m)
        else match s.allocLine pa hint with
          | .error s => s.holdMem m
          | .ok (s, _) => (s.homePut pa m.data).answerDone m)
  else if isWrMask m then
    (if !isScratch pa && (k.lineAt pa).isNone && buffered then merge s m.data m.ctl
     else match s.need pa hint m.src m.ctx with
      | .wait s => s.parkMem m
      | .hold s => s.holdMem m
      | .lost => s.answerErr m 1
      | .ready => (s.homePut pa (mergeSector (s.homeData pa) m.data m.ctl)).answerDone m)
  else if isDead m then s.serveDead m
  else if isRedOrd m then s.serveRedOrd m
  else
    match s.need pa hint m.src m.ctx with
    | .wait s => s.parkMem m
    | .hold s => s.holdMem m
    | .lost => s.answerErr m 1
    | .ready =>
      let d := s.homeData pa
      if isAtomic m then
        let n := if bit m.attr 6 then 8 else 4
        let old := sectorNum d pa n
        let v := amoNew (fld m.attr 11 7) n old (fld m.ctl 63 0 % 2 ^ (8 * n)) (fld m.ctl 127 64 % 2 ^ (8 * n))
        (s.homePut pa (mergeSector d (numSector pa n v) (byteMask pa n))).sendMem
          (replyTo m 1 3 (ctl := BitVec.ofNat 128 old))
      else (s.homePut pa (redInt (Red.fmt m) (Red.rop m) d m.data)).answerRed m false

/-- A request is performed, or begins to wait for what it needs; its access to the line counts once (R212, R242, log 96). -/
def State.perform (s : State) (m : MemMsg) : State :=
  let h := homeEast m.pa.toNat
  let s := if isDead m || (s.half h).noted.contains m then s
    else (s.noteAccess m.pa.toNat m.hint.toNat (isRdSec m)).modHalf h (fun k => { k with noted := k.noted ++ [m] })
  let s := s.act m
  if (s.half h).wait.contains m || (s.half h).queue.contains m then s else s.modHalf h (fun k => { k with noted := k.noted.erase m })

/-- Serve a request at its home (R225, R228, R237, R238, R241, R282): invalid and absent ones are answered, others wait, are refused, have
the cores snooped, or are performed.  A RedOrd of an open tracker passes whatever waits for the tracker to close (R234, R241). -/
def State.serve (s : State) (m : MemMsg) : State :=
  let pa := m.pa.toNat
  let h := homeEast pa
  let k := s.half h
  let line := k.lineAt pa
  let same := fun (w : MemMsg) => if isDead m || isDead w then lineOf w.pa.toNat == lineOf pa
    else sectorBase w.pa.toNat == sectorBase pa
  let badRed := (isRedOrd m && !redOrdOk (Red.fmt m) (Red.rop m) (Red.ordinal m) (Red.count m)) ||
    (isRedInt m && !redIntOk (Red.fmt m) (Red.rop m) (Red.redId m) (Red.ordinal m) (Red.count m))
  let held := if isDead m then k.lineHeld (lineOf pa) else if (k.dirOf pa).dstate = 0 then [] else [sectorBase pa]
  let toSnoop := if isRdSec m then held.filter (fun p => (k.dirOf p).dstate == 2)
    else held
  if m.hint = 3 || badRed || (isAtomic m && decide (0x10 ≤ fld m.attr 11 7)) then s.answerErr m 4
  else if isScratch pa && isDead m then s.answerDone m
  else if isScratch pa && decide (k.scratchWays * 2 ^ 25 ≤ pa % 0x10000000) then s.answerErr m 2
  else if !isScratch pa && decide (s.capacity ≤ pa) then s.answerErr m 4
  else if s.trackerOpen pa && isRedOrd m then s.perform m
  else if s.trackerOpen pa && !isDead m then s.answerRetry m
  else if k.wait.any same then s.parkMem m
  else if line.any (fun l => l.2.evicting) then (if isDead m then (s.filterAdd h pa m.ctx).answerDone m else s.parkMem m)
  else if isDead m && line.any (fun l => l.2.busy) then s.parkMem m
  else if (if isDead m then k.lineTrans (lineOf pa) else (k.transAt pa).isSome) then s.holdMem m
  else if toSnoop ≠ [] then
    (toSnoop.foldl (fun s p => s.openSnoops h p (.noncoh m) (isRdSec m) (isDead m)) s).holdMem m
  else s.perform m

/-! ### Core requests at the home (R276) -/

/-- Close a transaction. -/
def State.closeTrans (s : State) (h : Bool) (pa : BitVec 48) : State :=
  (s.modHalf h (fun k => { k with trans := k.trans.filter (fun t => t.pa != pa) })).lateWrites h

/-- Whether a core's Upgrade finds it among the sharers. -/
def upgradeHolds (e : DirEnt) (m : CohMsg) : Bool := m.op == 3 && e.dstate == 1 && e.sharers.getLsbD m.core.toNat

/-- The message by which a home answers a core on VC1. -/
def toCore (m : CohMsg) : MemMsg :=
  { vc := 1, op := 1, src := BitVec.ofNat 12 (0x100 + m.core.toNat), tag := m.tag, pa := m.pa }

/-- Send the grant of a transaction whose snoops have all been answered, with data from the Quire where the owner sends none (R276). -/
def State.tryGrant (s : State) (h : Bool) (t : Transaction) (m : CohMsg) : State :=
  let e := (s.half h).dirOf t.pa.toNat
  let st : Nat := if m.op = 1 then (if t.snooped ≠ [] ∨ e.dstate = 1 then 1 else if bit m.attr 0 then 1 else 2) else 3
  let grant := fun (s : State) (withData : Bool) =>
    (s.modHalf h (fun k => { k with trans := k.trans.map (fun u =>
      if u.pa = t.pa then { u with granted := some (BitVec.ofNat 2 st) } else u) })).sendCoh
      { op := 0x18, src := homeSrc h, tag := m.tag, core := m.core, dst := m.core, pa := t.pa,
        attr := BitVec.ofNat 8 (putb withData 2 + st) }
  if upgradeHolds e m then grant s false
  else if t.ownerSends then grant s true
  else
    let s := s.checked t.pa.toNat
    match s.need t.pa.toNat 0 (BitVec.ofNat 12 (0x100 + m.core.toNat)) 0 with
    | .wait s => s
    | .hold s => s
    | .lost => (s.sendMem { toCore m with op := 4, attr := 1 }).closeTrans h t.pa
    | .ready => grant (s.sendMem { toCore m with data := s.homeData t.pa.toNat }) true

/-! ### Evictions (R214, R227, R272) -/

/-- Lines whose eviction has begun go once no core holds a sector of them and their channel has room; lines in ways that have become
scratchpad are among them. -/
def State.finishEvictions (s : State) (h : Bool) : State :=
  (s.half h).lines.foldl (fun s p =>
    let set := p.1 / 16
    let w := p.1 % 16
    let l := (s.half h).way set w
    let ln := l.line.toNat
    let leaving := decide ((s.half h).ways ≤ w)
    if !l.present || !(l.evicting || leaving) || l.busy || l.filling != 0 || l.lost != 0 then s
    else
      let s := if leaving then s.modHalf h (fun k => k.modWay set w (fun l => { l with evicting := true })) else s
      let s := ((s.half h).lineHeld ln).foldl (fun s q =>
        if ((s.half h).transAt q).isSome then s else s.openSnoops h q .recall false false) s
      if (s.half h).lineHeld ln ≠ [] ∨ (s.half h).lineTrans ln ∨ !s.roomBelow l then s
      else (s.cleanWay h set w).modHalf h (fun k => k.modWay set w (fun l => if l.lost ≠ 0 then l else {}))) s

/-! ### Maintenance (R216, R217) -/

/-- Process one line of a maintenance command: whether it is done, and whether it counts as not locked; a line that is locked already counts as
locked (log 96). -/
def State.maintLine (s : State) (j : MaintJob) (pa : Nat) : Option (Bool × State) × State :=
  let h := homeEast pa
  let set := quireSet pa
  let ln := lineOf pa
  let k := s.half h
  let op := j.op.toNat
  let hint := if op = 2 then 1 else j.hint.toNat
  if op ≤ 2 then
    let fetched : Except State (State × Nat) :=
      match k.lineAt pa with
      | some (w, l) =>
        if l.evicting then .error s
        else if l.absent 0 = [] then .ok (s.touchLine pa hint, w)
        else match s.fetchSectors pa w (l.absent 0) j.src 0 with
          | none => .error s
          | some s => .ok (s.touchLine pa hint, w)
      | none =>
        if 64 ≤ (s.channel (s.placeOf pa).1).fetches.length then .error s
        else match s.allocLine pa hint with
          | .error s => .error s
          | .ok (s, w) => .ok ((s.fetchSectors pa w (({} : QLine).absent 0) j.src 0).getD s, w)
    match fetched with
    | .error s => (none, s)
    | .ok (s, w) =>
      if op = 1 then (some (true, s), s)
      else
        let k := s.half h
        let others := (List.range 16).filter (fun v => v != w && (k.way set v).present)
        let ok := !j.noVictim && decide (others.countP (fun v => (k.way set v).lock) < k.lockMax) &&
          decide ((w :: others).countP (fun v => (k.way set v).lock || (k.way set v).lost != 0) < 4)
        let ok := ok || (k.way set w).lock
        (some (ok, if ok then s.modHalf h (fun k => k.modWay set w (fun l => { l with lock := true })) else s), s)
  else match k.lineAt pa with
    | none => (some (true, s), s)
    | some (w, l) =>
      if op = 3 then (some (true, s.modHalf h (fun k => k.modWay set w (fun l => { l with lock := false, age := 2 }))), s)
      else
        let held := (k.lineHeld ln).filter (fun p => op == 5 || (k.dirOf p).dstate == 2)
        if held ≠ [] ∨ k.lineTrans ln then
          (none, held.foldl (fun s p =>
            if ((s.half h).transAt p).isSome then s else s.openSnoops h p (.maint (op == 4)) (op == 4) false) s)
        else if l.evicting || !s.roomBelow l || (op == 5 && (l.busy || l.filling != 0)) then (none, s)
        else
          let s := s.cleanWay h set w
          if op = 4 then (some (true, s), s)
          else (some (true, s.modHalf h (fun k => k.modWay set w (fun l =>
            if l.lost ≠ 0 then { l with lock := false } else {}))), s)

/-- Process the lines of a maintenance command from the next one on until one has to wait (fuel: lines left). -/
def State.maintRun : Nat → State → MaintJob → State × MaintJob
  | 0, s, j => (s, j)
  | f + 1, s, j =>
    if j.count ≤ j.next then (s, j)
    else
      let pa := j.start.toNat + j.next.toNat * 2048
      match s.maintLine j pa with
      | (none, s) =>
        -- no eligible victim: the line is preloaded unlocked once there is one (R217)
        let full := decide (j.op = 2) && ((s.half (homeEast pa)).lineAt pa).isNone && ((s.half (homeEast pa)).pickWay (quireSet pa)).isNone
        (s, { j with noVictim := j.noVictim || full })
      | (some (ok, s), _) =>
        let u : BitVec 32 := if ok then 0 else 1
        State.maintRun f s (if homeEast pa
          then { j with next := j.next + 1, noVictim := false, doneE := j.doneE + 1, unlockedE := j.unlockedE + u }
          else { j with next := j.next + 1, noVictim := false, doneW := j.doneW + 1, unlockedW := j.unlockedW + u })

/-- Whether a line of a half in a job's range is still being fetched. -/
def State.maintFilling (s : State) (h : Bool) (j : MaintJob) : Bool :=
  decide (j.op.toNat ≤ 2) && (s.half h).lines.any (fun p => p.2.present && p.2.filling != 0 &&
    decide (lineOf j.start.toNat ≤ p.2.line.toNat ∧ p.2.line.toNat < lineOf j.start.toNat + j.count.toNat))

/-- The MaintDone message of a half (R217). -/
def maintDoneMsg (j : MaintJob) (h : Bool) : MemMsg :=
  { vc := 1, op := 6, src := j.src, tag := j.tag, ctl := BitVec.ofNat 128
      (put (if h then j.doneE else j.doneW).toNat 32 32 + put (if h then j.unlockedE else j.unlockedW).toNat 32 0) }

/-- Go on with every maintenance command, and report the halves that have finished theirs. -/
def State.maintGo (s : State) : State :=
  let js := s.sh.maint
  js.foldl (fun s j =>
    let (s, j) := State.maintRun (j.count - j.next).toNat s j
    let ready := fun (h : Bool) => j.next == j.count && !s.maintFilling h j
    let s1 := if !j.sentW && ready false then s.sendMem (maintDoneMsg j false) else s
    let s2 := if !j.sentE && ready true then s1.sendMem (maintDoneMsg j true) else s1
    let j := { j with sentW := j.sentW || ready false, sentE := j.sentE || ready true }
    if j.sentW && j.sentE then s2 else s2.modShared (fun x => { x with maint := x.maint ++ [j] }))
    (s.modShared (fun x => { x with maint := [] }))

/-! ### Progress -/

/-- A request reaches the head of its bank's queue, or stays behind the one that does (R227, R228). -/
def State.enter (s : State) (m : MemMsg) : State :=
  if (s.half (homeEast m.pa.toNat)).queue.any (fun w => bankOf w.pa.toNat == bankOf m.pa.toNat) then s.holdMem m
  else s.serve m

/-- One pass over a half: evictions end, grants go out, waiting requests are served in order, then the queues of the banks. -/
def State.servePass (s : State) (h : Bool) : State :=
  let s := s.finishEvictions h
  let s := (s.half h).trans.foldl (fun s t => match t.what with
    | .core m => if t.waitFor = [] ∧ t.granted.isNone then s.tryGrant h t m else s
    | _ => s) s
  let ws := (s.half h).wait
  let qs := (s.half h).queue
  qs.foldl (fun s m => s.enter m) (ws.foldl (fun s m => s.serve m) (s.modHalf h (fun k => { k with wait := [], queue := [] })))

/-- After anything that may free a resource of a half: passes until every request that waits can only wait, then maintenance goes on. -/
def State.progress (s : State) (h : Bool) : State :=
  ((List.range ((s.half h).wait.length + (s.half h).queue.length + 1)).foldl (fun s _ => s.servePass h) s).maintGo

end Sys2Proof.Machine
end

