-- ==== Sys2Proof/Machine/Quire.lean ====
section
/-!
DEFINITION. Requests at the Quire (R218-R223, R231-R244), the events of a half, its partition (R213-R215) and its maintenance commands
(R216, R217).
-/

namespace Sys2Proof.Machine

/-! ### Requests -/

/-- Base die whose router a source's messages enter first (R210): true is East. -/
def entryDie (src pa : Nat) : Bool :=
  if src < 0x80 then clusterEast src else if 0x100 ≤ src ∧ src < 0x140 then decide (0x120 ≤ src) else homeEast pa

/-- A request enters its bank at its home; the stored bits of the sector that it names have gone wrong where `bad` says so (R243, log 14). -/
def State.accept (s : State) (m : MemMsg) (bad : Bool) : State :=
  ((if bad then s.weaken m.pa.toNat else s).enter m).progress (homeEast m.pa.toNat)

/-- Whether the bank of a request has no entry free for its virtual channel: 32 on VC0, 16 on VC3 (R227, log 87). -/
def State.bankFull (s : State) (m : MemMsg) : Bool :=
  decide ((if m.vc = 3 then 16 else 32) ≤ (s.half (homeEast m.pa.toNat)).queue.countP (fun w =>
    bankOf w.pa.toNat == bankOf m.pa.toNat && w.vc == m.vc))

/-- Take a request at its home in its turn, once its bank has an entry for it. -/
def State.take (s : State) (m : MemMsg) (f : State → State) : State :=
  if s.inTurn m && !s.bankFull m then f (s.arrive (.mem m)) else s

/-- RDSEC (R218-R220, R238, R282). `bad` says that the held sector fails its code check (R243, log 14). -/
def stepRdSec (m : MemMsg) (bad : Bool) (s : State) : State :=
  if isRdSec m then s.take m (fun s => s.accept m bad) else s
def execRdSec (m : MemMsg) (bad : Bool) (s : State) : Host.Outcome State Fault Refusal := .next (stepRdSec m bad s)

/-- The sequential-store detector of a base die marks a full-sector write NoAlloc from the 33rd of its run on (R222). -/
def State.detectAt (s : State) (h : Bool) (m : MemMsg) : State × MemMsg :=
  match takeFirst (fun (t : SeqTracker) => t.src == m.src && t.next == m.pa) (s.half h).seqs with
  | some (t, rest) =>
    let run := t.run + 1
    (s.modHalf h (fun k => { k with seqs := { t with next := m.pa + 128, run := run } :: rest }),
      { m with noAlloc := m.noAlloc || decide (33 ≤ run) })
  | none => (s.modHalf h (fun k => { k with seqs := ({ src := m.src, next := m.pa + 128, run := 1 } :: k.seqs).take 64 }), m)

/-- The detectors that a full-sector write passes: that of the base die it enters, and where it crosses the Hinge that of its home (R222,
R227). -/
def State.detect (s : State) (m : MemMsg) : State × MemMsg :=
  let e := entryDie m.src.toNat m.pa.toNat
  let h := homeEast m.pa.toNat
  let (s, m) := s.detectAt e m
  if e = h then (s, m) else s.detectAt h m

/-- The stored bits of the first dirty sector of the line that an allocation would evict have gone wrong (R243). -/
def State.victimFails (s : State) (pa : Nat) : State :=
  let h := homeEast pa
  let set := quireSet pa
  if isScratch pa || ((s.half h).lineAt pa).isSome then s
  else match (s.half h).pickWay set with
    | none => s
    | some (w, _) => match ((s.half h).way set w).dirtyList with
      | [] => s
      | i :: _ => s.weaken (((s.half h).way set w).line.toNat * 2048 + i * 128)

/-- WRFULL (R221-R223).  `bad` says that the victim of its allocation holds a dirty sector that fails its code check (R243, log 14). -/
def stepWrFull (m : MemMsg) (bad : Bool) (s : State) : State :=
  if isWrFull m then s.take m (fun s =>
    let (s, n) := if m.hint = 3 then (s, m) else s.detect m
    (if bad then s.victimFails n.pa.toNat else s).accept n false)
  else s
def execWrFull (m : MemMsg) (bad : Bool) (s : State) : Host.Outcome State Fault Refusal := .next (stepWrFull m bad s)

/-- WRMASK (R221, R223, R243, R482). -/
def stepWrMask (m : MemMsg) (bad : Bool) (s : State) : State :=
  if isWrMask m then s.take m (fun s => s.accept m bad) else s
def execWrMask (m : MemMsg) (bad : Bool) (s : State) : Host.Outcome State Fault Refusal := .next (stepWrMask m bad s)

/-- ATOMIC (R178, R179, R232). -/
def stepAtomic (m : MemMsg) (bad : Bool) (s : State) : State :=
  if isAtomic m then s.take m (fun s => s.accept m bad) else s
def execAtomic (m : MemMsg) (bad : Bool) (s : State) : Host.Outcome State Fault Refusal := .next (stepAtomic m bad s)

/-- DEAD (R241, R242). -/
def stepDead (m : MemMsg) (s : State) : State := if isDead m then s.take m (fun s => s.accept m false) else s
def execDead (m : MemMsg) (s : State) : Host.Outcome State Fault Refusal := .next (stepDead m s)

/-- REDINT (R231, R232). -/
def stepRedInt (m : MemMsg) (bad : Bool) (s : State) : State :=
  if isRedInt m then s.take m (fun s => s.accept m bad) else s
def execRedInt (m : MemMsg) (bad : Bool) (s : State) : Host.Outcome State Fault Refusal := .next (stepRedInt m bad s)

/-- REDORD (R231, R233-R235, R479, R480). -/
def stepRedOrd (m : MemMsg) (bad : Bool) (s : State) : State :=
  if isRedOrd m then s.take m (fun s => s.accept m bad) else s
def execRedOrd (m : MemMsg) (bad : Bool) (s : State) : Host.Outcome State Fault Refusal := .next (stepRedOrd m bad s)

/-- Opcodes that R225 and R274 list on a virtual channel. -/
def listedOp (vc op : Nat) : Bool :=
  match vc with
  | 0 => decide (1 ≤ op ∧ op ≤ 6)
  | 1 => decide (1 ≤ op ∧ op ≤ 6)
  | 3 => decide (1 ≤ op ∧ op ≤ 3)
  | _ => decide (1 ≤ op ∧ op ≤ 6) || decide (0x10 ≤ op ∧ op ≤ 0x15) || op == 0x18 || op == 0x19 || op == 0x20 || op == 0x21

/-- INVALID_MESSAGE: a message with an unlisted opcode is dropped and recorded with its link; a request is answered Err 0x004 (R225). -/
def stepInvalidMessage (l : BitVec 3) (m : MemMsg) (s : State) : State :=
  if listedOp m.vc.toNat m.op.toNat then s
  else
    let s := (s.arrive (.mem m)).deviceError 4 (link := l.toNat) (op := m.op.toNat)
    if m.vc = 0 ∨ m.vc = 3 then s.answerErr m 4 else s
def execInvalidMessage (l : BitVec 3) (m : MemMsg) (s : State) : Host.Outcome State Fault Refusal :=
  .next (stepInvalidMessage l m s)

/-! ### Events of a half -/

/-- REDUCTION_STALL: a tracker closes with an error to the sources of its staged contributions (R239). -/
def stepReductionStall (h : Bool) (pa : BitVec 48) (s : State) : State :=
  match (s.half h).reds.find? (fun t => t.pa.toNat == sectorBase pa.toNat) with
  | none => s
  | some t => ((s.failTracker h pa.toNat 5).contextError t.ctx.toNat 5).progress h
def execReductionStall (h : Bool) (pa : BitVec 48) (s : State) : Host.Outcome State Fault Refusal :=
  .next (stepReductionStall h pa s)

/-- STORE_TRACKER_EXPIRY: the tracker of a source that was least recently extended is freed (R222). -/
def stepStoreTrackerExpiry (h : Bool) (src : BitVec 12) (s : State) : State :=
  s.modHalf h (fun k => { k with seqs := dropLastWhere (fun t => t.src == src) k.seqs })
def execStoreTrackerExpiry (h : Bool) (src : BitVec 12) (s : State) : Host.Outcome State Fault Refusal :=
  .next (stepStoreTrackerExpiry h src s)

/-- WRITE_AROUND_DRAIN: the oldest sector of the buffer goes to its channel's write queue (R223, R227). -/
def stepWriteAroundDrain (h : Bool) (s : State) : State :=
  match (s.half h).around with
  | [] => s
  | (p, d) :: rest =>
    if 128 ≤ (s.channel (s.placeOf p.toNat).1).writes.length then s
    else ((s.modHalf h (fun k => { k with around := rest })).toChannel h p.toNat d).progress h
def execWriteAroundDrain (h : Bool) (s : State) : Host.Outcome State Fault Refusal := .next (stepWriteAroundDrain h s)

/-! ### Scratchpad ways (R213, R214) -/

/-- Write a half's partition register (R213, R214); none for a value that the table does not list.  Lines in ways that become scratchpad
leave; the scratchpad that stays keeps its content, and what is added is zero. -/
def State.setPartition (s : State) (h : Bool) (v : BitVec 64) : Option State :=
  let n := fld v 11 8
  if 8 < n ∨ 4 < fld v 2 0 then none
  else some ((s.modHalf h (fun k =>
    let change := n != k.scratchWays
    let keep := fun (o : Nat) => decide (o < n * 2 ^ 18)
    { k with part := BitVec.ofNat 64 (putb (bit k.part 16 || change) 16 + put n 4 8 + put (fld v 2 0) 3 0),
             scratch := k.scratch.filter (fun p => keep p.1), bad := k.bad.filter keep })).progress h)

/-- QUIRE_PARTITION: by the admin command or by a core in supervisor mode (R213). -/
def stepQuirePartition (by_ : PartitionBy) (s : State) : State :=
  match by_ with
  | .admin aq => s.admin aq 0x49 (fun s q e =>
      match s.setPartition (bit e 479) (BitVec.ofNat 64 (fld e 478 415)) with
      | none => s.reject q 1
      | some s => s.adminDone q)
  | .core n h v => if (s.core n.toNat).mode = 0 ∨ (s.core n.toNat).virt then s else (s.setPartition h v).getD s
def execQuirePartition (by_ : PartitionBy) (s : State) : Host.Outcome State Fault Refusal := .next (stepQuirePartition by_ s)

/-- SCRATCH_WAYS_CHANGE_DONE: once no line is left in a scratchpad way, Busy clears (R214). -/
def stepScratchWaysChangeDone (h : Bool) (s : State) : State :=
  let k := s.half h
  if k.lines.any (fun p => p.2.present && decide (k.ways ≤ p.1 % 16)) then s
  else s.modHalf h (fun k => { k with part := setB k.part 16 false })
def execScratchWaysChangeDone (h : Bool) (s : State) : Host.Outcome State Fault Refusal :=
  .next (stepScratchWaysChangeDone h s)

/-! ### Maintenance commands (R216, R217) -/

/-- Source under which the job of an admin command runs. -/
def maintSrc (aq : Bool) : BitVec 12 := if aq then 0xFFF else 0xFFE

/-- Whether a maintenance command is one that the table lists and its range lies in stacked memory. -/
def State.maintOk (s : State) (v : BitVec 128) : Bool :=
  let pa := fld v 47 0
  let n := fld v 95 64
  decide (1 ≤ fld v 127 124 ∧ fld v 127 124 ≤ 5) && pa % 2048 == 0 && decide (1 ≤ n) && decide (pa + n * 2048 ≤ s.capacity) &&
  !(fld v 127 124 == 1 && fld v 123 122 == 3)

/-- Start the job of a maintenance command. -/
def State.maintStart (s : State) (v : BitVec 128) (src : BitVec 12) (tag : BitVec 16) : State :=
  let j : MaintJob := { op := BitVec.ofNat 4 (fld v 127 124), hint := BitVec.ofNat 2 (fld v 123 122),
                        start := BitVec.ofNat 48 (fld v 47 0), count := BitVec.ofNat 32 (fld v 95 64), src := src, tag := tag }
  (s.modShared (fun x => { x with maint := x.maint ++ [j] })).maintGo

/-- A maintenance command of a given Op, from an admin queue or a core (R216). -/
def State.maintCmd (s : State) (by_ : MaintBy) (op : Nat) : State :=
  match by_ with
  | .admin aq =>
    let v := fun (e : BitVec 512) => BitVec.ofNat 128 (fld e 479 352)
    match s.readyEntry (if aq then 1 else 0) with
    | none => s
    | some e =>
      if s.maintOk (v e) && fld (v e) 127 124 != op then s
      else s.admin aq 0x4A (fun s q e => if s.maintOk (v e) then s.maintStart (v e) (maintSrc aq) 0 else s.reject q 1)
  | .message m =>
    if m.vc ≠ 0 ∨ m.op ≠ 6 then s
    else if m.hint = 3 || !s.maintOk m.ctl then (s.arrive (.mem m)).answerErr m 4
    else if fld m.ctl 127 124 ≠ op then s
    else (s.arrive (.mem m)).maintStart m.ctl m.src m.tag

/-- QUIRE_PRELOAD (R216, R217). -/
def execQuirePreload (by_ : MaintBy) (s : State) : Host.Outcome State Fault Refusal := .next (s.maintCmd by_ 1)
/-- QUIRE_PRELOAD_AND_LOCK (R216, R217). -/
def execQuirePreloadAndLock (by_ : MaintBy) (s : State) : Host.Outcome State Fault Refusal := .next (s.maintCmd by_ 2)
/-- QUIRE_UNLOCK (R217). -/
def execQuireUnlock (by_ : MaintBy) (s : State) : Host.Outcome State Fault Refusal := .next (s.maintCmd by_ 3)
/-- QUIRE_WRITE_BACK (R216). -/
def execQuireWriteBack (by_ : MaintBy) (s : State) : Host.Outcome State Fault Refusal := .next (s.maintCmd by_ 4)
/-- QUIRE_WRITE_BACK_INVALIDATE (R217). -/
def execQuireWriteBackInvalidate (by_ : MaintBy) (s : State) : Host.Outcome State Fault Refusal := .next (s.maintCmd by_ 5)

end Sys2Proof.Machine
end

