-- ==== Sys2Proof/Machine/Xlate.lean ====
section
/-!
DEFINITION. Walks in flight (R291-R297, R305), copy transfers and their faults (R300-R304, R318), window accesses at this module
(R306-R311, R354, R371), and the commands that change mappings (R299, R303, R310).
-/

namespace Sys2Proof.Machine

/-! ### The ends of copy transfers (R300-R304, R318) -/

/-- COPY_COMPLETE: after the last byte, or an early end; a transfer that an error in context 0 halts ends at its boundary, one of a held
context stays (R313, R318, R338, R339). -/
def stepCopyComplete (e : BitVec 6) (s : State) : State :=
  let k := s.engine e.toNat
  if k.queue.isNone || s.engineBusy e.toNat then s
  else if k.halt = some endsByReset then s.copyDrop e.toNat
  else match k.ends with
    | some st => s.copyEnd e.toNat st.toNat
    | none =>
      if !k.stopped && k.done.toNat == Ent.length k.entry then s.copyEnd e.toNat 0
      else if k.halted && k.halt != some 0xFF then s.copyEnd e.toNat (k.halt.getD 0).toNat
      else s
def execCopyComplete (e : BitVec 6) (s : State) : Host.Outcome State Fault Refusal := .next (stepCopyComplete e s)

/-- Level of the leaf that translates an address for an engine's transfer. -/
def State.leafLevel (s : State) (src e va : Nat) : Nat :=
  match s.look src ((s.engineCtx e).getD 0) va with
  | .hit t => t.level
  | _ => 0

/-- An answer with an error reaches a copy engine (R300, R318). -/
def State.copyErr (s : State) (e : Nat) (write : Bool) (code : Nat) : State :=
  let k := s.engine e
  let va := (if write then Ent.dst k.entry else Ent.src k.entry) + k.done.toNat
  if code = 1 then
    if write then (s.modEngine e (fun k => { k with ends := some 3, held := [] })).copyDrop e
    else if k.rereads = 3 then (s.modEngine e (fun k => { k with ends := some 3 })).copyDrop e
    else (s.modEngine e (fun k => { k with rereads := k.rereads + 1 })).copyGo e
  else if code = 2 ∨ code = 4 then
    (s.copyStop e 2 (if write then copyDir k.entry else 0) false 0xA (s.leafLevel (engineSrc e) e va) va).copyDrop e
  else (s.modEngine e (fun k => { k with stopped := true })).copyDrop e

/-- TRANSLATION_FAULT_RECORD: once the log has room the window records that wait for it are written, then that of a stopped engine (R301); an
engine whose transfer has been given up meanwhile takes up its next. -/
def stepTranslationFaultRecord (e : BitVec 6) (s : State) : State :=
  let k := s.engine e.toNat
  if faultLogRoom ≤ s.faultLog.length then s
  else match s.sh.faultWait with
    | r :: rest => (s.modShared (fun h => { h with faultWait := rest })).writeFault r
    | [] =>
      if !k.recordWaits then s
      else ((s.writeFault k.record).modEngine e.toNat (fun k => { k with recordWaits := false })).copyBegin e.toNat
def execTranslationFaultRecord (e : BitVec 6) (s : State) : Host.Outcome State Fault Refusal :=
  .next (stepTranslationFaultRecord e s)

/-- COPY_STALL: a transfer stopped for 10 s (R304, R336). -/
def stepCopyStall (e : BitVec 6) (s : State) : State :=
  let k := s.engine e.toNat
  match k.queue with
  | none => s
  | some q =>
    if !k.stopped then s
    else
      let x := (s.queue q.toNat).ctx
      (s.seqError 3 x (engine := e.toNat)).contextError x 3
def execCopyStall (e : BitVec 6) (s : State) : Host.Outcome State Fault Refusal := .next (stepCopyStall e s)

/-- Fault resume (R303): a retry of a transfer that may not be retried, or any action on an engine that is not stopped, is rejected. -/
def State.faultResume (s : State) (aq : Bool) (action : Nat) (f : State → Nat → State) : State :=
  match s.readyEntry (if aq then 1 else 0) with
  | none => s
  | some e0 =>
    if fld e0 473 472 ≠ action ∧ fld e0 473 472 ≤ 1 then s
    -- no record is lost: the command waits until the engine has written its own (R301)
    else if (s.engine (fld e0 479 474)).recordWaits then s
    else s.admin aq 0x48 (fun s q ent =>
      let e := fld ent 479 474
      let k := s.engine e
      if 1 < fld ent 473 472 then s.reject q 1
      else if k.queue.isNone || !k.stopped then s.reject q 2
      else if action = 0 ∧ !bit k.record 249 then s.reject q 2
      else f (s.adminDone q) e)

/-- FAULT_RESUME_RETRY: the transfer goes on from byte Done and translates again (R303). -/
def stepFaultResumeRetry (aq : Bool) (s : State) : State :=
  s.faultResume aq 0 (fun s e =>
    ((s.modEngine e (fun k => { k with stopped := false })).clearFails (engineSrc e)).copyGo e)
def execFaultResumeRetry (aq : Bool) (s : State) : Host.Outcome State Fault Refusal := .next (stepFaultResumeRetry aq s)

/-- FAULT_RESUME_ABORT: the transfer ends with status 0x02 (R303, R319). -/
def stepFaultResumeAbort (aq : Bool) (s : State) : State := s.faultResume aq 1 (fun s e => s.copyEnd e 2)
def execFaultResumeAbort (aq : Bool) (s : State) : Host.Outcome State Fault Refusal := .next (stepFaultResumeAbort aq s)

/-! ### Windows at this module (R307-R311, R371) -/

namespace Win
def valid (w : BitVec 128) : Bool := bit w 127
def src (w : BitVec 128) : Nat := fld w 126 125
def admits (w : BitVec 128) (dir : Nat) : Bool := if dir = 1 then bit w 124 else if dir = 0 then bit w 123 else bit w 122
def ctx (w : BitVec 128) : Nat := fld w 121 110
def gen (w : BitVec 128) : Nat := fld w 109 106
def anyNode (w : BitVec 128) : Bool := bit w 105
def node (w : BitVec 128) : Nat := fld w 104 81
def base (w : BitVec 128) : Nat := fld w 80 33
def length (w : BitVec 128) : Nat := fld w 32 5 * 4096
end Win

def winSrc (a : HeldAccess) : Nat := match a.port with | none => 0x300 | some p => 0x301 + p.toNat

/-- Answer an access of the fabric (R371). -/
def State.winAnswer (s : State) (a : HeldAccess) (op reason : Nat) (data : List (BitVec 128)) : State :=
  match a.port, a.msg.units with
  | some _, u :: _ => s.sendEtmos
      { vc := 1, len := BitVec.ofNat 6 (3 + data.length), op := BitVec.ofNat 8 op, dst := a.msg.src, src := 0,
        units := setF u 33 30 reason :: data }
  | _, _ => s

/-- Take the access at the head of a window away. -/
def State.dropHeld (s : State) (a : HeldAccess) : State := s.modFabric (fun f => { f with held := f.held.erase a })

/-- A rejected access (R309): dropped, a record of Kind 0x3, and a window error to a sender on the fabric. -/
def State.winReject (s : State) (a : HeldAccess) (reason level va : Nat) : State :=
  let w := tget 0 s.windows a.win.toNat
  let x := Win.ctx w
  let node := match a.port with | none => 0xFFFFFF | some _ => a.msg.src.toNat
  (((s.dropHeld a).clearFails (winSrc a)).writeFault
    (faultRecord 3 a.dir.toNat false 0 x (Win.gen w) level node a.win.toNat reason va 0 0 s.time32)).winAnswer a 3 reason []

/-- The requests of a permitted access at the Quire, in ascending order (R308). -/
def State.winIssue (s : State) (a : HeldAccess) (x pa : Nat) : State :=
  let src := BitVec.ofNat 12 (winSrc a)
  let first := pa / 128
  let last := (pa + a.n - 1) / 128
  let a1 : HeldAccess := { a with pa := some (BitVec.ofNat 48 pa) }
  let s := s.modFabric (fun f => { f with held := f.held.map (fun h => if h = a then a1 else h) })
  let base : MemMsg := { vc := 0, op := 1, src := src, tag := 0, ctx := BitVec.ofNat 12 x, gen := BitVec.ofNat 4 (s.genOf x), pa := 0 }
  (List.range (last + 1 - first)).foldl (fun s i =>
    let b := (first + i) * 128
    let p := BitVec.ofNat 48 b
    let lo := max b pa
    let n := min (b + 128) (pa + a.n) - lo
    let bs := (a.bytes.drop (lo - pa)).take n
    let d : Sector := BitVec.ofNat 1024 (leNat bs <<< (8 * (lo % 128)))
    let m : MemMsg :=
      if a.dir = 0 then { base with pa := p }
      else if a.dir = 1 then
        (if n = 128 then { base with op := 2, pa := p, data := d }
         else { base with op := 3, pa := p, data := d, ctl := byteMask lo n })
      else { base with vc := 3, op := if a.msg.op = 3 then 2 else 1, pa := p, data := d, ctl := a.msg.units.getD 1 0 }
    s.request m (.window a.win)) s

/-- Serve the access at the head of a window (R308): the checks in order, then its translation; a walk that misses holds it.  The checks that
come before a walk give Level 0 (log 98), and an entry that is found is the most recently used, be the access refused or not (R481). -/
def State.winServe (s : State) (a : HeldAccess) : State :=
  let w := tget 0 s.windows a.win.toNat
  let x := Win.ctx w
  let va := Win.base w + a.off.toNat
  let dir := a.dir.toNat
  let admitted := match a.port with
    | none => Win.src w % 2 == 1
    | some _ => decide (2 ≤ Win.src w) && (Win.anyNode w || Win.node w == a.msg.src.toNat)
  if !Win.valid w || Win.gen w != s.genOf x then s.winReject a 6 0 0
  else if !admitted then s.winReject a 7 0 0
  else if !Win.admits w dir then s.winReject a 3 0 0
  else if Win.length w ≤ a.off.toNat then s.winReject a 5 0 0
  else match s.look (winSrc a) x va with
    | .fail f => s.winReject a f.reason f.level va
    | .miss => s.startWalk (winSrc a) x va
    | .hit t =>
      let s := s.tlbTouch (winSrc a) t
      if t.remote then s.winReject a 8 t.level va
      else if !t.pin || (if dir = 0 then !t.r else !t.w) then s.winReject a 3 t.level va
      else s.winIssue a x (t.addr va)

/-- The access at the head of a window has all its answers: a read returns its data, a reduction its acceptance (R371).  The spec names no
reason for a read or reduction that met uncorrectable data, a conflict or a stall: it is a free one of those it lists (R302, log 9). -/
def State.winFinish (s : State) (a : HeldAccess) (pa : Nat) : State :=
  let s := s.dropHeld a
  if a.dir = 1 then s
  else if a.code ≠ 0 then
    (if a.code = 0xFFF then s.winAnswer a 3 6 []
     else if a.code = 2 ∨ a.code = 4 then s.winAnswer a 3 0xA []
     else let (v, s) := s.fresh; s.winAnswer a 3 (1 + v.toNat % 10) [])
  else if a.dir = 0 then s.winAnswer a 1 0 (dataUnits (readBytes a.got pa a.n))
  else s.winAnswer a 2 0 []

/-- Serve a window's accesses in arrival order (fuel: accesses held). -/
def State.winGoN : Nat → State → BitVec 12 → State
  | 0, s, _ => s
  | f + 1, s, win =>
    match s.fabric.held.find? (fun a => a.win == win) with
    | none => s
    | some a =>
      match a.pa with
      | some pa =>
        if s.sh.reqs.any (fun r => r.why == .window win) then s
        else State.winGoN f (s.winFinish a pa.toNat) win
      | none =>
        let s := s.winServe a
        if s.fabric.held.contains a then s else State.winGoN f s win

def State.winGo (s : State) (win : BitVec 12) : State := State.winGoN (s.fabric.held.length + 1) s win

/-- Windows whose accesses are held. -/
def State.winGoAll (s : State) : State :=
  ((s.fabric.held.map (fun a => a.win)).eraseDups).foldl (fun s w => s.winGo w) s

/-- An access arrives at a window. -/
def State.winArrive (s : State) (a : HeldAccess) : State :=
  (s.modFabric (fun f => { f with held := f.held ++ [a] })).winGo a.win

/-- Cut bytes that begin at an offset at 4 KiB boundaries (fuel: the number of bytes). -/
def cutPages : Nat → Nat → List Byte → List (Nat × List Byte)
  | 0, _, _ => []
  | f + 1, off, bs =>
    if bs = [] then []
    else
      let n := 4096 - off % 4096
      (off, bs.take n) :: cutPages f (off + n) (bs.drop n)

def noEtmos : EMsg := { vc := 0, len := 0, op := 0, dst := 0, src := 0xFFFFFF }

/-- A host write through the ingress aperture: window and offset from the aperture offset; a write is one access for each 4 KiB page it
touches (R311). -/
def State.ingress (s : State) (off : Nat) (bytes : List Byte) : State :=
  (cutPages bytes.length off bytes).foldl (fun s (o, bs) => s.winArrive
    { win := BitVec.ofNat 12 (o / 2 ^ 28), port := none, msg := noEtmos, dir := 1, off := BitVec.ofNat 40 (o % 2 ^ 28),
      n := bs.length, bytes := bs }) s

/-! ### Walks in flight (R291-R297) -/

/-- What waits for the walks of a source goes on: lane entries issue again (R297), copy engines and windows try once more. -/
def State.walkEnded (s : State) (src : Nat) : State :=
  if src < 0x100 then s.modCluster src (fun k => { k with groups := tmap {} k.groups (fun _ g =>
      { g with stack := g.stack.map (fun e => { e with walking := false }) }) })
  else if src < 0x300 then s.copyGo (src - 0x200)
  else s.winGoAll

/-- The walk that a read belongs to. -/
def State.walkOf (s : State) (src : BitVec 12) (x : BitVec 12) (page : BitVec 48) (seq : Nat) : Option Walk :=
  s.sh.walks.find? (fun w => w.src == src && w.ctx == x && w.va == page && w.seq == seq)

/-- A walk leaves its walker, which takes up the first that waits for it (R296). -/
def State.dropWalk (s : State) (w : Walk) : State :=
  let s := s.modShared (fun h => { h with walks := h.walks.erase w })
  match takeFirst (fun (q : BitVec 12 × BitVec 12 × BitVec 48) => walkDie q.1.toNat == walkDie w.src.toNat) s.sh.walkQueue with
  | none => s
  | some (q, rest) => (s.modShared (fun h => { h with walkQueue := rest })).startWalk q.1.toNat q.2.1.toNat q.2.2.toNat

/-- A walk fails: the failure is kept for the accesses that wait, and never cached beyond them (R294).  Copy engines and windows take note of
it at once; of a cluster, the units that wait for the page. -/
def State.walkFail (s : State) (w : Walk) (f : XFail) : State :=
  let r : WalkFail := { src := w.src, ctx := w.ctx, page := w.va, reason := BitVec.ofNat 4 f.reason, level := BitVec.ofNat 2 f.level }
  let src := w.src.toNat
  let t := ((s.dropWalk w).modShared (fun h => { h with walkFails := h.walkFails.filter (fun o =>
    !(o.src == r.src && o.ctx == r.ctx && o.page == r.page)) ++ [r] })).walkEnded src
  if src < 0x100 then t.dropFails src else t.clearFails src

/-- A walk ends in a translation (R296, R481). -/
def State.walkHit (s : State) (w : Walk) (t : TlbEnt) : State :=
  let src := w.src.toNat
  let s := s.dropWalk w
  (s.setTlb src (s.tlbInsert src (s.tlbOf src) t)).walkEnded src

/-- The next read of a walk (R294). -/
def State.walkRead (s : State) (old new : Walk) (a : Nat) : State :=
  (s.modShared (fun h => { h with walks := h.walks.map (fun w => if w = old then new else w) })).request
    { vc := 0, op := 1, src := new.src, tag := 0, ctx := new.ctx, gen := new.gen, pa := BitVec.ofNat 48 (sectorBase a) }
    (.walk new.ctx new.va new.seq)

/-- A walk's read is answered with data (R291-R295, R305). -/
def State.walkData (s : State) (w : Walk) (d : Sector) : State :=
  let x := w.ctx.toNat
  let va := w.va.toNat
  let level := w.level.toNat
  match w.leaf with
  | some e =>
    let sa := fld (s.ctx x).xlat 119 84 * 4096 + fld e 55 48 * 16
    let slot := BitVec.ofNat 128 (sectorNum d sa 16)
    if bit slot 127 then s.walkHit w (leafEnt x w.gen.toNat va w.leafLevel.toNat e slot)
    else s.walkFail w { reason := 2, level := w.leafLevel.toNat }
  | none =>
    let e := BitVec.ofNat 64 (sectorNum d (pteAddr w.table.toNat level va) 8)
    match s.walkStep x level va e with
    | .fail f => s.walkFail w f
    | .table t =>
      let lo := BitVec.ofNat 48 (va / 2 ^ wcLg level * 2 ^ wcLg level)
      let c : WcEnt := { ctx := w.ctx, gen := w.gen, level := w.level, lo := lo, table := BitVec.ofNat 48 t }
      let s := s.wcInsert w.src.toNat c
      s.walkRead w { w with level := w.level - 1, table := BitVec.ofNat 48 t } (pteAddr t (level - 1) va)
    | .leaf =>
      if fld e 2 1 = 2 then
        s.walkRead w { w with leaf := some e, leafLevel := w.level } (fld (s.ctx x).xlat 119 84 * 4096 + fld e 55 48 * 16)
      else s.walkHit w (leafEnt x w.gen.toNat va level e 0)

/-- A walk's read is answered with an error (R293). -/
def State.walkErr (s : State) (w : Walk) (code : Nat) : State :=
  s.walkFail w { reason := if code = 1 then 9 else 2, level := (if w.leaf.isSome then w.leafLevel else w.level).toNat }

/-! ### Changing mappings (R299, R307, R310) -/

/-- TRANSLATION_INVALIDATE: waits for the accesses of the context, then removes every entry that touches the range; every walk of the context in
flight begins anew, since a walk of another page may end in an entry that covers part of the range (R299, R310). -/
def stepTranslationInvalidate (aq : Bool) (s : State) : State :=
  match s.readyEntry (if aq then 1 else 0) with
  | none => s
  | some e0 =>
    if s.sh.reqs.any (fun r => r.msg.ctx.toNat == Ent.ctx e0 && !(match r.why with | .walk _ _ _ => true | _ => false)) ||
       s.fabric.winReqs.any (fun r => r.ctx.toNat == Ent.ctx e0) then s
    else s.admin aq 0x47 (fun s q e =>
      let x := Ent.ctx e
      let lo := fld e 466 419
      let hi := lo + fld e 418 387 * 4096
      let touch := fun (c : BitVec 12) (a lg : Nat) => c.toNat == x && (bit e 467 || decide (a < hi ∧ lo < a + 2 ^ lg))
      let keep := fun (t : TlbEnt) => !touch t.ctx t.lo.toNat t.lg.toNat
      let keepW := fun (t : WcEnt) => !touch t.ctx t.lo.toNat (wcLg t.level.toNat)
      let mine := s.sh.walks.filter (fun w => w.ctx.toNat == x)
      let s := { s with clusters := tmap {} s.clusters (fun _ u => { u with tlb := u.tlb.filter keep, xlat := u.xlat.filter (fun p => keep p.2) }),
                        engines := tmap {} s.engines (fun _ u => { u with tlb := u.tlb.filter keep }) }
      let fails := s.sh.walkFails.filter (fun f => !touch f.ctx f.page.toNat 12)
      let s := s.modShared (fun h =>
        { h with winTlb := h.winTlb.filter keep, wcWest := h.wcWest.filter keepW, wcEast := h.wcEast.filter keepW })
      let queued := s.sh.walkQueue.filter (fun q => touch q.2.1 q.2.2.toNat 12)
      let s := s.modShared (fun h => { h with wcSpine := h.wcSpine.filter keepW, walkFails := fails })
      let s := queued.foldl (fun s q => s.walkEnded q.1.toNat) (s.modShared (fun h =>
        { h with walkQueue := h.walkQueue.filter (fun q => !queued.contains q) }))
      (mine.foldl (fun s w => (s.dropWalk w).walkEnded w.src.toNat) s).adminDone q)
def execTranslationInvalidate (aq : Bool) (s : State) : Host.Outcome State Fault Refusal := .next (stepTranslationInvalidate aq s)

/-- WINDOW_SET: waits for the accesses translated under the old entry (R307, R310); window 0 is not to be set (R351). -/
def stepWindowSet (aq : Bool) (s : State) : State :=
  match s.readyEntry (if aq then 1 else 0) with
  | none => s
  | some e0 =>
    if s.fabric.held.any (fun a => a.win.toNat == Ent.ctx e0 && a.pa.isSome) then s
    else s.admin aq 0x46 (fun s q e =>
      let win := Ent.ctx e
      let w := BitVec.ofNat 128 (fld e 467 340)
      if win = 0 then s.reject q 3
      else if fld w 4 0 ≠ 0 ∨ (Win.valid w ∧ Win.src w = 0) ∨ Win.base w % 4096 ≠ 0 then s.reject q 1
      else ({ s with windows := tput 0 s.windows win w }.adminDone q).winGo (BitVec.ofNat 12 win))
def execWindowSet (aq : Bool) (s : State) : Host.Outcome State Fault Refusal := .next (stepWindowSet aq s)

end Sys2Proof.Machine
end

