-- ==== Sys2Proof/Machine/Submit.lean ====
section
/-!
DEFINITION. Doorbells, entry fetch and stamps (R320-R324, R327), fence waits and the wait graph (R329, R330, R334, R335), and the entries
that need no unit of their own (R313, R316, R318).
-/

namespace Sys2Proof.Machine

/-- Difference of two stamps modulo 65,536. -/
def stampDiff (a b : Nat) : Nat := (a + 65536 - b % 65536) % 65536

/-! ### Doorbells (R320, R321) -/

/-- A doorbell for a queue with a value: accepted, or ignored with a record of Kind 0x5 (R321); an armed queue takes a wake (R323), and
so does a sleeping module (R404). -/
def State.ringDoorbell (s : State) (q v : Nat) : State :=
  let k := s.queue q
  let t := v % 65536
  if k.st ≠ 0 ∧ stampDiff t k.head ≤ 2 ^ k.ringLog2.toNat then
    (s.modQueue q (fun k =>
      let k := k.setTail t
      if k.armed && t != k.head then
        let k := k.setArmed false
        if k.st = 1 then k.setSt 2 else k
      else k)).wake
  else s.seqError 5 k.ctx (members := [q])

/-- What the host sends while the module is in Dormant, on its way there or waking from it: the endpoint grants no credits, so it waits,
and it wakes the module (R402-R404). -/
def State.holdHost (s : State) (o : HostOp) : State :=
  let t := s.modHost (fun h => { h with held := h.held ++ [o] })
  if s.powerState = 3 ∨ s.powerState = 4 then t.hostCalls else t

/-- A doorbell from the host at the queue's page of BAR0, offset 0 only (R320). -/
def State.hostDoorbell (s : State) (off : Nat) (value : Word) : State :=
  if off % 4096 = 0 then s.ringDoorbell (off / 4096) value.toNat else s

/-- DOORBELL: from the host, or from a core at q * 8 of the aperture (R320, R333). -/
def stepDoorbell (host : Bool) (off : BitVec 26) (value : Word) (s : State) : State :=
  let o := off.toNat
  if host then (if s.hostWaits then s.holdHost (.doorbell off value) else s.hostDoorbell o value)
  else if s.hostWaits then s
  else if o < 0x20000 ∧ o % 8 = 0 then s.ringDoorbell (o / 8) value.toNat
  else s
def execDoorbell (host : Bool) (off : BitVec 26) (value : Word) (s : State) : Host.Outcome State Fault Refusal :=
  .next (stepDoorbell host off value s)

/-! ### Fetch (R322-R324, R327) -/

/-- Address of the entry with a stamp (R315). -/
def Queue.slotVA (k : Queue) (stamp : Nat) : Nat := k.ring.toNat + stamp % 2 ^ k.ringLog2.toNat * 64

/-- Whether two queues share a fetcher: the global front end, or the direct fetcher of an octet (R312). -/
def sameFetcher (a b : Queue) : Bool :=
  (a.type == 2) == (b.type == 2) && (a.type != 2 || a.bind == b.bind)

/-- Whether a queue's fetcher is at work for it: no entry of it waits for its stamp (R322).  An entry that runs, or a fence wait that is not
satisfied, keeps nothing from being fetched (R323, log 88). -/
def Queue.fetches (k : Queue) : Bool := (k.st == 2 || k.st == 4 || k.st == 5) && k.stampAt.isNone

/-- Whether a queue may be fetched from now, fetcher limits apart. -/
def Queue.wantsFetch (k : Queue) : Bool := k.fetches && k.head != k.tail && decide (k.held < 4)

/-- Whether a queue's context is being reset: the queue is not fetched from (R340 step 1). -/
def State.feedStopped (s : State) (k : Queue) : Bool := (s.ctx k.ctx).resetting

/-- Number of a fetcher and of a priority in it, for the queue that it served last (R324). -/
def Queue.ring_ (k : Queue) : Nat := (if k.type = 2 then k.bind + 1 else 0) * 2 + (if bit k.reg 3 then 1 else 0)

/-- How far a queue is from its turn: queues of one priority are served round-robin, each after the one served last (R324). -/
def State.turnOf (s : State) (q : Nat) (k : Queue) : Nat :=
  (q + 16383 - (tget 16383 s.sh.lastFetch k.ring_).toNat) % 16384

/-- Whether another queue of the fetcher is to be served first (R324). -/
def State.fetchBehind (s : State) (q : Nat) (k : Queue) : Bool :=
  s.queues.any (fun (p, r) => p != q && r.st != 0 && sameFetcher r k && r.wantsFetch && !s.feedStopped r &&
    (if bit r.reg 3 == bit k.reg 3 then decide (s.turnOf p r < s.turnOf q k) else bit r.reg 3))

/-- Whether a queue's fetcher has a fetch slot and buffer room: 256 and 4,096 of the global front end, 16 and 64 of a direct fetcher (R324,
R327). -/
def State.fetchRoom (s : State) (k : Queue) : Bool :=
  let peers := (s.queues.filter (fun p => p.2.st != 0 && sameFetcher p.2 k)).map (fun p => p.2)
  let inFlight : Nat := peers.foldl (fun n p => n + p.inFetch) 0
  let held : Nat := peers.foldl (fun n p => n + p.fetched.length + p.inFetch) 0
  decide (inFlight < (if k.type = 2 then 16 else 256)) && decide (held < (if k.type = 2 then 64 else 4096))

/-- ENTRY_FETCH (R323, R324, R327): a fetch where the fetcher has a slot and buffer room and it is the queue's turn; an empty queue is
armed, and idle if nothing of it is left to run. -/
def stepEntryFetch (q : BitVec 14) (s : State) : State :=
  let k := s.queue q.toNat
  if !k.fetches || s.feedStopped k then s
  else if k.head = k.tail then
    s.modQueue q.toNat (fun k => let k := k.setArmed true; if k.held = 0 then k.setSt 1 else k)
  else if !k.wantsFetch || !s.fetchRoom k || s.fetchBehind q.toNat k then s
  else
    let s1 := (s.modShared (fun h => { h with lastFetch := tput 16383 h.lastFetch k.ring_ q })).noteWalk k.ctx (k.slotVA k.head)
    match s.walk k.ctx (k.slotVA k.head) with
    | .ok t =>
      if t.remote || !t.r then s1.modQueue q.toNat (fun k => (k.setSt 7).setErr 2)
      else s1.modQueue q.toNat (fun k => { k.setHead ((k.head + 1) % 65536) with inFetch := k.inFetch + 1 })
    | .error _ => s1.modQueue q.toNat (fun k => (k.setSt 7).setErr 2)
def execEntryFetch (q : BitVec 14) (s : State) : Host.Outcome State Fault Refusal := .next (stepEntryFetch q s)

/-- An entry read at a stamp's slot: taken up if its Stamp matches (R322); a read that fails leaves Head at that entry.  The read waits for
an ordered reduction into its sector to end (R238). -/
def State.takeEntry (s : State) (q stamp : Nat) (ok wait : State → State) : State :=
  let k := s.queue q
  if s.tracksVA k.ctx (k.slotVA stamp) 64 then s
  else
    let s1 := s.noteVA k.ctx (k.slotVA stamp) 64
    match s.readVA k.ctx (k.slotVA stamp) 64 with
    | none => s1.modQueue q (fun k =>
        { ((k.setHead stamp).setSt (if k.st = 6 ∨ k.st = 7 then k.st else 7)).setErr 2 with inFetch := 0, stampAt := none })
    | some bs =>
      let e : BitVec 512 := BitVec.ofNat 512 (leNat bs)
      if Ent.stamp e = stamp then ok (s1.modQueue q (fun k => { k with fetched := k.fetched ++ [e] })) else wait s1

/-- ENTRY_ARRIVAL: the oldest fetch in flight arrives; on a mismatch the queue waits for the stamp, and Head stays at that entry
(R322). -/
def stepEntryArrival (q : BitVec 14) (s : State) : State :=
  let k := s.queue q.toNat
  if k.inFetch = 0 then s
  else
    let stamp := stampDiff k.head k.inFetch
    s.takeEntry q.toNat stamp (fun s => s.modQueue q.toNat (fun k => { k with inFetch := k.inFetch - 1 }))
      (fun s => s.modQueue q.toNat (fun k =>
        let k : Queue := { k.setHead stamp with inFetch := 0 }
        if k.st = 6 ∨ k.st = 7 then k else { k with stampAt := some s.launchCounter }.settle))
def execEntryArrival (q : BitVec 14) (s : State) : Host.Outcome State Fault Refusal := .next (stepEntryArrival q s)

/-- Whether a queue rereads the entry at Head until its Stamp matches (R322). -/
def Queue.rereads (k : Queue) : Bool := k.stampAt.isSome && k.st != 0 && k.st != 6 && k.st != 7

/-- STAMP_REREAD (R322), with a fetch slot and buffer room (R324, R327). -/
def stepStampReread (q : BitVec 14) (s : State) : State :=
  let k := s.queue q.toNat
  if !k.rereads || !s.fetchRoom k then s
  else s.takeEntry q.toNat k.head
    (fun s => s.modQueue q.toNat (fun k => { k.setHead ((k.head + 1) % 65536) with stampAt := none }.settle)) id
def execStampReread (q : BitVec 14) (s : State) : Host.Outcome State Fault Refusal := .next (stepStampReread q s)

/-- STAMP_TIMEOUT (R322). -/
def stepStampTimeout (q : BitVec 14) (s : State) : State :=
  let k := s.queue q.toNat
  if !k.rereads then s
  else (s.modQueue q.toNat (fun k => { (k.setSt 7).setErr 1 with stampAt := none })).seqError 4 k.ctx (members := [q.toNat])
def execStampTimeout (q : BitVec 14) (s : State) : Host.Outcome State Fault Refusal := .next (stepStampTimeout q s)

/-! ### Entries of every queue (R313, R316) -/

/-- INVALID_ENTRY: status 0x06 with the Info of a copy where it is one, and no other effect (R316, R319); status 0x08 at queue 0 without a host
(R352). -/
def stepInvalidEntry (q : BitVec 14) (s : State) : State :=
  match s.readyEntry q.toNat with
  | none => s
  | some e =>
    if s.attachOnly q.toNat e then (s.beginEntry q.toNat e).complete q.toNat 8 2
    else if s.entryValid q.toNat e then s
    else (s.beginEntry q.toNat e).complete q.toNat 6 (if Ent.op e = 2 then Ent.xfer e else 0)
def execInvalidEntry (q : BitVec 14) (s : State) : Host.Outcome State Fault Refusal := .next (stepInvalidEntry q s)

/-- NOP (R313). -/
def stepNop (q : BitVec 14) (s : State) : State := s.runEntry q.toNat 4 (fun s _ => s.complete q.toNat 0)
def execNop (q : BitVec 14) (s : State) : Host.Outcome State Fault Refusal := .next (stepNop q s)

/-- COPY: the entry goes to the engine its queue is bound to (R312, R318). -/
def stepCopy (q : BitVec 14) (s : State) : State :=
  s.runEntry q.toNat 2 (fun s _ =>
    let e := (s.queue q.toNat).bind
    (s.modEngine e (fun k => { k with todo := k.todo ++ [q] })).copyBegin e)
def execCopy (q : BitVec 14) (s : State) : Host.Outcome State Fault Refusal := .next (stepCopy q s)

/-! ### Fence waits (R329, R330) -/

/-- Whether a fence wait's target has reached its Value. -/
def State.fenceMet (s : State) (e : BitVec 512) : Bool := decide (Ent.value e ≤ (s.queue (Ent.target e)).done)

/-- FENCE_WAIT: satisfied at once, or its queue blocks in State 4 and the detector is to walk from it (R329, R335). -/
def stepFenceWait (q : BitVec 14) (s : State) : State :=
  s.runEntry q.toNat 3 (fun s e =>
    if s.fenceMet e then s.complete q.toNat 0
    else { s with walkPending := s.walkPending ++ [q] })
def execFenceWait (q : BitVec 14) (s : State) : Host.Outcome State Fault Refusal := .next (stepFenceWait q s)

/-- The fence wait a queue is blocked at (R334). -/
def State.blockedAt (s : State) (q : Nat) : Option (BitVec 512) :=
  let k := s.queue q
  if k.st = 4 then k.fence else none

/-- FENCE_WAIT_SATISFIED (R330): also where the queue has met an error of its own fetching since. -/
def stepFenceWaitSatisfied (q : BitVec 14) (s : State) : State :=
  match (s.queue q.toNat).fence with
  | none => s
  | some e => if s.fenceMet e ∧ !(s.queue q.toNat).halted then s.complete q.toNat 0 else s
def execFenceWaitSatisfied (q : BitVec 14) (s : State) : Host.Outcome State Fault Refusal := .next (stepFenceWaitSatisfied q s)

/-- Follow the edges from a queue until one is back at the first or leads to a queue in another state (R334, R335; fuel: queues). -/
def State.waitCycle (s : State) (first : Nat) : Nat → Nat → List Nat → Option (List Nat)
  | 0, _, _ => none
  | f + 1, q, acc =>
    match s.blockedAt q with
    | none => none
    | some e =>
      let t := Ent.target e
      if t = first then some (acc ++ [q]) else s.waitCycle first f t (acc ++ [q])

/-- WAIT_GRAPH_WALK: the walk from a queue that entered State 4; a cycle puts its context in error (R335, R336). -/
def stepWaitGraphWalk (q : BitVec 14) (s : State) : State :=
  match s.walkPending with
  | [] => s
  | p :: rest =>
    if p ≠ q then s
    else
      let s := { s with walkPending := rest }
      match s.waitCycle q.toNat 16384 q.toNat [] with
      | none => s
      | some ms =>
        let x := (s.queue q.toNat).ctx
        (s.seqError 1 x (len := ms.length) (members := ms)).contextError x 1
def execWaitGraphWalk (q : BitVec 14) (s : State) : Host.Outcome State Fault Refusal := .next (stepWaitGraphWalk q s)

end Sys2Proof.Machine
end

