-- ==== Sys2Proof/Machine/ZArch.lean ====
section
/-!
DEFINITION. The architecture of a Zawick core (R268): its registers and CSRs, traps and interrupts, compressed instructions, the integer
and floating-point instructions that lanes do not have, and which addresses its memory protection admits.  The RISC-V specifications
are followed where R268 names no choice (log 30).
-/

namespace Sys2Proof.Machine

/-! ### Registers -/

def ZCore.getX (k : ZCore) (r : Nat) : Word := if r = 0 then 0 else tget 0 k.x r
def ZCore.setX (k : ZCore) (r : Nat) (v : Word) : ZCore := if r = 0 then k else { k with x := tput 0 k.x r v }
def ZCore.getCsr (k : ZCore) (n : Nat) : Word := tget 0 k.csr n
def ZCore.putCsr (k : ZCore) (n : Nat) (v : Word) : ZCore := { k with csr := tput 0 k.csr n v }
def ZCore.getFd (k : ZCore) (r : Nat) : Nat := (tget 0 k.f r).toNat
def ZCore.setFd (k : ZCore) (r v : Nat) : ZCore := { k with f := tput 0 k.f r (BitVec.ofNat 64 v) }

/-- A narrow value of `w` bits in a floating-point register: boxed in ones, else the canonical NaN. -/
def ZCore.getFw (k : ZCore) (f : FloatFmt) (r : Nat) : Nat :=
  let v := k.getFd r
  let w := f.width
  if w = 64 then v else if v / 2 ^ w = 2 ^ (64 - w) - 1 then v % 2 ^ w else f.canonNaN
def ZCore.setFw (k : ZCore) (f : FloatFmt) (r v : Nat) : ZCore :=
  let w := f.width
  k.setFd r ((2 ^ (64 - w) - 1) * 2 ^ w + v % 2 ^ w)

/-! ### CSRs -/

namespace Csr
def fflags : Nat := 0x001
def vstart : Nat := 0x008
def vl : Nat := 0xC20
def vtype : Nat := 0xC21
def stvec : Nat := 0x105
def scounteren : Nat := 0x106
def senvcfg : Nat := 0x10A
def sepc : Nat := 0x141
def scause : Nat := 0x142
def stval : Nat := 0x143
def stimecmp : Nat := 0x14D
def satp : Nat := 0x180
def vsstatus : Nat := 0x200
def vstvec : Nat := 0x205
def vsepc : Nat := 0x241
def vscause : Nat := 0x242
def vstval : Nat := 0x243
def vstimecmp : Nat := 0x24D
def vsatp : Nat := 0x280
def mstatus : Nat := 0x300
def medeleg : Nat := 0x302
def mideleg : Nat := 0x303
def mie : Nat := 0x304
def mtvec : Nat := 0x305
def mcounteren : Nat := 0x306
def menvcfg : Nat := 0x30A
def mepc : Nat := 0x341
def mcause : Nat := 0x342
def mtval : Nat := 0x343
def mip : Nat := 0x344
def mtval2 : Nat := 0x34B
def hstatus : Nat := 0x600
def hedeleg : Nat := 0x602
def hideleg : Nat := 0x603
def htimedelta : Nat := 0x605
def hcounteren : Nat := 0x606
def henvcfg : Nat := 0x60A
def htval : Nat := 0x643
def hgatp : Nat := 0x680
def minstret : Nat := 0xB02
end Csr

/-- Bits of mstatus that are kept: SIE, MIE, SPIE, MPIE, SPP, VS, MPP, FS, MPRV, SUM, MXR, TVM, TW, TSR, GVA, MPV. -/
def mstatusMask : Nat := 0xC0007E7FAA
/-- Bits of mstatus that sstatus shows. -/
def sstatusMask : Nat := 0xC6722
/-- UXL and SXL read as 64 bits. -/
def statusXl : Nat := 0xA00000000
/-- Interrupts of the hypervisor's guests. -/
def vsBits : Nat := 0x444
def hsBits : Nat := 0x1444
def sBits : Nat := 0x2222
def irqBits : Nat := 0x3EEE

/-- SD: FS or VS is dirty. -/
def withSd (v : Nat) : Nat := if v / 2 ^ 13 % 4 = 3 ∨ v / 2 ^ 9 % 4 = 3 then v % 2 ^ 63 + 2 ^ 63 else v % 2 ^ 63

/-- Combine a write through a mask with what a register held. -/
def masked (old v mask : Nat) : Nat := (old &&& (2 ^ 64 - 1 - mask)) + (v &&& mask)

/-- Interrupts pending at a time: timer compares of Sstc count where they are enabled. -/
def ZCore.pendingAt (k : ZCore) (time : Word) : Nat :=
  let v := (k.getCsr Csr.mip).toNat
  let st := if bit (k.getCsr Csr.menvcfg) 63 then decide ((k.getCsr Csr.stimecmp).toNat ≤ time.toNat) else v.testBit 5
  let vst := (bit (k.getCsr Csr.henvcfg) 63 &&
    decide ((k.getCsr Csr.vstimecmp).toNat ≤ (time + k.getCsr Csr.htimedelta).toNat)) || v.testBit 6
  setBits (setBits v 1 5 (if st then 1 else 0)) 1 6 (if vst then 1 else 0)

/-- Registers that hold what is written, with the bits that are kept: none where the number names no such register. -/
def csrStore (n : Nat) : Option Nat :=
  let all := 2 ^ 64 - 1
  if n = 0x105 ∨ n = 0x205 ∨ n = 0x305 then some (all - 2)
  else if n = 0x141 ∨ n = 0x241 ∨ n = 0x341 then some (all - 1)
  else if n = 0x106 ∨ n = 0x306 ∨ n = 0x606 ∨ n = 0x320 then some (2 ^ 32 - 1)
  else if n = 0x302 then some 0xF0B5FF
  else if n = 0x602 then some 0xB1FF
  else if n = 0x603 then some (vsBits + 0x2000)
  else if n = 0x600 then some 0x7003C0
  else if n = 0x607 then some 0
  else if n = 0x008 then some 0xFF
  else if [0x10A, 0x140, 0x142, 0x143, 0x14D, 0x240, 0x242, 0x243, 0x24D, 0x30A, 0x340, 0x342, 0x343, 0x34A, 0x34B, 0x605, 0x60A, 0x643,
      0x64A].contains n then some all
  else if n = 0x30C ∨ n = 0x60C then some (3 * 2 ^ 62)
  else if (0x30D ≤ n ∧ n < 0x310) ∨ (0x60D ≤ n ∧ n < 0x610) then some (2 ^ 63)
  else if 0x10C ≤ n ∧ n < 0x110 then some 0
  else if (0xB03 ≤ n ∧ n < 0xB20) ∨ n = 0xB02 ∨ (0x323 ≤ n ∧ n < 0x340) then some all
  else if 0x3B0 ≤ n ∧ n < 0x3F0 then some (2 ^ 54 - 1)
  else if 0x3A0 ≤ n ∧ n < 0x3B0 ∧ n % 2 = 0 then some 0x9F9F9F9F9F9F9F9F
  else none

/-- The register a supervisor number names in a guest. -/
def csrGuest (virt : Bool) (n : Nat) : Nat :=
  if virt ∧ [0x100, 0x104, 0x105, 0x140, 0x141, 0x142, 0x143, 0x144, 0x14D, 0x180].contains n then n + 0x100 else n

/-- The value of a CSR: none where the number names none.  What the core identification registers and the cycle counter hold is free. -/
def ZCore.csrValue (k : ZCore) (n : Nat) (time : Word) (hart free : Nat) : Option Word :=
  let o := fun (v : Nat) => some (BitVec.ofNat 64 v)
  let st := (k.getCsr Csr.mstatus).toNat
  let fl := (k.getCsr Csr.fflags).toNat
  let pend := k.pendingAt time
  let mie := (k.getCsr Csr.mie).toNat
  let hid := (k.getCsr Csr.hideleg).toNat
  if n = 1 ∨ n = 3 then o fl
  else if n = 2 then o 0
  else if n = 0x009 ∨ n = 0x00A ∨ n = 0x00F then
    let v := (k.getCsr 0x00F).toNat
    o (if n = 0x009 then v % 2 else if n = 0x00A then v / 2 % 4 else v % 8)
  else if n = 0xC20 ∨ n = 0xC21 then some (k.getCsr n)
  else if n = 0xC22 then o 32
  else if n = 0x300 then o (withSd (st + statusXl))
  else if n = 0x100 then o (withSd ((st &&& sstatusMask) + 0x200000000))
  else if n = 0x200 then o (withSd ((k.getCsr n).toNat + 0x200000000))
  else if n = 0x600 then o ((k.getCsr n).toNat + 0x200000000)
  else if n = 0x301 then o 0x80000000003411AF
  else if n = 0x303 then o ((k.getCsr n).toNat ||| hsBits)
  else if n = 0x304 then o mie
  else if n = 0x344 then o pend
  else if n = 0x104 then o (mie &&& sBits)
  else if n = 0x144 then o (pend &&& sBits)
  else if n = 0x604 then o (mie &&& hsBits)
  else if n = 0x644 then o (pend &&& hsBits)
  else if n = 0x645 then o ((k.getCsr Csr.mip).toNat &&& vsBits)
  else if n = 0x204 then o ((mie &&& hid &&& vsBits) / 2)
  else if n = 0x244 then o ((pend &&& hid &&& vsBits) / 2)
  else if n = 0x180 ∨ n = 0x280 ∨ n = 0x680 then some (k.getCsr n)
  else if 0x60C ≤ n ∧ n < 0x610 then some (k.getCsr n &&& k.getCsr (n - 0x300))
  else if n = 0xDA0 then
    let seen := fun (i : Nat) => k.mode == 3 || (bit (k.getCsr Csr.mcounteren) i && (!k.virt || bit (k.getCsr Csr.hcounteren) i))
    o (((List.range 32).drop 3).foldl (fun v i => if bit (k.getCsr (0x320 + i)) 63 && seen i then v + 2 ^ i else v) 0)
  else if n = 0xE12 then o 0
  else if n = 0xF14 then o hart
  else if 0xF11 ≤ n ∧ n ≤ 0xF15 then some (Config.coreCsr n)
  else if n = 0xC00 ∨ n = 0xB00 then some (Config.freeWord free)
  else if n = 0xC01 then some (if k.virt then time + k.getCsr Csr.htimedelta else time)
  else if 0xC02 ≤ n ∧ n < 0xC20 then some (k.getCsr (n - 0x100))
  else if (csrStore n).isSome then some (k.getCsr n)
  else none

/-- Write a CSR: fields that hold no value written keep theirs. -/
def ZCore.csrWrite (k : ZCore) (n : Nat) (v : Word) : ZCore :=
  let x := v.toNat
  let put_ := fun (m x mask : Nat) => k.putCsr m (BitVec.ofNat 64 (masked (k.getCsr m).toNat x mask))
  let hid := (k.getCsr Csr.hideleg).toNat
  if n = 1 ∨ n = 3 then k.putCsr 1 (BitVec.ofNat 64 (x % 32))
  else if n = 0x009 then put_ 0x00F (x % 2) 1
  else if n = 0x00A then put_ 0x00F (x % 4 * 2) 6
  else if n = 0x00F then put_ 0x00F x 7
  else if n = 0x300 then put_ n x (if x / 2 ^ 11 % 4 = 2 then mstatusMask - 0x1800 else mstatusMask)
  else if n = 0x100 then put_ Csr.mstatus x sstatusMask
  else if n = 0x200 then put_ n x sstatusMask
  else if n = 0x303 then put_ n x sBits
  else if n = 0x304 then put_ n x irqBits
  else if n = 0x344 then put_ n x 0x2226
  else if n = 0x104 then put_ Csr.mie x sBits
  else if n = 0x144 then put_ Csr.mip x 0x2002
  else if n = 0x604 then put_ Csr.mie x hsBits
  else if n = 0x644 then put_ Csr.mip x 4
  else if n = 0x645 then put_ Csr.mip x vsBits
  else if n = 0x204 then put_ Csr.mie (2 * x) (hid &&& vsBits)
  else if n = 0x244 then put_ Csr.mip (2 * x) (hid &&& 4)
  else if n = 0x180 ∨ n = 0x280 ∨ n = 0x680 then
    let m := x / 2 ^ 60
    if m = 0 ∨ m = 8 ∨ m = 9 then put_ n x (if n = 0x680 then 2 ^ 64 - 1 - 2 ^ 58 - 2 ^ 59 else 2 ^ 64 - 1) else k
  else if 0x60C ≤ n ∧ n < 0x610 then put_ n x (((csrStore n).getD 0) &&& (k.getCsr (n - 0x300)).toNat)
  else if 0x3A0 ≤ n ∧ n < 0x3B0 then
    let locked := (List.range 8).foldl (fun m i => if bit (k.getCsr n) (8 * i + 7) then m else m + 0x9F * 256 ^ i) 0
    if n % 2 = 0 then put_ n x locked else k
  else if 0x3B0 ≤ n ∧ n < 0x3F0 then
    let i := n - 0x3B0
    let cfg := fun (i : Nat) => (k.getCsr (0x3A0 + i / 8 * 2)).toNat / 256 ^ (i % 8) % 256
    if 128 ≤ cfg i ∨ (i < 63 ∧ 128 ≤ cfg (i + 1) ∧ cfg (i + 1) / 8 % 4 = 1) then k else put_ n x (2 ^ 54 - 1)
  else match csrStore n with
    | some m => put_ n x m
    | none => k

/-- Whether the state-enable registers above the core's mode let a CSR through: bit 63 the state-enable registers below, bit 62 of the first
the envcfg registers; those of M-mode, and for a guest those of the hypervisor as well. -/
def ZCore.stateOn (k : ZCore) (hyp : Bool) (n : Nat) : Bool :=
  let on := fun (base : Nat) =>
    if n = 0x10A ∨ n = 0x60A then bit (k.getCsr base) 62
    else if (0x10C ≤ n ∧ n < 0x110) ∨ (0x60C ≤ n ∧ n < 0x610) then bit (k.getCsr (base + n % 4)) 63
    else true
  if hyp then !k.virt || on 0x60C else k.mode == 3 || on 0x30C

/-- Whether the hypervisor's supervisor could use a CSR, virtual memory trapping apart: privilege, no write of a read-only register, the
counter enables of M-mode, and for the timer compares of Sstc its enable. -/
def ZCore.csrForS (k : ZCore) (n : Nat) (write : Bool) : Bool :=
  let m := k.getCsr Csr.mcounteren
  decide (n / 256 % 4 ≤ 2) && !(write && n / 1024 == 3) &&
  (!(decide (0xC00 ≤ n ∧ n < 0xC20)) || bit m (n % 32)) &&
  (!(n == 0x14D || n == 0x24D) || (bit (k.getCsr Csr.menvcfg) 63 && bit m 1))

/-- How an access of a CSR ends in the core's mode: none where it is made, else whether a virtual-instruction exception is raised: in a guest,
where the hypervisor's supervisor could make it. -/
def ZCore.csrDenied (k : ZCore) (n : Nat) (write : Bool) : Option Bool :=
  let need := n / 256 % 4
  let st := k.getCsr Csr.mstatus
  let ctr := decide (0xC00 ≤ n ∧ n < 0xC20)
  let user := k.mode == 1 || !ctr || bit (k.getCsr Csr.scounteren) (n % 32)
  if k.mode = 3 then (if write ∧ n / 1024 = 3 then some false else none)
  else if !k.csrForS n write then some false
  else if !k.virt then
    (if need ≤ (if k.mode = 1 then 2 else 0) && user && !((n == 0x180 || n == 0x680) && bit st 20) then none else some false)
  else
    let h := k.getCsr Csr.hcounteren
    if decide (need ≤ k.mode.toNat) && user && (!ctr || bit h (n % 32)) &&
       !(n == 0x180 && bit (k.getCsr Csr.hstatus) 20) && (n != 0x14D || (bit (k.getCsr Csr.henvcfg) 63 && bit h 1)) then none
    else some true

/-! ### Traps -/

/-- A trap: cause, whether an interrupt, its trap value, the guest physical address of a guest page fault, whether the value is a guest
virtual address, and the trap instruction value: zero but for a guest page fault of a page-table read, which has a pseudoinstruction. -/
structure ZTrap where
  cause : Nat
  intr : Bool := false
  tval : Nat := 0
  gpa : Nat := 0
  gva : Bool := false
  tinst : Nat := 0
deriving DecidableEq, Repr

def setBitsW (v : Word) (hi lo x : Nat) : Word := setF v hi lo x

/-- Where a trap vector leads. -/
def trapPc (tvec : Word) (t : ZTrap) : Word :=
  BitVec.ofNat 64 (tvec.toNat / 4 * 4 + (if tvec.toNat % 4 = 1 ∧ t.intr then 4 * t.cause else 0))

def causeWord (t : ZTrap) : Word := BitVec.ofNat 64 (t.cause + (if t.intr then 2 ^ 63 else 0))

/-- Take a trap: to the guest's supervisor, to the hypervisor's supervisor or to M-mode, as the delegation registers say. -/
def ZCore.takeTrap (k : ZCore) (t : ZTrap) : ZCore :=
  let b := fun (m h : Nat) => bit (k.getCsr (if t.intr then m else h)) t.cause
  let toS := k.mode != 3 && (b Csr.mideleg Csr.medeleg || (t.intr && decide (hsBits.testBit t.cause)))
  let toVs := toS && k.virt && b Csr.hideleg Csr.hedeleg
  let mode := k.mode.toNat
  if toVs then
    let u : ZTrap := if t.intr then { t with cause := t.cause - 1 } else t
    let st := k.getCsr Csr.vsstatus
    let st := setB (setB (setB st 5 (bit st 1)) 1 false) 8 (mode == 1)
    let k := (((k.putCsr Csr.vsepc k.pc).putCsr Csr.vscause (causeWord u)).putCsr Csr.vstval (BitVec.ofNat 64 t.tval)).putCsr Csr.vsstatus st
    { k with mode := 1, virt := true, pc := trapPc (k.getCsr Csr.vstvec) u }
  else if toS then
    let st := k.getCsr Csr.mstatus
    let st := setB (setB (setB st 5 (bit st 1)) 1 false) 8 (mode == 1)
    let hs := k.getCsr Csr.hstatus
    let hs := setB (setB hs 7 k.virt) 6 t.gva
    let hs := if k.virt then setB hs 8 (mode == 1) else hs
    let k := ((k.putCsr Csr.sepc k.pc).putCsr Csr.scause (causeWord t)).putCsr Csr.stval (BitVec.ofNat 64 t.tval)
    let k := ((k.putCsr Csr.htval (BitVec.ofNat 64 (t.gpa / 4))).putCsr Csr.mstatus st).putCsr Csr.hstatus hs
    let k := k.putCsr 0x64A (BitVec.ofNat 64 t.tinst)
    { k with mode := 1, virt := false, pc := trapPc (k.getCsr Csr.stvec) t }
  else
    let st := k.getCsr Csr.mstatus
    let st := setF (setB (setB st 7 (bit st 3)) 3 false) 12 11 mode
    let st := setB (setB st 39 k.virt) 38 t.gva
    let k := ((k.putCsr Csr.mepc k.pc).putCsr Csr.mcause (causeWord t)).putCsr Csr.mtval (BitVec.ofNat 64 t.tval)
    let k := ((k.putCsr Csr.mtval2 (BitVec.ofNat 64 (t.gpa / 4))).putCsr Csr.mstatus st).putCsr 0x34A (BitVec.ofNat 64 t.tinst)
    { k with mode := 3, virt := false, pc := trapPc (k.getCsr Csr.mtvec) t }

/-- Order in which interrupts are taken. -/
def irqOrder : List Nat := [11, 3, 7, 9, 1, 5, 12, 10, 2, 6, 13]

/-- The interrupt a core takes now. -/
def ZCore.interrupt (k : ZCore) (time : Word) : Option Nat :=
  let pend := k.pendingAt time &&& (k.getCsr Csr.mie).toNat
  let mdel := (k.getCsr Csr.mideleg).toNat ||| hsBits
  let hdel := (k.getCsr Csr.hideleg).toNat
  let m := if k.mode ≠ 3 ∨ bit (k.getCsr Csr.mstatus) 3 then pend &&& (2 ^ 64 - 1 - mdel) else 0
  let hs := if k.mode ≠ 3 ∧ (k.virt ∨ k.mode = 0 ∨ bit (k.getCsr Csr.mstatus) 1) then pend &&& mdel &&& (2 ^ 64 - 1 - hdel) else 0
  let vs := if k.virt ∧ (k.mode = 0 ∨ bit (k.getCsr Csr.vsstatus) 1) then pend &&& mdel &&& hdel else 0
  let first := fun (v : Nat) => irqOrder.find? (fun i => v.testBit i)
  (first m).or ((first hs).or (first vs))

/-- MRET. -/
def ZCore.mret (k : ZCore) : ZCore :=
  let st := k.getCsr Csr.mstatus
  let mpp := fld st 12 11
  let virt := bit st 39 && mpp != 3
  let st1 := setF (setB (setB st 3 (bit st 7)) 7 true) 12 11 0
  let st2 := setB (if mpp = 3 then st1 else setB st1 17 false) 39 false
  { k.putCsr Csr.mstatus st2 with mode := BitVec.ofNat 2 mpp, virt := virt, pc := k.getCsr Csr.mepc }

/-- SRET of the hypervisor's supervisor or of a guest's. -/
def ZCore.sret (k : ZCore) : ZCore :=
  let reg := if k.virt then Csr.vsstatus else Csr.mstatus
  let st := k.getCsr reg
  let spp := bit st 8
  let st := setB (setB (setB st 1 (bit st 5)) 5 true) 8 false
  let k1 := k.putCsr reg st
  let m : BitVec 2 := if spp then 1 else 0
  if k.virt then { k1 with mode := m, pc := k.getCsr Csr.vsepc }
  else
    let hs := k.getCsr Csr.hstatus
    let k2 := (k1.putCsr Csr.hstatus (setB hs 7 false)).putCsr Csr.mstatus (setB st 17 false)
    { k2 with mode := m, virt := bit hs 7, pc := k.getCsr Csr.sepc }

/-! ### Physical memory protection (R455) -/

/-- The region of a PMP entry in bytes: none where it is off. -/
def ZCore.pmpRange (k : ZCore) (i : Nat) : Option (Nat × Nat) :=
  let cfg := (k.getCsr (0x3A0 + i / 8 * 2)).toNat / 256 ^ (i % 8) % 256
  let a := (k.getCsr (0x3B0 + i)).toNat
  match cfg / 8 % 4 with
  | 0 => none
  | 1 => some ((if i = 0 then 0 else (k.getCsr (0x3B0 + i - 1)).toNat * 4), a * 4)
  | 2 => some (a * 4, a * 4 + 4)
  | _ =>
    let g := (List.range 54).find? (fun j => !a.testBit j)
    let lg := g.getD 54 + 3
    let base := a * 4 / 2 ^ lg * 2 ^ lg
    some (base, base + 2 ^ lg)

/-- Kinds of memory access of a core. -/
inductive ZAcc where
  | fetch
  | load
  | store
deriving DecidableEq, Repr

/-- Whether the entries admit an access of a mode: the first that matches decides.  Entries 0 and 1 bar modes below M alone (R455); any
other locked entry binds M-mode too. -/
def ZCore.pmpOk (k : ZCore) (mode pa n : Nat) (acc : ZAcc) : Bool :=
  let hit := (List.range 64).find? (fun i => match k.pmpRange i with
    | some (lo, hi) => decide (lo < pa + n ∧ pa < hi)
    | none => false)
  match hit with
  | none => mode == 3
  | some i =>
    let cfg := (k.getCsr (0x3A0 + i / 8 * 2)).toNat / 256 ^ (i % 8) % 256
    let whole := match k.pmpRange i with
      | some (lo, hi) => decide (lo ≤ pa ∧ pa + n ≤ hi)
      | none => false
    if mode = 3 ∧ (cfg < 128 ∨ i < 2) then true
    else whole && cfg.testBit (match acc with | .load => 0 | .store => 1 | .fetch => 2)

/-! ### Compressed instructions -/

def encI (op rd f3 rs1 imm : Nat) : Nat := put imm 12 20 + put rs1 5 15 + put f3 3 12 + put rd 5 7 + op
def encR (op rd f3 rs1 rs2 f7 : Nat) : Nat := put f7 7 25 + put rs2 5 20 + put rs1 5 15 + put f3 3 12 + put rd 5 7 + op
def encS (op f3 rs1 rs2 imm : Nat) : Nat := put (imm / 32) 7 25 + put rs2 5 20 + put rs1 5 15 + put f3 3 12 + put imm 5 7 + op
def encB (f3 rs1 rs2 imm : Nat) : Nat :=
  put (imm / 2 ^ 12) 1 31 + put (imm / 32) 6 25 + put rs2 5 20 + put rs1 5 15 + put f3 3 12 + put (imm / 2) 4 8 + put (imm / 2 ^ 11) 1 7 + 0x63
def encJ (rd imm : Nat) : Nat :=
  put (imm / 2 ^ 20) 1 31 + put (imm / 2) 10 21 + put (imm / 2 ^ 11) 1 20 + put (imm / 2 ^ 12) 8 12 + put rd 5 7 + 0x6F

/-- Bits hi to lo of a halfword. -/
def hb (h hi lo : Nat) : Nat := (h >>> lo) % 2 ^ (hi + 1 - lo)

/-- A signed field as 12 or more bits of two's complement. -/
def sx (w v : Nat) : Nat := unsint 32 (sint w v)

/-- Quadrant 0. -/
def expand0 (h : Nat) : Option Nat :=
  let rd := hb h 4 2 + 8
  let rs := hb h 9 7 + 8
  let w := hb h 12 10 * 8 + hb h 6 6 * 4 + hb h 5 5 * 64
  let d := hb h 12 10 * 8 + hb h 6 5 * 64
  match hb h 15 13 with
  | 0 =>
    let i := hb h 12 11 * 16 + hb h 10 7 * 64 + hb h 6 6 * 4 + hb h 5 5 * 8
    if i = 0 then none else some (encI 0x13 rd 0 2 i)
  | 1 => some (encI 0x07 rd 3 rs d)
  | 2 => some (encI 0x03 rd 2 rs w)
  | 3 => some (encI 0x03 rd 3 rs d)
  | 4 =>
    let i := hb h 6 6 + hb h 5 5 * 2
    match hb h 12 10 with
    | 0 => some (encI 0x03 rd 4 rs i)
    | 1 => some (encI 0x03 rd (if hb h 6 6 = 1 then 1 else 5) rs (hb h 5 5 * 2))
    | 2 => some (encS 0x23 0 rs rd i)
    | 3 => if hb h 6 6 = 0 then some (encS 0x23 1 rs rd (hb h 5 5 * 2)) else none
    | _ => none
  | 5 => some (encS 0x27 3 rs rd d)
  | 6 => some (encS 0x23 2 rs rd w)
  | _ => some (encS 0x23 3 rs rd d)

/-- Register forms of quadrant 1, row 4. -/
def expandArith (h : Nat) : Option Nat :=
  let rd := hb h 9 7 + 8
  let rs := hb h 4 2 + 8
  let sh := hb h 12 12 * 32 + hb h 6 2
  match hb h 11 10 with
  | 0 => some (encI 0x13 rd 5 rd sh)
  | 1 => some (encI 0x13 rd 5 rd (0x400 + sh))
  | 2 => some (encI 0x13 rd 7 rd (sx 6 sh))
  | _ =>
    match hb h 12 12 * 4 + hb h 6 5 with
    | 0 => some (encR 0x33 rd 0 rd rs 0x20)
    | 1 => some (encR 0x33 rd 4 rd rs 0)
    | 2 => some (encR 0x33 rd 6 rd rs 0)
    | 3 => some (encR 0x33 rd 7 rd rs 0)
    | 4 => some (encR 0x3B rd 0 rd rs 0x20)
    | 5 => some (encR 0x3B rd 0 rd rs 0)
    | 6 => some (encR 0x33 rd 0 rd rs 1)
    | _ =>
      match hb h 4 2 with
      | 0 => some (encI 0x13 rd 7 rd 255)
      | 1 => some (encR 0x13 rd 1 rd 4 0x30)
      | 2 => some (encR 0x3B rd 4 rd 0 4)
      | 3 => some (encR 0x13 rd 1 rd 5 0x30)
      | 4 => some (encR 0x3B rd 0 rd 0 4)
      | 5 => some (encI 0x13 rd 4 rd 0xFFF)
      | _ => none

/-- Quadrant 1. -/
def expand1 (h : Nat) : Option Nat :=
  let rd := hb h 11 7
  let imm := hb h 12 12 * 32 + hb h 6 2
  let j := hb h 12 12 * 2 ^ 11 + hb h 11 11 * 16 + hb h 10 9 * 256 + hb h 8 8 * 1024 + hb h 7 7 * 64 + hb h 6 6 * 128 + hb h 5 3 * 2 +
    hb h 2 2 * 32
  let b := hb h 12 12 * 256 + hb h 11 10 * 8 + hb h 6 5 * 64 + hb h 4 3 * 2 + hb h 2 2 * 32
  match hb h 15 13 with
  | 0 => some (encI 0x13 rd 0 rd (sx 6 imm))
  | 1 => if rd = 0 then none else some (encI 0x1B rd 0 rd (sx 6 imm))
  | 2 => some (encI 0x13 rd 0 0 (sx 6 imm))
  | 3 =>
    let s := hb h 12 12 * 512 + hb h 6 6 * 16 + hb h 5 5 * 64 + hb h 4 3 * 128 + hb h 2 2 * 32
    if imm = 0 then (if rd % 2 = 1 ∧ rd < 16 then some (encI 0x13 0 0 0 0) else none)
    else if rd = 2 then some (encI 0x13 2 0 2 (sx 10 s))
    else some (put (sx 6 imm) 20 12 + put rd 5 7 + 0x37)
  | 4 => expandArith h
  | 5 => some (encJ 0 (sx 12 j))
  | 6 => some (encB 0 (hb h 9 7 + 8) 0 (sx 9 b))
  | _ => some (encB 1 (hb h 9 7 + 8) 0 (sx 9 b))

/-- Quadrant 2. -/
def expand2 (h : Nat) : Option Nat :=
  let rd := hb h 11 7
  let rs := hb h 6 2
  let ld := hb h 12 12 * 32 + hb h 6 5 * 8 + hb h 4 2 * 64
  let lw := hb h 12 12 * 32 + hb h 6 4 * 4 + hb h 3 2 * 64
  let sd := hb h 12 10 * 8 + hb h 9 7 * 64
  let sw := hb h 12 9 * 4 + hb h 8 7 * 64
  match hb h 15 13 with
  | 0 => some (encI 0x13 rd 1 rd (hb h 12 12 * 32 + rs))
  | 1 => some (encI 0x07 rd 3 2 ld)
  | 2 => if rd = 0 then none else some (encI 0x03 rd 2 2 lw)
  | 3 => if rd = 0 then none else some (encI 0x03 rd 3 2 ld)
  | 4 =>
    if hb h 12 12 = 0 then
      (if rs = 0 then (if rd = 0 then none else some (encI 0x67 0 0 rd 0)) else some (encR 0x33 rd 0 0 rs 0))
    else if rs = 0 then (if rd = 0 then some 0x00100073 else some (encI 0x67 1 0 rd 0))
    else some (encR 0x33 rd 0 rd rs 0)
  | 5 => some (encS 0x27 3 2 rs sd)
  | 6 => some (encS 0x23 2 2 rs sw)
  | _ => some (encS 0x23 3 2 rs sd)

/-- The 32-bit instruction that a compressed one stands for. -/
def expandC (h : Nat) : Option Nat :=
  match h % 4 with
  | 0 => expand0 h
  | 1 => expand1 h
  | _ => expand2 h

/-! ### Integer instructions beyond those of a lane: address generation, bit manipulation and conditional zero -/

def rotl (w a n : Nat) : Nat := (a * 2 ^ n + a / 2 ^ (w - n)) % 2 ^ w
def clzN (w a : Nat) : Nat := if a = 0 then w else w - 1 - a.log2
def ctzN (w a : Nat) : Nat := ((List.range w).find? (fun i => a.testBit i)).getD w
def cpopN (w a : Nat) : Nat := (List.range w).countP (fun i => a.testBit i)

/-- Register-register forms by funct7 and funct3: none where the encoding names no such instruction. -/
def bitOp (f7 f3 : Nat) (a b : Word) : Option Word :=
  let n := b.toNat % 64
  match f7, f3 with
  | 0x10, 2 => some ((a <<< 1) + b)
  | 0x10, 4 => some ((a <<< 2) + b)
  | 0x10, 6 => some ((a <<< 3) + b)
  | 0x20, 4 => some (~~~(a ^^^ b))
  | 0x20, 6 => some (a ||| ~~~b)
  | 0x20, 7 => some (a &&& ~~~b)
  | 0x05, 4 => some (if a.toInt < b.toInt then a else b)
  | 0x05, 5 => some (if a.toNat < b.toNat then a else b)
  | 0x05, 6 => some (if a.toInt < b.toInt then b else a)
  | 0x05, 7 => some (if a.toNat < b.toNat then b else a)
  | 0x30, 1 => some (BitVec.ofNat 64 (rotl 64 a.toNat n))
  | 0x30, 5 => some (BitVec.ofNat 64 (rotl 64 a.toNat (64 - n)))
  | 0x24, 1 => some (a &&& ~~~(1#64 <<< n))
  | 0x24, 5 => some ((a >>> n) &&& 1)
  | 0x34, 1 => some (a ^^^ (1#64 <<< n))
  | 0x14, 1 => some (a ||| (1#64 <<< n))
  | 0x07, 5 => some (if b = 0 then 0 else a)
  | 0x07, 7 => some (if b = 0 then a else 0)
  | _, _ => none

/-- Word forms by funct7 and funct3. -/
def bitOpW (f7 f3 rs2 : Nat) (a b : Word) : Option Word :=
  let u := a &&& 0xFFFFFFFF
  let n := b.toNat % 32
  match f7, f3 with
  | 0x04, 0 => some (u + b)
  | 0x04, 4 => if rs2 = 0 then some (a &&& 0xFFFF) else none
  | 0x10, 2 => some ((u <<< 1) + b)
  | 0x10, 4 => some ((u <<< 2) + b)
  | 0x10, 6 => some ((u <<< 3) + b)
  | 0x30, 1 => some (sext32 (rotl 32 u.toNat n))
  | 0x30, 5 => some (sext32 (rotl 32 u.toNat (32 - n)))
  | _, _ => none

/-- Immediate forms of bit manipulation. -/
def bitImm (w : BitVec 32) (a : Word) : Option Word :=
  let n := fld w 25 20
  let x := a.toNat
  match iF3 w, fld w 31 26 with
  | 1, 0x12 => some (a &&& ~~~(1#64 <<< n))
  | 1, 0x1A => some (a ^^^ (1#64 <<< n))
  | 1, 0x0A => some (a ||| (1#64 <<< n))
  | 1, 0x18 =>
    match n with
    | 0 => some (BitVec.ofNat 64 (clzN 64 x))
    | 1 => some (BitVec.ofNat 64 (ctzN 64 x))
    | 2 => some (BitVec.ofNat 64 (cpopN 64 x))
    | 4 => some (BitVec.ofInt 64 (sint 8 x))
    | 5 => some (BitVec.ofInt 64 (sint 16 x))
    | _ => none
  | 5, 0x12 => some ((a >>> n) &&& 1)
  | 5, 0x18 => some (BitVec.ofNat 64 (rotl 64 x (64 - n)))
  | 5, 0x0A => if n = 7 then some (BitVec.ofNat 64 (leNat ((leBytes 8 x).map (fun b => if b = 0 then 0 else 0xFF)))) else none
  | 5, 0x1A => if n = 0x38 then some (BitVec.ofNat 64 (beNat (leBytes 8 x))) else none
  | _, _ => none

/-- Word immediate forms of bit manipulation. -/
def bitImmW (w : BitVec 32) (a : Word) : Option Word :=
  let n := fld w 24 20
  let u := a.toNat % 2 ^ 32
  if iF3 w = 1 ∧ fld w 31 26 = 0x02 then some (BitVec.ofNat 64 (u * 2 ^ fld w 25 20))
  else if iF7 w = 0x30 ∧ iF3 w = 1 then
    (match n with
     | 0 => some (BitVec.ofNat 64 (clzN 32 u))
     | 1 => some (BitVec.ofNat 64 (if u = 0 then 32 else ctzN 32 u))
     | 2 => some (BitVec.ofNat 64 (cpopN 32 u))
     | _ => none)
  else if iF7 w = 0x30 ∧ iF3 w = 5 then some (sext32 (rotl 32 u (32 - n)))
  else none

/-- The result of an integer instruction of a core: none where the encoding names none. -/
def coreAlu (w : BitVec 32) (pc : Nat) (a b : Word) : Option Word :=
  match fld w 6 0 with
  | 0x33 => match laneRow w with
    | .alu => some (aluResult w pc a b)
    | .mulDiv => some (mulDivResult w a b)
    | _ => bitOp (iF7 w) (iF3 w) a b
  | 0x3B => match laneRow w with
    | .alu => some (aluResult w pc a b)
    | .mulDiv => some (mulDivResult w a b)
    | _ => bitOpW (iF7 w) (iF3 w) (iRs2 w) a b
  | 0x13 => if laneRow w == .alu then some (aluResult w pc a b) else bitImm w a
  | 0x1B => if laneRow w == .alu then some (aluResult w pc a b) else bitImmW w a
  | 0x37 => some (BitVec.ofInt 64 (iImmU w))
  | 0x17 => some (BitVec.ofInt 64 (sint 64 pc + iImmU w))
  | _ => none

/-- May-be-operations write zero. -/
def isMop (w : BitVec 32) : Bool :=
  fld w 6 0 == 0x73 && iF3 w == 4 && bit w 31 && fld w 29 28 == 0 && (bit w 25 || fld w 25 22 == 7)

/-! ### Floating point in single, double and (for moves and conversions) half precision -/

/-- The format of a floating-point instruction's fmt field. -/
def fmtOf (c : Nat) : Option FloatFmt := match c with | 0 => some fp32 | 1 => some fp64 | _ => none

/-- A result of a core's floating-point instruction: a value of a format, or an integer. -/
inductive ZF where
  | f (fmt : FloatFmt) (v flags : Nat)
  | x (v : Word) (flags : Nat)

/-- The constants of fli. -/
def fliConst (f : FloatFmt) (i : Nat) : Nat :=
  let p := fun (m : Nat) (e : Int) => f.enc (.fin false m e)
  match i with
  | 0 => f.enc (.fin true 1 0)
  | 1 => p 1 f.emin
  | 2 => p 1 (-16) | 3 => p 1 (-15) | 4 => p 1 (-8) | 5 => p 1 (-7) | 6 => p 1 (-4) | 7 => p 1 (-3)
  | 30 => f.infBits false
  | 31 => f.canonNaN
  | 23 => p 1 2 | 24 => p 1 3 | 25 => p 1 4 | 26 => p 1 7 | 27 => p 1 8 | 28 => p 1 15 | 29 => p 1 16
  | _ => p (4 + (i - 8) % 4) (((i - 8) / 4 : Nat) - 4)

/-- A value of a core's floating-point register is rounded to an integral value (fround, froundnx). -/
def froundOut (f : FloatFmt) (nx : Bool) (a : Nat) : FOut :=
  match f.decode a with
  | .nan => { bits := f.canonNaN, flags := if f.isSNaN a then flNV else 0 }
  | .inf n => { bits := f.infBits n }
  | .fin n m e =>
    let r := FVal.toInt (.fin n m e)
    let v := f.enc (.fin n r.1.natAbs 0)
    { bits := v, flags := if r.2 && nx then flNX else 0 }

/-- fminm and fmaxm: a NaN operand gives the canonical NaN. -/
def fminmaxM (f : FloatFmt) (isMax : Bool) (a b : Nat) : FOut :=
  if (f.decode a).isNaN || (f.decode b).isNaN then { bits := f.canonNaN, flags := if f.anySNaN [a, b] then flNV else 0 }
  else f.fminmax isMax a b

/-- A floating-point instruction of a core: none where the encoding names none or its rounding mode is not allowed (R268). -/
def coreFp (k : ZCore) (w : BitVec 32) : Option ZF :=
  let fc := fld w 26 25
  let rs1 := iRs1 w
  let rs2 := iRs2 w
  let f3 := iF3 w
  match fmtOf fc with
  | none =>
    if fc ≠ 2 then none
    else match fld w 31 27 with
      | 0x08 => if !rmOk w then none else match fmtOf rs2 with
        | some s => let r := s.convOut fp16 (k.getFw s rs1); some (.f fp16 r.bits r.flags)
        | none => none
      | 0x1C => if rs2 = 0 ∧ f3 = 0 then some (.x (BitVec.ofInt 64 (sint 16 (k.getFd rs1))) 0) else none
      | 0x1E => if rs2 = 0 ∧ f3 = 0 then some (.f fp16 ((k.getX rs1).toNat % 2 ^ 16) 0) else none
      | _ => none
  | some f =>
    let a := k.getFw f rs1
    let b := k.getFw f rs2
    let c := k.getFw f (iRs3 w)
    let o := fun (r : FOut) => some (ZF.f f r.bits r.flags)
    let rm := fun (r : Option ZF) => if rmOk w then r else none
    match fld w 6 0 with
    | 0x43 => rm (o (f.fma false false a b c))
    | 0x47 => rm (o (f.fma false true a b c))
    | 0x4B => rm (o (f.fma true false a b c))
    | 0x4F => rm (o (f.fma true true a b c))
    | _ =>
      match fld w 31 27 with
      | 0x00 => rm (o (f.fadd a b))
      | 0x01 => rm (o (f.fsub a b))
      | 0x02 => rm (o (f.fmul a b))
      | 0x03 => rm (o (f.fdiv a b))
      | 0x0B => if rs2 = 0 then rm (o (f.fsqrt a)) else none
      | 0x04 => if f3 ≤ 2 then some (.f f (f.fsgnj f3 a b) 0) else none
      | 0x05 => if f3 ≤ 1 then o (f.fminmax (f3 == 1) a b) else if f3 ≤ 3 then o (fminmaxM f (f3 == 3) a b) else none
      | 0x08 =>
        if rs2 = 4 ∨ rs2 = 5 then rm (o (froundOut f (rs2 == 5) a))
        else rm (match (if rs2 = 2 then some fp16 else fmtOf rs2) with
          | some s => if s = f then none else o (s.convOut f (k.getFw s rs1))
          | none => none)
      | 0x14 => if f3 ≤ 2 then let r := f.fcmp f3 a b; some (.x (BitVec.ofNat 64 r.bits) r.flags)
        else if f3 ≤ 5 ∧ f3 ≠ 3 then
          let r := f.fcmp (f3 - 4) a b
          some (.x (BitVec.ofNat 64 r.bits) (if f.anySNaN [a, b] then flNV else 0))
        else none
      | 0x18 =>
        if 3 < rs2 then none
        else
          let wd := if rs2 < 2 then 32 else 64
          let sg := rs2 % 2 == 0
          let top : Int := if sg then (2 ^ (wd - 1) : Nat) - 1 else (2 ^ wd : Nat) - 1
          let r := f.toIntOut wd sg top a
          rm (some (.x (if wd = 32 then sext32 (unsint 32 r.1) else BitVec.ofInt 64 r.1) r.2))
      | 0x1A =>
        if 3 < rs2 then none
        else
          let wd := if rs2 < 2 then 32 else 64
          let v := (k.getX rs1).toNat % 2 ^ wd
          rm (o (f.ofIntOut (if rs2 % 2 = 0 then sint wd v else (v : Int))))
      | 0x1C =>
        if rs2 ≠ 0 then none
        else if f3 = 1 then some (.x (BitVec.ofNat 64 (f.fclass a)) 0)
        else if f3 = 0 then some (.x (if fc = 0 then sext32 (k.getFd rs1 % 2 ^ 32) else BitVec.ofNat 64 (k.getFd rs1)) 0)
        else none
      | 0x1E =>
        if f3 ≠ 0 then none
        else if rs2 = 0 then some (.f f ((k.getX rs1).toNat % 2 ^ f.width) 0)
        else if rs2 = 1 then some (.f f (fliConst f rs1) 0) else none
      | _ => none

/-- Write a floating-point result; flags accumulate and the unit's state is dirty. -/
def ZCore.setZF (k : ZCore) (rd : Nat) (r : ZF) : ZCore :=
  let (k, fl) := match r with
    | .f f v fl => (k.setFw f rd v, fl)
    | .x v fl => (k.setX rd v, fl)
  let k := k.putCsr Csr.fflags (k.getCsr Csr.fflags ||| BitVec.ofNat 64 fl)
  let dirty := fun (k : ZCore) (n : Nat) => k.putCsr n (setF (k.getCsr n) 14 13 3)
  let k := dirty k Csr.mstatus
  if k.virt then dirty k Csr.vsstatus else k

/-- Whether floating point, or the vector unit, is switched on. -/
def ZCore.unitOn (k : ZCore) (hi lo : Nat) : Bool :=
  fld (k.getCsr Csr.mstatus) hi lo != 0 && (!k.virt || fld (k.getCsr Csr.vsstatus) hi lo != 0)

end Sys2Proof.Machine
end

