-- ==== Sys2Proof/Machine/Aperture.lean ====
section
/-!
DEFINITION. The device register aperture (R333) with its access codes (R8), the commands that read a register of their own, and the group
state image with the inspection aperture (R153, R154, R270).
-/

namespace Sys2Proof.Machine

/-! ### Device register aperture -/

/-- Word `i` (0 low, 1 high) of a 128-bit register. -/
def wordOf (v : BitVec 128) (i : Nat) : Word := BitVec.ofNat 64 (v.toNat >>> (64 * i))

/-- The identity record (R459). -/
def State.identityWord (s : State) (i : Nat) : Word :=
  let k := s.sec
  match i with
  | 0 => s.host.moduleId
  | 1 => k.serial
  | 2 => BitVec.ofNat 64 (put k.grade.toNat 8 56 + put k.steppings.toNat 56 0)
  | 3 => BitVec.ofNat 64 (put k.fwSecVer.toNat 32 32 + put k.update.toNat 4 28 + put k.detail.toNat 4 24 + put k.unlock.toNat 4 20 +
      put k.selfTest.toNat 7 13 + put k.agentFail.toNat 2 11)
  | _ => 0

/-- The power status register as it reads (R400, R422): once started, an awake module is in Run while any kernel, copy or core works, else in
Idle. -/
def State.powerStatus (s : State) : Word :=
  let busy := s.clusters.any (fun p => p.2.kernel.isSome || p.2.runList != []) || s.engines.any (fun p => p.2.queue.isSome) ||
    (List.range 64).any (fun n => !(s.core n).wfi)
  if s.modState = 1 ∧ s.powerState = 1 then setF s.power.status 63 60 (if busy then 0 else 1) else s.power.status

/-- The value of an 8-byte register at an aligned offset (R333 and the chapters it names); zero where none is listed. -/
def State.apertureValue (s : State) (off : Nat) : Word :=
  if off < 0x20000 then 0
  else if off < 0x60000 then wordOf (s.queue ((off - 0x20000) / 16)).reg (off / 8 % 2)
  else if off < 0x70000 then wordOf (s.ctx ((off - 0x60000) / 16)).xlat (off / 8 % 2)
  else if off < 0x78000 then (s.ctx ((off - 0x70000) / 8)).status
  else if off < 0x80000 then (s.ctx ((off - 0x78000) / 8)).num
  else if off < 0x88000 then (s.ctx ((off - 0x80000) / 8)).counter
  else if off < 0x88200 then
    let c := (off - 0x88000) / 4
    BitVec.ofNat 64 ((s.mapEntry c).toNat + (s.mapEntry (c + 1)).toNat * 2 ^ 32)
  else if off < 0x88270 then (s.linkEnd ((off - 0x88200) / 8)).status
  else if off = 0x88300 then s.west.part
  else if off = 0x88308 then s.east.part
  else if 0x89000 ≤ off ∧ off < 0x89800 then (s.channel ((off - 0x89000) / 8)).status
  else if 0x90000 ≤ off ∧ off < 0x90060 then (s.port ((off - 0x90000) / 8)).status
  else if off = 0x90060 then s.fabric.node
  else if 0x90080 ≤ off ∧ off < 0x90100 then (s.gate ((off - 0x90080) / 8)).reg
  else if off = 0x91000 then s.powerStatus
  else if off = 0x92000 ∨ off = 0x92008 then wordOf s.timed (off / 8 % 2)
  else if 0x93000 ≤ off ∧ off < 0x93020 then s.identityWord ((off - 0x93000) / 8)
  else if 0x93100 ≤ off ∧ off < 0x941A0 then BitVec.ofNat 64 (leNat ((s.sec.cert.drop (off - 0x93100)).take 8))
  else 0

/-- What a read leaves: RC fields are cleared (R8). -/
def State.apertureRead (s : State) (off : Nat) : State :=
  if 0x70000 ≤ off ∧ off < 0x78000 then s.modCtx ((off - 0x70000) / 8) (fun k => { k with status := setF k.status 63 48 0 })
  else if 0x80000 ≤ off ∧ off < 0x88000 then s.modCtx ((off - 0x80000) / 8) (fun k => { k with counter := 0 })
  else if 0x88200 ≤ off ∧ off < 0x88270 then s.modLink ((off - 0x88200) / 8) (fun k => { k with status := setF k.status 63 48 0 })
  else if 0x89000 ≤ off ∧ off < 0x89800 then s.modChannel ((off - 0x89000) / 8) (fun k => { k with status := setF k.status 63 40 0 })
  else if 0x90000 ≤ off ∧ off < 0x90060 then s.modPort ((off - 0x90000) / 8) (fun k => { k with status := setF k.status 63 48 0 })
  else if off = 0x92000 then { s with timed := setF s.timed 47 0 0 }
  else s

/-- A W1C write: the ones of `v` within `mask` clear (R8). -/
def w1c (old v : Word) (mask : Nat) : Word := old &&& ~~~(v &&& BitVec.ofNat 64 mask)

/-- A write of an 8-byte register by its access codes (R8, R333); none where the value is an invalid encoding (R213). -/
def State.apertureStore (s : State) (off : Nat) (v : Word) : Option State :=
  if off < 0x20000 then some (s.ringDoorbell (off / 8) v.toNat)
  else if 0x70000 ≤ off ∧ off < 0x78000 then
    some (s.modCtx ((off - 0x70000) / 8) (fun k => { k with status := w1c k.status v 1 }))
  else if 0x78000 ≤ off ∧ off < 0x80000 then
    some (s.modCtx ((off - 0x78000) / 8) (fun k => { k with num := w1c k.num v 0x1F }))
  else if 0x88200 ≤ off ∧ off < 0x88270 then
    some (s.modLink ((off - 0x88200) / 8) (fun k => { k with status := w1c k.status v 1 }))
  else if off = 0x88300 then s.setPartition false v
  else if off = 0x88308 then s.setPartition true v
  else if 0x89000 ≤ off ∧ off < 0x89800 then
    some (s.modChannel ((off - 0x89000) / 8) (fun k => { k with status := w1c k.status v 1 }))
  else if 0x90000 ≤ off ∧ off < 0x90060 then
    some (s.modPort ((off - 0x90000) / 8) (fun k => { k with status := w1c k.status v 1 }))
  else some s

/-- Offsets whose writes are rows of their own: doorbells, the partition registers, and the measurement register. -/
def ownRow (off : Nat) : Bool :=
  decide (off < 0x20000) || off == 0x88300 || off == 0x88308 || decide (0x93080 ≤ off ∧ off < 0x930B0)

/-- Whether the PMP of a core lets it reach an aperture offset (R270, and entry 1 of the start-up settings). -/
def State.apertureAllows (s : State) (n off : Nat) : Bool :=
  (s.core n).mode == 3 || !(decide (0x93000 ≤ off ∧ off < 0x94000))

/-- APERTURE_WRITE: a core's aligned 8-byte write of a register without a row of its own (R333). -/
def stepApertureWrite (n : BitVec 6) (off : BitVec 24) (value : Word) (s : State) : State :=
  if off.toNat % 8 ≠ 0 ∨ ownRow off.toNat ∨ !s.apertureAllows n.toNat off.toNat then s
  else (s.apertureStore off.toNat value).getD s
def execApertureWrite (n : BitVec 6) (off : BitVec 24) (value : Word) (s : State) : Host.Outcome State Fault Refusal :=
  .next (stepApertureWrite n off value s)

/-- A read of one register: the value returned, and what the read leaves. -/
def State.readRegister (s : State) (off : Nat) : State :=
  let v := s.apertureValue off
  (s.apertureRead off).modShared (fun h => { h with readData := leBytes 8 v.toNat })

/-- LINK_STATUS_READ (R31). -/
def execLinkStatusRead (l : BitVec 3) (e : Bool) (s : State) : Host.Outcome State Fault Refusal :=
  .next (s.readRegister (0x88200 + (l.toNat * 2 + (if e then 1 else 0)) * 8))
/-- CHANNEL_STATUS_READ (R261). -/
def execChannelStatusRead (ch : BitVec 8) (s : State) : Host.Outcome State Fault Refusal :=
  .next (s.readRegister (0x89000 + ch.toNat * 8))
/-- QUIRE_COUNTER_READ (R244). -/
def execQuireCounterRead (x : BitVec 12) (s : State) : Host.Outcome State Fault Refusal :=
  .next (s.readRegister (0x80000 + x.toNat * 8))
/-- CONTEXT_STATUS_READ (R332). -/
def execContextStatusRead (x : BitVec 12) (s : State) : Host.Outcome State Fault Refusal :=
  .next (s.readRegister (0x70000 + x.toNat * 8))
/-- PORT_STATUS_READ (R396). -/
def execPortStatusRead (p : BitVec 4) (s : State) : Host.Outcome State Fault Refusal :=
  .next (s.readRegister (0x90000 + p.toNat * 8))
/-- TIMED_STATUS_READ: the low word holds the RC counts (R432). -/
def execTimedStatusRead (upper : Bool) (s : State) : Host.Outcome State Fault Refusal :=
  .next (s.readRegister (0x92000 + (if upper then 8 else 0)))

/-! ### Group state image (R153, R154) -/

/-- Byte `i` of a number. -/
def byteOf (v i : Nat) : Byte := BitVec.ofNat 8 (v >>> (8 * i))

/-- A convergence-stack entry as the image shows it. -/
def Entry.image (e : Entry) : Nat :=
  put e.pc.toNat 48 80 + put e.mask.toNat 32 48 + put (match e.st with | .ready => 0 | .yielded => 1 | .waiting => 2) 2 46

/-- Status word of a group. -/
def Group.statusWord (g : Group) : Nat := match g.status with | .running => 0 | .parked => 1 | .retired => 2 | .discarded => 3 | .idle => 0

/-- One byte of what a group's state image is made of, whatever the group does: a spill slot holds it so (R39, R153). -/
def Group.stateByte (g : Group) (o : Nat) : Byte :=
  if o < 0x20 then byteOf (if g.status = .parked then g.park.toNat else 0) o
  else if o < 0x28 then byteOf g.statusWord (o - 0x20)
  else if o < 0x40 then 0
  else if o < 0x240 then byteOf ((g.stack[(o - 0x40) / 16]?).elim 0 Entry.image) (o % 16)
  else if o < 0x400 then 0
  else if o < 0x2400 then
    (if (o - 0x400) / 8 % 32 = 0 then 0 else byteOf (tget 0 g.x ((o - 0x400) / 8)).toNat (o % 8))
  else if o < 0x3400 then byteOf (tget 0 g.f ((o - 0x2400) / 4)).toNat (o % 4)
  else if o < 0x3480 then byteOf (tget 0 g.fcsr ((o - 0x3400) / 4)).toNat (o % 4)
  else 0

/-- One byte of a group's state image; the register and stack ranges of a running group read zero. -/
def Group.imageByte (g : Group) (o : Nat) : Byte := if g.status = .running ∧ 0x28 ≤ o then 0 else g.stateByte o

/-- Offsets of the image that may be written. -/
def imageRW (o : Nat) : Bool := decide (0x400 ≤ o ∧ o < 0x3480)

/-- Replace a byte of a number. -/
def withByte (v i : Nat) (b : Byte) : Nat := setBits v 8 (8 * i) b.toNat

/-- Write one byte of the register ranges; the slot of x0 and all of fcsr but fflags ignore it (R47). -/
def Group.setImageByte (g : Group) (o : Nat) (b : Byte) : Group :=
  if o < 0x400 then g
  else if o < 0x2400 then
    let i := (o - 0x400) / 8
    if i % 32 = 0 then g else { g with x := tput 0 g.x i (BitVec.ofNat 64 (withByte (tget 0 g.x i).toNat (o % 8) b)) }
  else if o < 0x3400 then
    let i := (o - 0x2400) / 4
    { g with f := tput 0 g.f i (BitVec.ofNat 32 (withByte (tget 0 g.f i).toNat (o % 4) b)) }
  else if o < 0x3480 then
    let i := (o - 0x3400) / 4
    { g with fcsr := tput 0 g.fcsr i (BitVec.ofNat 32 (withByte (tget 0 g.fcsr i).toNat (o % 4) b % 32)) }
  else g

/-- RS of the park record. -/
def Group.mayResume (g : Group) : Bool := g.status == .parked && bit g.park 229

/-- Write bytes of a group's state image; none where the write is rejected (R154). -/
def State.imageWrite (s : State) (c g o : Nat) (bs : List Byte) : Option State :=
  if !(s.group c g).mayResume || !imageRW o || !imageRW (o + bs.length - 1) then none
  else some (s.modGroup c g (fun k => bs.zipIdx.foldl (fun k (b, i) => k.setImageByte (o + i) b) k))

/-- A core's write through the inspection aperture (R154, R270): none where rejected or not an aligned access of 4 or 8 bytes. -/
def State.inspectionStore (s : State) (off n : Nat) (v : Nat) : Option State :=
  if off % n ≠ 0 then none
  else s.imageWrite (off / 2 ^ 20) (off / 2 ^ 14 % 64) (off % 2 ^ 14) (leBytes n v)

/-- Address of the inspection aperture as the cores reach it (R270). -/
def inspectionBase : Nat := 0x060000000000

/-- INSPECTION_APERTURE_WRITE (R154): a write that is not allowed is ignored, and reported to the core that makes it as a store access fault at
the physical address (log 89). -/
def stepInspectionApertureWrite (n : BitVec 6) (off : BitVec 27) (wide : Bool) (value : Word) (s : State) : State :=
  match s.inspectionStore off.toNat (if wide then 8 else 4) value.toNat with
  | some s => s
  | none => s.modCore n.toNat (fun k => k.takeTrap { cause := 7, tval := inspectionBase + off.toNat })
def execInspectionApertureWrite (n : BitVec 6) (off : BitVec 27) (wide : Bool) (value : Word) (s : State) :
    Host.Outcome State Fault Refusal := .next (stepInspectionApertureWrite n off wide value s)

/-- A read through the inspection aperture. -/
def State.inspectionLoad (s : State) (off n : Nat) : Nat :=
  leNat ((List.range n).map (fun i => (s.group (off / 2 ^ 20) (off / 2 ^ 14 % 64)).imageByte (off % 2 ^ 14 + i)))

end Sys2Proof.Machine
end

