-- ==== Sys2Proof/Machine/Channel.lean ====
section
/-!
DEFINITION. The memory channels (R245-R267): arrival of fetched sectors, the controller's fetches and writes, refresh, patrol scrub, error
counts, training with sparing and map-out, and failure outside cold start.
-/

namespace Sys2Proof.Machine

def chState (k : Channel) : Nat := fld k.status 7 4
def Channel.setState (k : Channel) (v : Nat) : Channel := { k with status := setF k.status 7 4 v }

/-- A place in a die (R260). -/
structure DiePlace where
  bank : Nat
  row : Nat
  half : Nat
deriving DecidableEq, Repr

/-- The place that a line index names: bank q[4:0], row q[21:6], half q[5] of the row (R260). -/
def diePlace (q : Nat) : DiePlace := { bank := q % 32, row := q / 64 % 65536, half := q / 32 % 2 }

/-- Where in its die a sector lies (R260). -/
def State.diePlaceOf (s : State) (pa : Nat) : DiePlace := diePlace (s.placeOf pa).2

/-- Bank of the die that a sector lies in (R260). -/
def State.dieBank (s : State) (pa : Nat) : Nat := (s.diePlaceOf pa).bank

/-- A sector's row is open in its bank from its access on; how long a row stays open the spec leaves to the controller: until the bank's next
access to another row or its refresh (R262, log 90). -/
def State.openRow (s : State) (c pa : Nat) : State :=
  let d := s.diePlaceOf pa
  s.modChannel c (fun k => { k with rows := tput none k.rows d.bank (some d.row) })

/-! ### Fetches and writes -/

/-- Requests and transactions that wait for a sector whose fetch has failed are answered Err 0x001 (R249, R479). -/
def State.failWaiters (s : State) (h : Bool) (pa : Nat) : State :=
  let needs := fun (m : MemMsg) => sectorBase m.pa.toNat == pa && !isWrFull m && !isDead m
  let out := (s.half h).wait.filter needs
  let s := s.modHalf h (fun k => { k with wait := k.wait.filter (fun m => !needs m), noted := k.noted.filter (fun m => !out.contains m) })
  let s := out.foldl (fun s m =>
    if isRedOrd m then (s.answerErr m 1).failTracker h pa 1 else s.answerErr m 1) s
  (s.half h).trans.foldl (fun s t => match t.what with
    | .core m => if t.pa.toNat = pa ∧ t.waitFor = [] ∧ t.granted.isNone ∧ !t.ownerSends then
        (s.sendMem { toCore m with op := 4, attr := 1 }).closeTrans h t.pa else s
    | _ => s) s

/-- Context that a record of an uncorrectable fetch names (R250, R482): that of the masked write that waits for the sector, else of the first
request that does, else of the request that began the fetch; a core and a maintenance command carry none. -/
def State.fetchCtx (s : State) (h : Bool) (pa : Nat) (f : Fetch) : Option Nat :=
  let ws := (s.half h).wait.filter (fun m => sectorBase m.pa.toNat == pa && !isWrFull m && !isDead m)
  let (src, x) := match ws.find? isWrMask with
    | some m => (m.src, m.ctx)
    | none => match ws with
      | m :: _ => (m.src, m.ctx)
      | [] => (f.src, f.ctx)
  if 0x100 ≤ src.toNat ∧ src.toNat < 0x140 ∨ 0x400 ≤ src.toNat then none else some x.toNat

/-- SECTOR_ARRIVAL: the next sector of an issued fetch reaches the Quire, which checks it, installs it and serves the requests that wait
for it (R218-R220, R248, R249, R482). `errs` are wrong symbols of this read (log 14). -/
def stepSectorArrival (ch : BitVec 8) (pa : BitVec 48) (errs : List SymErr) (s : State) : State :=
  let c := ch.toNat
  let p := pa.toNat
  let h := homeEast p
  match takeFirst (fun (f : Fetch) => f.issued && f.sectors.head? == some pa) (s.channel c).fetches with
  | none => s
  | some (f, rest) =>
    let left := if f.sectors.length ≤ 1 then rest else { f with sectors := f.sectors.drop 1 } :: rest
    let s := s.modChannel c (fun k => { k with fetches := left })
    let newer := (s.half h).around.any (fun e => e.1 == pa) || (s.channel c).writes.any (fun e => e.1 == pa)
    let es := if newer then [] else tget [] (s.channel c).dieErrs (p / 128) ++ errs
    let bad := errsUncorrectable es
    let data := if newer then s.belowSector p else ofSectorBytes (readBytes s.mem p 128) ^^^ residualFlip es
    let s := s.countErrs c es
    let s := s.modHalf h (fun k => match k.findWay (quireSet p) (lineOf p) with
      | none => k
      | some w => k.modWay (quireSet p) w (fun l =>
          let was := l.filling
          let l := { l with filling := setB l.filling (sectorOf p) false }
          if bad || l.valid.getLsbD (sectorOf p) || !was.getLsbD (sectorOf p) then l
          else { l with valid := setB l.valid (sectorOf p) true, data := tput 0 l.data (sectorOf p) data }))
    let s := if bad then
        ((s.modChannel c (fun k => { k with dieErrs := tput [] k.dieErrs (p / 128) es })).memError 2 c (pa := some p)
          (x := s.fetchCtx h p f)).failWaiters h p
      else s
    s.progress h
def execSectorArrival (ch : BitVec 8) (pa : BitVec 48) (errs : List SymErr) (s : State) : Host.Outcome State Fault Refusal :=
  .next (stepSectorArrival ch pa errs s)

/-- Thermal level of a stack's branch (R266). -/
def State.branchLevel (s : State) (stack : Nat) : Nat := (tget 0 s.power.stackLevel (stack / 4)).toNat

/-- Whether a fetch may issue: its bank is not eight refresh commands behind (R264). -/
def State.mayIssue (s : State) (c : Nat) (f : Fetch) : Bool :=
  !f.issued && (match f.sectors with
    | p :: _ => decide (tget 0 (s.channel c).owed (s.dieBank p.toNat) < 8)
    | [] => false)

/-- Whether a stack makes no requests: its branch holds level 4, and it has reached the threshold or is the hottest of the four, which keeps the
level up (R266, log 90). -/
def State.tooHot (s : State) (stack : Nat) : Bool :=
  let t := fun (i : Nat) => (tget 0 s.stackTemp i).toNat
  decide (4 ≤ s.branchLevel stack) &&
    (decide (110 ≤ t stack) || (List.range 4).all (fun i => decide (t (stack / 4 * 4 + i) ≤ t stack)))

/-- Whether a channel carries requests: it is up, and its stack is not too hot (R253, R266). -/
def State.carries (s : State) (c : Nat) : Bool := chState (s.channel c) == 2 && !s.tooHot (c / 16)

/-- Bank and row that a fetch reads. -/
def State.fetchPlace (s : State) (f : Fetch) : DiePlace := s.diePlaceOf (f.sectors.headD 0).toNat

/-- The next fetch to issue: the oldest within its bank, and of these first one whose row is open in its bank (R262). -/
def State.nextFetch (s : State) (c : Nat) : Option Fetch :=
  let k := s.channel c
  let may := k.fetches.filter (s.mayIssue c)
  let oldest := may.zipIdx.filter (fun p => !(may.take p.2).any (fun g => (s.fetchPlace g).bank == (s.fetchPlace p.1).bank))
  let open_ := oldest.find? (fun p => tget none k.rows (s.fetchPlace p.1).bank == some (s.fetchPlace p.1).row)
  (open_.or oldest.head?).map (fun p => p.1)

/-- CHANNEL_FETCH: the next fetch goes to its die, unless the controller serves only writes (R262, R264, R266). -/
def stepChannelFetch (ch : BitVec 8) (s : State) : State :=
  let k := s.channel ch.toNat
  if !s.carries ch.toNat ∨ k.drainMode then s
  else match s.nextFetch ch.toNat with
    | none => s
    | some f => (s.openRow ch.toNat (f.sectors.headD 0).toNat).modChannel ch.toNat (fun k => { k with fetches := k.fetches.map (fun g =>
        if g = f then { g with issued := true } else g) })
def execChannelFetch (ch : BitVec 8) (s : State) : Host.Outcome State Fault Refusal := .next (stepChannelFetch ch s)

/-- Write a sector into a channel's dies, with fresh check symbols (R249). -/
def State.writeDie (s : State) (c pa : Nat) (d : Sector) : State :=
  let s := s.modChannel c (fun k => { k with dieErrs := tput [] k.dieErrs (pa / 128) [] })
  { s with mem := writeBytes s.mem pa (sectorBytes d) }

/-- CHANNEL_WRITE: the oldest sector of the write queue goes to its die; the controller serves only writes until 32 are left where a
fetch could issue (R262). -/
def stepChannelWrite (ch : BitVec 8) (s : State) : State :=
  let k := s.channel ch.toNat
  if !s.carries ch.toNat then s
  else match k.writes with
    | [] => s
    | (p, d) :: rest =>
      let only := k.drainMode || k.fetches.any (s.mayIssue ch.toNat)
      ((s.modChannel ch.toNat (fun k => { k with writes := rest, drainMode := only && decide (32 < rest.length) })).writeDie
        ch.toNat p.toNat d).openRow ch.toNat p.toNat |>.progress (homeEast p.toNat)
def execChannelWrite (ch : BitVec 8) (s : State) : Host.Outcome State Fault Refusal := .next (stepChannelWrite ch s)

/-- Fetches that find their bank refreshing in timed mode count toward RefWaits in units of 1,024 (R264, R432). -/
def State.countRefWaits (s : State) (n : Nat) : State :=
  if !s.timedOn then s
  else
    let t := s.timedRef.toNat + n
    { s with timed := setF s.timed 15 0 (satAdd 16 (fld s.timed 15 0) (t / 1024)), timedRef := BitVec.ofNat 10 t }

/-- REFRESH: a bank's command falls due and is issued, postponed while fetches wait for the bank, or issued ahead while no fetch is in the bank or
it is behind; it leaves no row open (R263, R264). -/
def stepRefresh (ch : BitVec 8) (bank : BitVec 5) (act : RefreshAction) (s : State) : State :=
  let k := s.channel ch.toNat
  let b := bank.toNat
  let n : Int := tget 0 k.owed b
  let waiting := k.fetches.any (fun f => !f.issued && f.sectors.any (fun p => s.dieBank p.toNat == b))
  let late := k.fetches.countP (fun f => !f.issued && f.sectors.any (fun p => s.dieBank p.toNat == b))
  let idle := !k.fetches.any (fun f => f.sectors.any (fun p => s.dieBank p.toNat == b))
  let set := fun (v : Int) => s.modChannel ch.toNat (fun k => { k with owed := tput 0 k.owed b v })
  let done := fun (t : State) => (t.modChannel ch.toNat (fun k => { k with rows := tput none k.rows b none })).countRefWaits late
  if chState k ≠ 2 then s
  else match act with
    | .issue => done s
    | .postpone => if waiting ∧ n < 8 then set (n + 1) else s
    | .pullIn => if 0 < n ∨ (idle ∧ -8 < n) then done (set (n - 1)) else s
def execRefresh (ch : BitVec 8) (bank : BitVec 5) (act : RefreshAction) (s : State) : Host.Outcome State Fault Refusal :=
  .next (stepRefresh ch bank act s)

/-! ### Errors over time -/

/-- SYMBOL_THRESHOLD: a position with 1,024 corrections within an hour is flagged and reported (R251). -/
def stepSymbolThreshold (ch : BitVec 8) (pos : BitVec 7) (s : State) : State :=
  let k := s.channel ch.toNat
  let ts := tget [] k.corr pos.toNat
  if k.flagged.contains pos || decide (ts.length < 1024) ||
     decide (3600 * 10 ^ 9 < (ts.headD 0).toNat - (ts.getD 1023 0).toNat) then s
  else
    (s.modChannel ch.toNat (fun k => { k with flagged := k.flagged ++ [pos] })).memError 1 ch.toNat (pos := some pos.toNat)
      (level := min 15 (k.flagged.length + 1))
def execSymbolThreshold (ch : BitVec 8) (pos : BitVec 7) (s : State) : Host.Outcome State Fault Refusal :=
  .next (stepSymbolThreshold ch pos s)

/-- Address of the line at a line index of a channel (R210, R259). -/
def State.lineAtIndex (s : State) (ch q : Nat) : Option Nat :=
  let h := decide (128 ≤ ch)
  let list := s.channelList h
  match list.zipIdx.find? (fun p => p.1 == ch) with
  | none => none
  | some (_, i) =>
    let n := list.length
    let l := q * n + (i + n - q % n) % n
    let a := l * 4096
    some (if homeEast a = h then a else a + 2048)

/-- Scrub one sector (R252). -/
def State.scrubSector (s : State) (ch pa : Nat) (errs : List SymErr) : State :=
  if (s.channel ch).writes.any (fun e => e.1.toNat == pa) then s
  else
    let es := tget [] (s.channel ch).dieErrs (pa / 128) ++ errs
    let s := s.countErrs ch es
    if errsUncorrectable es then
      (s.modChannel ch (fun k => { k with dieErrs := tput [] k.dieErrs (pa / 128) es })).memError 3 ch (pa := some pa)
    else if correctedAt es = [] then s
    else s.writeDie ch pa (ofSectorBytes (readBytes s.mem pa 128) ^^^ residualFlip es)

/-- Whether the scrubber's turn has come, the lowest in the channel's fetch scheduling: no fetch may issue, the controller does not serve only
writes, and the bank of its next line is not eight refresh commands behind (R252, R262, R264).  It pauses while the module sleeps (R265). -/
def State.scrubTurn (s : State) (c : Nat) : Bool :=
  let k := s.channel c
  s.powerState == 1 && s.carries c && !k.drainMode && !k.fetches.any (s.mayIssue c) && decide (tget 0 k.owed (diePlace k.scrub.toNat).bank < 8)

/-- PATROL_SCRUB: the scrubber reads the next line index of a channel (R252). `errs` are wrong symbols of this read, by sector of the
line (log 14). -/
def stepPatrolScrub (ch : BitVec 8) (errs : List (BitVec 4 × SymErr)) (s : State) : State :=
  let k := s.channel ch.toNat
  if !s.scrubTurn ch.toNat then s
  else
    let s' := s.modChannel ch.toNat (fun k => { k with scrub := k.scrub + 1 })
    match s.lineAtIndex ch.toNat k.scrub.toNat with
    | none => s'
    | some a => (List.range 16).foldl (fun s i =>
        s.scrubSector ch.toNat (a + 128 * i) ((errs.filter (fun e => e.1.toNat == i)).map (fun e => e.2))) s'
def execPatrolScrub (ch : BitVec 8) (errs : List (BitVec 4 × SymErr)) (s : State) : Host.Outcome State Fault Refusal :=
  .next (stepPatrolScrub ch errs s)

/-! ### Training and failure -/

/-- A channel fails outside cold start (R258): recorded, every context stopped, no new work. -/
def State.channelFails (s : State) (ch : Nat) : State :=
  let s := s.modChannel ch (fun k => k.setState 6)
  { (s.memError 6 ch).stopAll with refuseWork := true }

/-- CHANNEL_FAILED_OUTSIDE_COLD_START (R258). -/
def stepChannelFailedOutsideColdStart (ch : BitVec 8) (s : State) : State :=
  let st := chState (s.channel ch.toNat)
  if s.starting ∨ s.coldStep = 0 ∨ st = 4 ∨ st = 5 ∨ st = 6 then s else s.channelFails ch.toNat
def execChannelFailedOutsideColdStart (ch : BitVec 8) (s : State) : Host.Outcome State Fault Refusal :=
  .next (stepChannelFailedOutsideColdStart ch s)

/-- Positions that a channel has steered (R261). -/
def Channel.steered (k : Channel) : List (BitVec 7) :=
  (if bit k.status 19 then [BitVec.ofNat 7 (fld k.status 18 12)] else []) ++
  (if bit k.status 27 then [BitVec.ofNat 7 (fld k.status 26 20)] else [])

/-- Steer a marked lane onto the first free spare (R254). -/
def Channel.steer (k : Channel) (p : BitVec 7) : Channel :=
  if !bit k.status 19 then { k with status := setB (setF k.status 18 12 p.toNat) 19 true }
  else if !bit k.status 27 then { k with status := setB (setF k.status 26 20 p.toNat) 27 true }
  else k

/-- The numbers of a list in ascending order, each once. -/
def ascending (l : List (BitVec 7)) : List (BitVec 7) :=
  ((List.range 128).map (BitVec.ofNat 7)).filter (fun p => l.contains p)

/-- CHANNEL_TRAINING_DONE (R253-R255, R258): marked lanes are steered and recorded; more than two, a failed phase, or a failure before the cold
start map the channel and its mirror out at cold start, and more than two or a failed phase fail the channel at a short retrain.  A mirror that is
still training leaves the service when its own training is done.  The corrections counted before stay counted (log 97). -/
def stepChannelTrainingDone (ch : BitVec 8) (r : ChannelTraining) (s : State) : State :=
  let c := ch.toNat
  if chState (s.channel c) ≠ 1 then s
  else
    let cold := s.starting
    let failed := (s.channel c).failed
    let s := if cold then s.modChannel c (fun k =>
      { k with status := setF (setF k.status 27 20 0) 19 12 0, failed := false }) else s
    let k := s.channel c
    let marks := ascending (r.marked ++ k.flagged ++ k.factory ++ k.steered)
    let mirror := c ^^^ 0x80
    if r.phaseFail ∨ 2 < marks.length ∨ failed then
      (if cold then
        let s := (s.modChannel c (fun k => { k.setState 4 with flagged := [] })).memError 5 c
          (level := if r.phaseFail ∨ marks.length ≤ 2 then 0 else min 15 marks.length)
        if chState (s.channel mirror) = 2 then s.modChannel mirror (fun k => k.setState 5) else s
      else s.channelFails c)
    else
      let fresh := marks.filter (fun p => !k.steered.contains p)
      let s := fresh.foldl (fun s p => (s.modChannel c (fun k => k.steer p)).memError 4 c (pos := some p.toNat)) s
      s.modChannel c (fun k =>
        { k.setState (if chState (s.channel mirror) = 4 then 5 else 2) with flagged := [] })
def execChannelTrainingDone (ch : BitVec 8) (r : ChannelTraining) (s : State) : Host.Outcome State Fault Refusal :=
  .next (stepChannelTrainingDone ch r s)

end Sys2Proof.Machine
end

