-- ==== Sys2Proof/Machine/Coherence.lean ====
section
/-!
DEFINITION. The coherence protocol of the Zawick cores: requests, evictions and snoop answers at their home (R271-R283), and snoops,
grants and write-backs at a core (R269, R277-R280, R286, R287).
-/

namespace Sys2Proof.Machine

/-! ### The home -/

/-- Coherence trackers of a bank that core requests hold (R276). -/
def QHalf.trackers (k : QHalf) (bank : Nat) : Nat :=
  k.trans.countP (fun t => bankOf t.pa.toNat == bank && (match t.what with | .core _ => true | _ => false))

/-- Core that sent a message (R224: source 0x100 + n). -/
def cohCore (m : CohMsg) : Nat := m.src.toNat % 64

/-- A coherence request is answered Retry on VC1, and the starvation record of its bank may take it up (R280, R281). -/
def State.cohRetry (s : State) (m : CohMsg) : State :=
  let h := homeEast m.pa.toNat
  let b := bankOf m.pa.toNat
  let r : Starved := { src := m.src, tag := m.tag, pa := m.pa, age := m.age }
  let take := match tget none (s.half h).starved b with
    | none => true
    | some o => decide (o.age.toNat < m.age.toNat) || (o.age == m.age && decide (m.src.toNat < o.src.toNat))
  (if take then s.modHalf h (fun k => { k with starved := tput none k.starved b (some r) }) else s).sendMem
    { toCore m with op := 5 }

/-- Whether a starvation record is that of a request. -/
def Starved.isOf (r : Starved) (m : CohMsg) : Bool := r.src == m.src && r.tag == m.tag && r.pa == m.pa

/-- Whether a home may accept a request for a sector now (R272, R276, R281-R283). -/
def State.admits (s : State) (m : CohMsg) : Bool :=
  let pa := m.pa.toNat
  let k := s.half (homeEast pa)
  let used := k.trackers (bankOf pa)
  let record := match tget none k.starved (bankOf pa) with
    | none => true
    | some r => r.isOf m || (r.pa != m.pa && used != 31)
  (k.transAt pa).isNone && decide (used < 32) && record && !s.trackerOpen pa &&
  !(k.lineAt pa).any (fun l => l.2.busy || l.2.evicting)

/-- A coherent request at its home (R276): Retry, or a transaction with the snoops of the table. -/
def State.cohRequest (s : State) (m : CohMsg) : State :=
  let pa := m.pa.toNat
  let h := homeEast pa
  s.takeCoh m <| fun s =>
  if s.capacity ≤ pa then s.sendMem { toCore m with op := 4, attr := 4 }
  else if !s.admits m then s.cohRetry m
  else
    let e := (s.half h).dirOf pa
    let others := e.holders.filter (fun n => e.dstate == 2 || n != m.core.toNat)
    let targets := if m.op = 1 ∧ e.dstate = 1 then [] else others
    let op := if e.dstate = 2 then (if m.op = 1 then 0x10 else 0x11) else 0x12
    let cs := targets.map (BitVec.ofNat 6)
    let t : Transaction := { pa := m.pa, what := .core m, waitFor := cs, snooped := cs, ownerSends := e.dstate == 2 }
    let b := bankOf pa
    let s := s.modHalf h (fun k =>
      let st := if (tget none k.starved b).any (fun r => r.isOf m) then tput none k.starved b none else k.starved
      { k with trans := k.trans ++ [t], starved := st })
    let s := if upgradeHolds e m then s.touchLine pa 0 else s.noteAccess pa 0 true
    let s := targets.foldl (fun s n => s.snoop h op n m.core m.tag m.pa) s
    if targets = [] then s.tryGrant h t m else s

/-- RDSHARED (R276). -/
def stepRdShared (m : CohMsg) (s : State) : State := if m.op = 1 then s.cohRequest m else s
def execRdShared (m : CohMsg) (s : State) : Host.Outcome State Fault Refusal := .next (stepRdShared m s)
/-- RDUNIQUE (R276). -/
def stepRdUnique (m : CohMsg) (s : State) : State := if m.op = 2 then s.cohRequest m else s
def execRdUnique (m : CohMsg) (s : State) : Host.Outcome State Fault Refusal := .next (stepRdUnique m s)
/-- UPGRADE: handled as RdUnique where the requester is no sharer (R276, R278). -/
def stepUpgrade (m : CohMsg) (s : State) : State := if m.op = 3 then s.cohRequest m else s
def execUpgrade (m : CohMsg) (s : State) : Host.Outcome State Fault Refusal := .next (stepUpgrade m s)

/-- Take a core out of a directory entry (R279). -/
def DirEnt.without (e : DirEnt) (n : Nat) : DirEnt :=
  if e.dstate = 2 then (if e.owner.toNat = n then {} else e)
  else if e.dstate = 1 then
    let sh := e.sharers &&& ~~~(1#64 <<< n)
    if sh = 0 then {} else { e with sharers := sh }
  else e

/-- EVICTCLEAN (R279). -/
def stepEvictClean (m : CohMsg) (s : State) : State :=
  let h := homeEast m.pa.toNat
  if m.op ≠ 5 then s
  else s.takeCoh m (fun s => (s.setDir h m.pa.toNat (((s.half h).dirOf m.pa.toNat).without (cohCore m))).progress h)
def execEvictClean (m : CohMsg) (s : State) : Host.Outcome State Fault Refusal := .next (stepEvictClean m s)

/-- Answer a WbFull (R279). -/
def State.wbAckTo (s : State) (m : CohMsg) : State :=
  s.sendCoh { op := 0x19, src := homeSrc (homeEast m.pa.toNat), tag := m.tag, core := m.core,
              dst := BitVec.ofNat 6 (cohCore m), pa := m.pa }

/-- A WbFull completes as a clean eviction: its data is discarded (R279). -/
def State.cleanEvict (s : State) (m : CohMsg) : State :=
  let h := homeEast m.pa.toNat
  (if bit m.attr 1 then s
   else s.setDir h m.pa.toNat (((s.half h).dirOf m.pa.toNat).without (cohCore m))).wbAckTo m

/-- The sector of an address is lost at its home: its newest data failed a code check in a core (R243, R287). -/
def State.lostAt (s : State) (pa : Nat) : State :=
  let h := homeEast pa
  match (s.half h).findWay (quireSet pa) (lineOf pa) with
  | some w => s.markLost h (quireSet pa) w (sectorOf pa)
  | none => s

/-- A WbFull that no open transaction's snoop of its sender concerns: it needs a tracker, and writes the line where the sender owns the sector
(R279, R281). -/
def State.wbServe (s : State) (m : CohMsg) : State :=
  let pa := m.pa.toNat
  let h := homeEast pa
  let k := s.half h
  let used := k.trackers (bankOf pa)
  if 32 ≤ used ∨ (used = 31 ∧ (tget none k.starved (bankOf pa)).any (fun r => !r.isOf m)) then s.cohRetry m
  else
    let e := k.dirOf pa
    let s := s.modHalf h (fun k =>
      { k with starved := if (tget none k.starved (bankOf pa)).any (fun r => r.isOf m)
                          then tput none k.starved (bankOf pa) none else k.starved })
    let s := if e.dstate = 2 ∧ e.owner.toNat = cohCore m then
        let s := if bit m.attr 0 then s.lostAt pa else (s.noteAccess pa 0 false).homePut pa m.data
        (if bit m.attr 1 then s else s.setDir h pa {}).wbAckTo m
      else s.cleanEvict m
    s.progress h

/-- WBFULL (R279, R281). -/
def stepWbFull (m : CohMsg) (s : State) : State :=
  let n := cohCore m
  if m.op ≠ 4 then s
  else s.takeCoh m <| fun s =>
    match (s.half (homeEast m.pa.toNat)).transAt m.pa.toNat with
    | some t =>
      if t.waitFor.any (fun c => c.toNat == n) then
        s.modHalf (homeEast m.pa.toNat) (fun k => { k with trans := k.trans.map (fun u =>
          if u.pa = t.pa then { u with wbSlot := u.wbSlot ++ [m] } else u) })
      else if t.snooped.any (fun c => c.toNat == n) then s.cleanEvict m
      else s.wbServe m
    | none => s.wbServe m
def execWbFull (m : CohMsg) (s : State) : Host.Outcome State Fault Refusal := .next (stepWbFull m s)

/-- Every snoop of a transaction has been answered (R276, R282, R272). -/
def State.snoopsDone (s : State) (h : Bool) (t : Transaction) : State :=
  let pa := t.pa.toNat
  let e := (s.half h).dirOf pa
  let toShared := fun (s : State) =>
    if e.dstate = 2 then s.setDir h pa { dstate := 1, sharers := 1#64 <<< e.owner.toNat } else s
  match t.what with
  | .core m => s.tryGrant h t m
  | .noncoh m => ((if isRdSec m then toShared s else s.setDir h pa {}).closeTrans h t.pa).progress h
  | .maint down => ((if down then toShared s else s.setDir h pa {}).closeTrans h t.pa).progress h
  | .recall => ((s.setDir h pa {}).closeTrans h t.pa).progress h

/-- A snoop answer reaches its home: `held` says that the core held the sector, `lost` that its data failed its check, `data` is what it
returned (R243, R276, R277, R279). -/
def State.snoopAnswer (s : State) (m : CohMsg) (held lost : Bool) (data : Option Sector) : State :=
  let pa := m.pa.toNat
  let h := homeEast pa
  let n := cohCore m
  match (s.half h).transAt pa with
  | none => s
  | some t =>
    if !t.waitFor.any (fun c => c.toNat == n) then s
    else
      let s := match data with
        | some d => s.homePut pa d
        | none => if lost then s.lostAt pa else s
      let t1 : Transaction := { t with waitFor := t.waitFor.filter (fun c => c.toNat != n),
                                       ownerSends := t.ownerSends && held && !lost,
                                       wbSlot := t.wbSlot.filter (fun w => cohCore w != n) }
      let s := s.modHalf h (fun k => { k with trans := k.trans.map (fun u => if u.pa = t.pa then t1 else u) })
      let s := (t.wbSlot.filter (fun w => cohCore w == n)).foldl (fun s w => s.cleanEvict w) s
      if t1.waitFor = [] then s.snoopsDone h t1 else s

/-- SNPACK (R276, R277). -/
def stepSnpAck (m : CohMsg) (s : State) : State :=
  if m.op ≠ 0x20 then s else s.takeCoh m (fun s => s.snoopAnswer m (bit m.attr 1) (bit m.attr 2) none)
def execSnpAck (m : CohMsg) (s : State) : Host.Outcome State Fault Refusal := .next (stepSnpAck m s)

/-- SNPDATA: dirty data enters the Quire line (R272, R277, R282). -/
def stepSnpData (m : CohMsg) (s : State) : State :=
  if m.op ≠ 0x21 then s else s.takeCoh m (fun s => s.snoopAnswer m true false (some m.data))
def execSnpData (m : CohMsg) (s : State) : Host.Outcome State Fault Refusal := .next (stepSnpData m s)

/-- COMPACK: the directory entry of the table, and the transaction closes (R276, R278). -/
def stepCompAck (m : CohMsg) (s : State) : State :=
  let pa := m.pa.toNat
  let h := homeEast pa
  if m.op ≠ 6 then s
  else s.takeCoh m <| fun s =>
    match (s.half h).transAt pa with
    | none => s
    | some t =>
      match t.what, t.granted with
      | .core r, some st =>
        if r.src ≠ m.src then s
        else
          let e := (s.half h).dirOf pa
          let n := cohCore m
          let own := if e.dstate = 2 then 1#64 <<< e.owner.toNat else if e.dstate = 1 then e.sharers else 0
          let e1 : DirEnt := if st = 1 then { dstate := 1, sharers := own ||| (1#64 <<< n) }
            else { dstate := 2, owner := BitVec.ofNat 6 n }
          ((s.setDir h pa e1).closeTrans h t.pa).progress h
      | _, _ => s
def execCompAck (m : CohMsg) (s : State) : Host.Outcome State Fault Refusal := .next (stepCompAck m s)

/-- STARVATION_RECORD_EXPIRY (R281). -/
def stepStarvationRecordExpiry (h : Bool) (bank : BitVec 6) (s : State) : State :=
  s.modHalf h (fun k => { k with starved := tput none k.starved bank.toNat none })
def execStarvationRecordExpiry (h : Bool) (bank : BitVec 6) (s : State) : Host.Outcome State Fault Refusal :=
  .next (stepStarvationRecordExpiry h bank s)

/-! ### The core -/

def coreSrc (n : Nat) : BitVec 12 := BitVec.ofNat 12 (0x100 + n)

/-- A sector of a core's L2. -/
def ZCore.sector (k : ZCore) (pa : Nat) : L2Sector := tget {} k.l2 (pa / 128)
def ZCore.setSector (k : ZCore) (pa : Nat) (l : L2Sector) : ZCore := { k with l2 := tput {} k.l2 (pa / 128) l }

/-- A sector leaves a core's L2, and with it its L1 copies and a reservation on it (R269, R277). -/
def ZCore.invalidate (k : ZCore) (pa : Nat) : ZCore :=
  { (k.setSector pa {}) with l1i := k.l1i.filter (fun e => e.1 != pa / 128), l1d := k.l1d.filter (fun e => e.1 != pa / 128),
                             res := if k.res.any (fun r => r.toNat / 128 == pa / 128) then none else k.res }

/-- A core's L1 instruction or data cache. -/
def ZCore.l1 (k : ZCore) (instr : Bool) : List (Nat × Sector) := if instr then k.l1i else k.l1d
def ZCore.setL1 (k : ZCore) (instr : Bool) (l : List (Nat × Sector)) : ZCore :=
  if instr then { k with l1i := l } else { k with l1d := l }

/-- A sector that a core has read from its L2 enters an L1 of 128 sets and 4 ways; the line that leaves a full set is a free choice (R269,
log 9). -/
def State.l1Fill (s : State) (n : Nat) (instr : Bool) (pa : Nat) (d : Sector) : State :=
  let l := (s.core n).l1 instr
  let mine := l.filter (fun e => e.1 % 128 == pa / 128 % 128)
  if l.any (fun e => e.1 == pa / 128) then s
  else if mine.length < 4 then s.modCore n (fun k => k.setL1 instr (l ++ [(pa / 128, d)]))
  else
    let (v, s) := s.fresh
    s.modCore n (fun k => k.setL1 instr (l.filter (fun e => (mine[v.toNat % 4]?).all (fun o => o.1 != e.1)) ++ [(pa / 128, d)]))

/-- A core's message to the home of a sector. -/
def State.toHome (s : State) (n op : Nat) (tag : BitVec 16) (core : BitVec 6) (pa : BitVec 48) (attr : Nat := 0)
    (data : Sector := 0) (age : BitVec 4 := 0) : State :=
  s.sendCoh { op := BitVec.ofNat 8 op, src := coreSrc n, tag := tag, core := core, age := age, attr := BitVec.ofNat 8 attr,
              pa := pa, data := data }

/-- A snoop at a core (R277, R287).  `toReq`: data goes to the requester; `toHome`: dirty data goes to the home; `keep`: the copy stays
shared. -/
def State.snooped (s : State) (m : CohMsg) (toReq toHome keep : Bool) : State :=
  let s := s.arrive (.coh m)
  let n := m.dst.toNat
  let pa := m.pa.toNat
  let k := s.core n
  let l := k.sector pa
  let buf := k.wb.find? (fun w => w.pa == m.pa)
  let st := if buf.isSome then L2State.modified else l.st
  let bad := match buf with | some w => w.bad | none => l.bad && decide (l.st ≠ .invalid)
  let data := match buf with | some w => w.data | none => l.data
  let fromWb := putb buf.isSome 0
  let after := fun (s : State) => s.modCore n (fun k =>
    if l.st = .invalid then k
    else if keep && !bad then k.setSector pa { l with st := .shared } else k.invalidate pa)
  let reply := fun (s : State) =>
    if toReq then s.sendDataFrom n { toCore { m with src := coreSrc m.core.toNat } with data := data } else s
  let ack := fun (s : State) (attr : Nat) => s.toHome n 0x20 m.tag m.core m.pa (attr := attr)
  match st with
  | .invalid => ack s 0
  | .modified =>
    if bad && (toReq || toHome) then after (ack s (4 + fromWb))
    else if toHome then after ((reply s).toHome n 0x21 m.tag m.core m.pa (attr := fromWb) (data := data))
    else after (ack (reply s) (2 + fromWb))
  | .exclusive => if bad then after (ack s 0) else after (ack (reply s) 2)
  | .shared => after (ack s (if bad then 0 else 2))

/-- SNPFWDS (R277). -/
def stepSnpFwdS (m : CohMsg) (s : State) : State := if m.op ≠ 0x10 then s else s.snooped m true true true
def execSnpFwdS (m : CohMsg) (s : State) : Host.Outcome State Fault Refusal := .next (stepSnpFwdS m s)
/-- SNPFWDU (R277). -/
def stepSnpFwdU (m : CohMsg) (s : State) : State := if m.op ≠ 0x11 then s else s.snooped m true false false
def execSnpFwdU (m : CohMsg) (s : State) : Host.Outcome State Fault Refusal := .next (stepSnpFwdU m s)
/-- SNPINV (R277). -/
def stepSnpInv (m : CohMsg) (s : State) : State := if m.op ≠ 0x12 then s else s.snooped m false false false
def execSnpInv (m : CohMsg) (s : State) : Host.Outcome State Fault Refusal := .next (stepSnpInv m s)
/-- SNPDOWN (R277). -/
def stepSnpDown (m : CohMsg) (s : State) : State := if m.op ≠ 0x13 then s else s.snooped m false true true
def execSnpDown (m : CohMsg) (s : State) : Host.Outcome State Fault Refusal := .next (stepSnpDown m s)
/-- SNPRECALL (R277). -/
def stepSnpRecall (m : CohMsg) (s : State) : State := if m.op ≠ 0x14 then s else s.snooped m false true false
def execSnpRecall (m : CohMsg) (s : State) : Host.Outcome State Fault Refusal := .next (stepSnpRecall m s)
/-- SNPDROP: dirty data is discarded (R241, R277). -/
def stepSnpDrop (m : CohMsg) (s : State) : State := if m.op ≠ 0x15 then s else s.snooped m false false false
def execSnpDrop (m : CohMsg) (s : State) : Host.Outcome State Fault Refusal := .next (stepSnpDrop m s)

/-- A core installs a sector once it holds the grant and the data that belongs to it, and sends CompAck (R278).  Data that has failed its check
on the way is installed as such, and the access that waits for it faults (R287). -/
def State.tryInstall (s : State) (n : Nat) (r : CoreReq) : State :=
  match r.grant with
  | none => s
  | some g =>
    if bit g 2 && r.data.isNone then s
    else
      let st : L2State := match fld g 1 0 with
        | 1 => .shared
        | 2 => .exclusive
        | _ => .modified
      (s.modCore n (fun k =>
        { (k.setSector r.pa.toNat { st := st, data := r.data.getD (k.sector r.pa.toNat).data,
                                    bad := if r.data.isSome then r.bad else (k.sector r.pa.toNat).bad }) with
            failed := if r.bad then k.failed ++ [r.pa] else k.failed,
            reqs := k.reqs.filter (fun x => x.tag != r.tag) })).toHome n 6 r.tag (BitVec.ofNat 6 n) r.pa

/-- Change an outstanding coherent request of a core, and install where it is complete. -/
def State.noteReq (s : State) (n : Nat) (tag : BitVec 16) (f : CoreReq → CoreReq) : State :=
  match (s.core n).reqs.find? (fun r => r.tag == tag) with
  | none => s
  | some r =>
    (s.modCore n (fun k : ZCore => { k with reqs := k.reqs.map (fun x => if x.tag = tag then f x else x) })).tryInstall n (f r)

/-- GRANT (R278). -/
def stepGrant (m : CohMsg) (s : State) : State :=
  if m.op ≠ 0x18 then s
  else (s.arrive (.coh m)).noteReq m.dst.toNat m.tag (fun r => { r with grant := some (BitVec.ofNat 3 (fld m.attr 2 0)) })
def execGrant (m : CohMsg) (s : State) : Host.Outcome State Fault Refusal := .next (stepGrant m s)

/-- WBACK (R279). -/
def stepWbAck (m : CohMsg) (s : State) : State :=
  if m.op ≠ 0x19 then s
  else (s.arrive (.coh m)).modCore m.dst.toNat (fun k =>
    { k with wb := k.wb.filter (fun w => w.tag != m.tag), wbRetry := k.wbRetry.filter (fun w => w.1.tag != m.tag) })
def execWbAck (m : CohMsg) (s : State) : Host.Outcome State Fault Refusal := .next (stepWbAck m s)

/-- Send a coherent request of a core (R273, R280). -/
def State.sendCoreReq (s : State) (n : Nat) (r : CoreReq) : State :=
  s.toHome n r.op.toNat r.tag (BitVec.ofNat 6 n) r.pa (attr := if r.noExcl then 1 else 0) (age := r.age)

/-- A Retry reaches a core: the request's age rises, and it waits to be sent again (R280). -/
def State.coreRetried (s : State) (n : Nat) (tag : BitVec 16) : State :=
  let older := fun (a : BitVec 4) => if a = 15 then a else a + 1
  s.modCore n (fun k =>
    { k with reqs := k.reqs.map (fun r => if r.tag = tag then { r with again := true, age := older r.age } else r),
             wbRetry := k.wbRetry.map (fun w => if w.1.tag = tag then ({ w.1 with age := older w.1.age }, true) else w) })

/-- COHERENT_RETRY_RESEND: the request or write-back is sent again under its raised age (R280). -/
def stepCoherentRetryResend (n : BitVec 6) (tag : BitVec 16) (s : State) : State :=
  let k := s.core n.toNat
  match k.reqs.find? (fun r => r.tag == tag && r.again) with
  | some r =>
    (s.modCore n.toNat (fun k => { k with reqs := k.reqs.map (fun x => if x.tag = tag then { x with again := false } else x) })).sendCoreReq
      n.toNat r
  | none =>
    match k.wbRetry.find? (fun w => w.1.tag == tag && w.2) with
    | none => s
    | some w =>
      (s.modCore n.toNat (fun k =>
        { k with wbRetry := k.wbRetry.map (fun x => if x.1.tag = tag then (x.1, false) else x) })).sendCoh w.1
def execCoherentRetryResend (n : BitVec 6) (tag : BitVec 16) (s : State) : Host.Outcome State Fault Refusal :=
  .next (stepCoherentRetryResend n tag s)

/-- Write a dirty sector back from a core: its data enters the write-back buffer, which holds 16 sectors, and WbFull goes to the home
(R269, R279, R287).  None where the buffer has no room or the core no tag (R230). -/
def State.coreWriteBack (s : State) (n pa : Nat) (keep : Bool) : Option State :=
  let k := s.core n
  let l := k.sector pa
  if 16 ≤ k.wb.length ∨ k.wb.any (fun w => w.pa.toNat == pa) ∨ !s.roomFor (0x100 + n) 1 then none
  else
    let tag := BitVec.ofNat 16 (s.freeTag (0x100 + n))
    let p := BitVec.ofNat 48 pa
    let m : CohMsg := { op := 4, src := coreSrc n, tag := tag, core := BitVec.ofNat 6 n,
                        attr := BitVec.ofNat 8 (putb keep 1 + putb l.bad 0), pa := p, data := l.data }
    some ((s.modCore n (fun k =>
      let e : WbEnt := { tag := tag, pa := p, data := l.data, keep := keep, bad := l.bad }
      let k : ZCore := { k with wb := k.wb ++ [e], wbRetry := k.wbRetry ++ [(m, false)] }
      if keep then k.setSector pa { l with st := .exclusive } else k.invalidate pa)).sendCoh m)

/-- Whether a sector must stay in a core's L2: a request of the core names it (R278), or a write-back of it with Keep is not yet acknowledged,
and a clean eviction would overtake its data at the home (R279). -/
def ZCore.pinned (k : ZCore) (pa : Nat) : Bool := k.reqs.any (fun r => r.pa.toNat == pa) || k.wb.any (fun w => w.pa.toNat == pa)

/-- A core evicts a sector (R279): WbFull for a dirty one, EvictClean for a clean one.  None while it must stay. -/
def State.coreEvict (s : State) (n pa : Nat) : Option State :=
  match ((s.core n).sector pa).st with
  | .invalid => some s
  | .modified => if (s.core n).pinned pa then none else s.coreWriteBack n pa false
  | _ =>
    if (s.core n).pinned pa then none
    else some ((s.modCore n (fun k => k.invalidate pa)).toHome n 5 0 (BitVec.ofNat 6 n) (BitVec.ofNat 48 pa))

/-- Sets of a core's L2: 2 MiB of 128-byte lines in 16 ways (R269). -/
def l2Sets : Nat := 1024

/-- Make room in a core's L2 for a sector: the sector that leaves a full set is a free choice among those that need not stay
(R269, R278, R279, log 9). -/
def State.coreRoom (s : State) (n pa : Nat) : Option State :=
  let k := s.core n
  let mine := fun (p : Nat) => p / 128 % l2Sets == pa / 128 % l2Sets
  let held := (k.l2.map (fun p => p.1 * 128)).filter mine
  if held.length + (k.reqs.countP (fun r => mine r.pa.toNat && (k.sector r.pa.toNat).st == .invalid)) < 16 then some s
  else
    let (v, s) := s.fresh
    let may := held.filter (fun p => !k.pinned p)
    match may[v.toNat % may.length]? with
    | none => none
    | some p => s.coreEvict n p

/-- Send a coherent request for a sector, unless one for it is outstanding or its write-back is (R279, R280). -/
def State.coreAsk (s : State) (n pa op : Nat) (noExcl : Bool) : State :=
  let k := s.core n
  let p := BitVec.ofNat 48 (sectorBase pa)
  if k.reqs.any (fun r => r.pa == p) || k.wb.any (fun w => w.pa == p) then s
  else
    match (if (k.sector pa).st = .invalid then s.coreRoom n (sectorBase pa) else some s) with
    | none => s
    | some s =>
      if !s.roomFor (0x100 + n) 1 then s else
      let r : CoreReq := { tag := BitVec.ofNat 16 (s.freeTag (0x100 + n)), op := BitVec.ofNat 8 op, pa := p, age := 0,
                           noExcl := noExcl, grant := none, data := none, again := false }
      (s.modCore n (fun k => { k with reqs := k.reqs ++ [r] })).sendCoreReq n r

/-- Whether a core has written everything back and holds nothing (R286). -/
def ZCore.empty (k : ZCore) : Bool := k.l2.isEmpty && k.wb.isEmpty && k.reqs.isEmpty

/-- A core gives up its sectors before its die is gated (R286): as many as its write-back buffer takes, and none that must stay. -/
def State.coreDrain (s : State) (n : Nat) : State := (s.core n).l2.foldl (fun s p => (s.coreEvict n (p.1 * 128)).getD s) s

/-- Whether every message of the cores to their homes has arrived (R286). -/
def State.coresHeard (s : State) : Bool :=
  s.sh.inflight.all (fun m => match m with | .coh m => !decide (0x100 ≤ m.src.toNat ∧ m.src.toNat < 0x140) | _ => true)

end Sys2Proof.Machine
end

