-- ==== Sys2Proof/Machine/HostLink.lean ====
section
/-!
DEFINITION. The host link (R345-R363): attach and detach, apertures and completion rings, event resend, host reads and writes, resets of
the function and MSI-X.
-/

namespace Sys2Proof.Machine

/-- Write logged events from a Seq to the newest to the host ring, in Seq order (R353, R363). -/
def State.resendEvents (s : State) (start : Nat) : State :=
  let lo := max start s.events.oldest.toNat
  (List.range (s.events.next.toNat - lo)).foldl (fun s i =>
    s.eventToHost (lo + i) (tget 0 s.events.log ((lo + i) % 65536))) s

/-- Every completion ring in the host that satisfies a test is suspended (R361, R363). -/
def State.suspendRings (s : State) (p : Nat → Bool) : State :=
  { s with queues := tmap {} s.queues (fun q k => if k.cplHost && p q then { k with suspended := true } else k) }

/-- Every host aperture loses Valid (R361, R363). -/
def State.closeApertures (s : State) : State :=
  s.modHost (fun h => { h with apertures := tmap {} h.apertures (fun _ a => { a with valid := false }) })

/-- The host link detaches (R361): of the stream, the newest `unsent` writes were not yet sent, but for those that are known to have entered
the link (R353); they are discarded and counted. -/
def State.detach (s : State) (unsent : Nat) : State :=
  let n := min unsent (s.host.stream.length - s.host.entered)
  let s := s.modHost (fun h =>
    { h with attach := 0, stream := h.stream.take (h.stream.length - n), dropped := h.dropped + BitVec.ofNat 64 n })
  s.closeApertures.suspendRings (fun _ => true)

/-- A reset of the host-link function (R359): the PCIe state of the function is reset, and it detaches. -/
def State.functionReset (s : State) (unsent : Nat) : State :=
  (s.detach unsent).modHost (fun h => { h with msix := [], pending := 0, holdOff := 0, holdDue := 0, cfg := [], held := [] })

/-- Every write issued so far has entered the link (R349, R353). -/
def State.sendOff (s : State) : State := s.modHost (fun h => { h with entered := h.stream.length })

/-- A host-link event (R357): kind, count, first Seq concerned. -/
def State.hostEvent (s : State) (kind count first : Nat) : State :=
  s.event 9 none (put kind 4 348 + put count 64 284 + put first 64 220) 9

/-- HOST_ATTACH (R353, R363).  The events that attaching raises are signalled once Attach is 2. -/
def stepHostAttach (aq : Bool) (s : State) : State :=
  s.admin aq 0x50 (fun s q e =>
    let ring := fld e 479 416
    let lg := fld e 415 411
    let clg := fld e 346 343
    let start := fld e 342 279
    if lg < 10 ∨ 20 < lg ∨ clg < 4 ∨ ring % (2 ^ lg * 64) ≠ 0 then s.reject q 1
    else
      let s := s.modHost (fun h => { h with
        attach := 1, evRing := BitVec.ofNat 64 ring, evLog2 := BitVec.ofNat 5 lg, startSeq := BitVec.ofNat 64 start,
        modUs := BitVec.ofNat 8 (fld e 278 271) })
      let s := s.modQueue 0 (fun k =>
        { k with cpl := BitVec.ofNat 64 (fld e 410 347), cplHost := true, cplLog2 := BitVec.ofNat 4 clg, suspended := false })
      let s := s.closeApertures.suspendRings (fun q => q != 0)
      let s := s.hostEvent 1 0 s.events.next.toNat
      -- the writes of steps 5 to 7 go to the new host
      let s := s.modHost (fun h => { h with attach := 2 })
      let s := s.resendEvents start
      let old := s.events.oldest.toNat
      let s := if start < old then s.hostEvent 2 (old - start) start else s
      let s := s.modHost (fun h => { h with attachGen := h.attachGen + 1 })
      (s.adminDone q).msi 9)
def execHostAttach (aq : Bool) (s : State) : Host.Outcome State Fault Refusal := .next (stepHostAttach aq s)

/-- HOST_DETACH: completes with its record sent, then detaches (R361). -/
def stepHostDetach (aq : Bool) (unsent : Nat) (s : State) : State :=
  s.admin aq 0x51 (fun s q _ =>
    let before := s.host.stream.length
    let sent := (s.queue q).cplHost && !(s.queue q).suspended
    let s := s.adminDone q
    s.detach (if sent then min unsent (s.host.stream.length - before - 1) else unsent))
def execHostDetach (aq : Bool) (unsent : Nat) (s : State) : Host.Outcome State Fault Refusal := .next (stepHostDetach aq unsent s)

/-- HOST_APERTURE_SET (R353): it completes once every write issued under the old setting has entered the link. -/
def stepHostApertureSet (aq : Bool) (s : State) : State :=
  s.admin aq 0x52 (fun s q e =>
    let base := fld e 466 403
    if base % 4096 ≠ 0 then s.reject q 1
    else
      let a : HostAperture := { valid := bit e 467, base := BitVec.ofNat 64 base, length := BitVec.ofNat 28 (fld e 402 375) }
      (s.sendOff.modHost (fun h => { h with apertures := tput {} h.apertures (fld e 479 468) a })).adminDone q)
def execHostApertureSet (aq : Bool) (s : State) : Host.Outcome State Fault Refusal := .next (stepHostApertureSet aq s)

/-- COMPLETION_RING_SET (R353, R363). -/
def stepCompletionRingSet (aq : Bool) (s : State) : State :=
  s.admin aq 0x53 (fun s q e =>
    let n := Ent.queue e
    let cpl := fld e 465 402
    let clg := fld e 400 397
    if clg < 4 ∨ cpl % (2 ^ clg * 32) ≠ 0 then s.reject q 1
    else if (s.queue n).st = 0 then s.reject q 2
    else
      (s.modQueue n (fun k =>
        { k with cpl := BitVec.ofNat 64 cpl, cplHost := bit e 401, cplLog2 := BitVec.ofNat 4 clg, suspended := false })).adminDone q)
def execCompletionRingSet (aq : Bool) (s : State) : Host.Outcome State Fault Refusal := .next (stepCompletionRingSet aq s)

/-- EVENT_RESEND (R353). -/
def stepEventResend (aq : Bool) (s : State) : State :=
  s.admin aq 0x54 (fun s q e => (s.resendEvents (fld e 479 416)).adminDone q)
def execEventResend (aq : Bool) (s : State) : Host.Outcome State Fault Refusal := .next (stepEventResend aq s)

/-! ### Host reads (R348, R350) -/

/-- A register of the host status page (R350); the recovery loader reports ModState and nothing else (R465). -/
def State.statusWord (s : State) (off : Nat) : Nat :=
  if s.modState = 3 then (if off / 8 = 1 then put 3 4 16 else 0)
  else match off / 8 with
  | 0 => s.host.moduleId.toNat
  | 1 => put s.modState.toNat 4 16 + put s.host.attachGen.toNat 8 8 + put s.host.attach.toNat 2 0
  | 2 => (s.queue 0).head
  | 3 => s.events.next.toNat
  | 4 => s.events.oldest.toNat
  | 5 => s.host.dropped.toNat
  | 6 => s.host.hostReads.toNat
  | 7 => s.launchCounter.toNat
  | _ => 0

/-- An MSI-X table entry as PCIe lays it out (log 31). -/
def MsixEnt.image (e : MsixEnt) : Nat := put e.addr.toNat 64 0 + put e.data.toNat 32 64 + putb e.masked 96

/-- A byte of BAR4 (R346, R348). -/
def State.bar4Byte (s : State) (o : Nat) : Byte :=
  if o < 0x1000 then BitVec.ofNat 8 (s.statusWord o >>> (8 * (o % 8)))
  else if o < 0x1200 then BitVec.ofNat 8 ((tget {} s.host.msix ((o - 0x1000) / 16)).image >>> (8 * (o % 16)))
  else if 0x2000 ≤ o ∧ o < 0x2008 then BitVec.ofNat 8 (s.host.pending.toNat >>> (8 * (o - 0x2000)))
  else 0

/-- A dword of the configuration space as the host reads it: the revision from the compute dies' stepping and the subsystem from the grade
(R478). -/
def State.cfgRead (s : State) (d : Nat) : BitVec 32 :=
  let v := s.host.cfgWord d
  if d = 2 then setF v 7 0 (fld s.sec.steppings 31 24)
  else if d = 11 then setF v 31 16 (if s.sec.grade = 0 then 1 else 2)
  else v

/-- A byte of the configuration space. -/
def State.cfgByte (s : State) (o : Nat) : Byte := BitVec.ofNat 8 ((s.cfgRead (o / 4)).toNat >>> (8 * (o % 4)))

/-- Whether the endpoint answers a configuration request with Retry Status: until step 12 has ended (R453), but for the recovery loader, which
is enumerated (R465, log 99). -/
def State.cfgRetry (s : State) : Bool := decide (s.coldStep ≤ 12) && s.modState != 3

/-- A read by the host of `n` bytes: of BAR0 and BAR2 every byte is 0xFF, of BAR4 what R348 lays there; bar 7 stands for the configuration
space (R453, log 99). -/
def State.hostRead (s : State) (bar off n : Nat) : State :=
  if bar = 7 then
    let bs := (List.range n).map (fun i => s.cfgByte (off + i))
    if s.coldStep < 3 then s
    else s.modHost (fun h => { h with readRetry := s.cfgRetry, readData := if s.cfgRetry then [] else bs })
  else if s.coldStep < 12 ∧ s.modState ≠ 3 then s
  else if bar = 0 ∨ bar = 2 then
    s.modHost (fun h => { h with hostReads := h.hostReads + 1, readData := List.replicate n 0xFF, readRetry := false })
  else if bar = 4 then
    let bs := (List.range n).map (fun i => s.bar4Byte (off + i))
    s.modHost (fun h => { h with readData := bs, readRetry := false })
  else s

/-- HOST_READ of `len` + 1 bytes (R348). -/
def stepHostRead (bar : BitVec 3) (off : BitVec 40) (len : BitVec 10) (s : State) : State :=
  if s.hostWaits then s.holdHost (.read bar off len) else s.hostRead bar.toNat off.toNat (len.toNat + 1)
def execHostRead (bar : BitVec 3) (off : BitVec 40) (len : BitVec 10) (s : State) : Host.Outcome State Fault Refusal :=
  .next (stepHostRead bar off len s)

/-! ### Host writes (R311, R347, R360) -/

/-- A vector that is no longer masked is written once if it pends (R360). -/
def State.unmasked (s : State) (v : Nat) : State :=
  if bit s.host.pending v then (s.modHost (fun h => { h with pending := setB h.pending v false })).signal v else s

/-- The host writes a byte of the MSI-X table (R347, R360). -/
def State.msixByte (s : State) (o : Nat) (b : Byte) : State :=
  let v := o / 16
  let old := tget {} s.host.msix v
  let img := setF (BitVec.ofNat 128 old.image) (8 * (o % 16) + 7) (8 * (o % 16)) b.toNat
  let new : MsixEnt := { addr := BitVec.ofNat 64 (fld img 63 2 * 4), data := BitVec.ofNat 32 (fld img 95 64), masked := bit img 96 }
  let s := s.modHost (fun h => { h with msix := tput {} h.msix v new })
  if old.masked && !new.masked && !s.host.functionMask then s.unmasked v else s

/-- The host writes a byte of the configuration space; when the function mask of MSI-X is lifted, vectors that pend are written (R360). -/
def State.cfgWrite (s : State) (o : Nat) (b : Byte) : State :=
  let was := s.host.functionMask
  let s := s.modHost (fun h => h.cfgByte o b)
  if was && !s.host.functionMask then
    (List.range 32).foldl (fun s v => if (tget {} s.host.msix v).masked then s else s.unmasked v) s
  else s

/-- A host write that is no doorbell: through the ingress aperture, to BAR4, of which it reaches the MSI-X table only, or to the configuration
space, which takes none while it answers with Retry Status (R311, R347, R453). -/
def State.hostWrite (s : State) (place : HostPlace) (bytes : List Byte) : State :=
  match place with
  | .aperture off => s.ingress off.toNat bytes
  | .bar4 off => bytes.zipIdx.foldl (fun s (b, i) =>
      let o := off.toNat + i
      if 0x1000 ≤ o ∧ o < 0x1200 then s.msixByte (o - 0x1000) b else s) s
  | .config off =>
    if s.coldStep < 3 then s
    else if s.cfgRetry then s.modHost (fun h => { h with readRetry := true })
    else bytes.zipIdx.foldl (fun s (b, i) => s.cfgWrite (off.toNat + i) b) s

/-- HOST_INGRESS_WRITE: a host write (R311, R347, log 99). -/
def stepHostIngressWrite (place : HostPlace) (bytes : List Byte) (s : State) : State :=
  if s.hostWaits then s.holdHost (.write place bytes) else s.hostWrite place bytes
def execHostIngressWrite (place : HostPlace) (bytes : List Byte) (s : State) : Host.Outcome State Fault Refusal :=
  .next (stepHostIngressWrite place bytes s)

/-- What waited at the link is taken in order once the wake from Dormant is complete (R403). -/
def State.takeHeld (s : State) : State :=
  let ops := s.host.held
  ops.foldl (fun s o => match o with
    | .doorbell off v => s.hostDoorbell off.toNat v
    | .write p bs => s.hostWrite p bs
    | .read b off n => s.hostRead b.toNat off.toNat (n.toNat + 1)) (s.modHost (fun h => { h with l1 := false, called := false, held := [] }))

/-! ### Resets of the function (R359, R361) -/

/-- PCIE_LINK_DOWN (R359, R361). -/
def stepPcieLinkDown (unsent : Nat) (s : State) : State := s.functionReset unsent
def execPcieLinkDown (unsent : Nat) (s : State) : Host.Outcome State Fault Refusal := .next (stepPcieLinkDown unsent s)

/-- PERST (R359, R361). -/
def stepPerst (unsent : Nat) (s : State) : State := s.functionReset unsent
def execPerst (unsent : Nat) (s : State) : Host.Outcome State Fault Refusal := .next (stepPerst unsent s)

/-- HOT_RESET (R359, R361). -/
def stepHotReset (unsent : Nat) (s : State) : State := s.functionReset unsent
def execHotReset (unsent : Nat) (s : State) : Host.Outcome State Fault Refusal := .next (stepHotReset unsent s)

/-- FLR (R359, R361). -/
def stepFlr (unsent : Nat) (s : State) : State := s.functionReset unsent
def execFlr (unsent : Nat) (s : State) : Host.Outcome State Fault Refusal := .next (stepFlr unsent s)

/-! ### MSI-X (R360) -/

/-- MSIX_UNMASK: a pending vector is written once (R360). -/
def stepMsixUnmask (v : BitVec 5) (s : State) : State :=
  let n := v.toNat
  (s.modHost (fun h => { h with msix := tmod {} h.msix n (fun e => { e with masked := false }) })).unmasked n
def execMsixUnmask (v : BitVec 5) (s : State) : Host.Outcome State Fault Refusal := .next (stepMsixUnmask v s)

/-- MSIX_HOLDOFF_EXPIRY: one write covers the events held meanwhile (R360). -/
def stepMsixHoldoffExpiry (v : BitVec 5) (s : State) : State :=
  let n := v.toNat
  if !bit s.host.holdOff n then s
  else
    let due := bit s.host.holdDue n
    let s := s.modHost (fun h => { h with holdOff := setB h.holdOff n false, holdDue := setB h.holdDue n false })
    if due then s.signal n else s
def execMsixHoldoffExpiry (v : BitVec 5) (s : State) : Host.Outcome State Fault Refusal := .next (stepMsixHoldoffExpiry v s)

end Sys2Proof.Machine
end

