-- ==== Sys2Proof/Machine/Links.lean ====
section
/-!
DEFINITION. Flits at link ends and Etmos ports (R13-R24, R367, R368), training, loop-back and failure of the die-to-die links
(R25-R33).
-/

namespace Sys2Proof.Machine

/-! ### Ends -/

/-- Index of a link end (R333). -/
def linkIndex (l : Nat) (e : Bool) : Nat := 2 * l + (if e then 1 else 0)

/-- Whether a flit arrives at an Etmos port. -/
def atPort : FlitPort → Bool
  | .link _ _ => false
  | .etmos _ => true

/-- The end where a flit arrives. -/
def State.flitEnd (s : State) (a : FlitPort) : FlitEnd :=
  match a with
  | .link l e => (s.linkEnd (linkIndex l.toNat e)).flit
  | .etmos p => (s.port p.toNat).flit

/-- Change the end where a flit arrives, which then sends what it can. -/
def State.setFlitEnd (s : State) (a : FlitPort) (f : FlitEnd) : State :=
  match a with
  | .link l e => s.modLink (linkIndex l.toNat e) (fun k => { k with flit := f }.go l.toNat)
  | .etmos p => s.modPort p.toNat (fun k => { k with flit := f }.go)

/-- Whether an end carries payload flits: a link in State 2, a port in State 2 or 3 (R25, R31, R365, R396). -/
def State.endUp (s : State) (a : FlitPort) : Bool :=
  match a with
  | .link l e => fld (s.linkEnd (linkIndex l.toNat e)).status 7 4 == 2
  | .etmos p => let st := fld (s.port p.toNat).status 31 28; st == 2 || st == 3

/-- The far end of a link no longer has a flit on its way. -/
def State.takeFromWire (s : State) (a : FlitPort) (f : Flit) : State :=
  match a with
  | .link l e => s.modLink (linkIndex l.toNat (!e)) (fun k => { k with flit := { k.flit with wire := k.flit.wire.erase f } })
  | .etmos _ => s

/-- A message that a link end has received goes on over the next link of its path (R16); at its destination its own command takes it
up. -/
def State.forward (s : State) (a : FlitPort) (us : List (BitVec 128)) : State :=
  match a with
  | .link l e => s.linkSend (endDie l.toNat e) us
  | .etmos _ => s

/-! ### Flits (R15, R18, R20-R23, R27) -/

/-- PAYLOAD_FLIT (R20-R23). -/
def stepPayloadFlit (a : FlitPort) (f : Flit) (s : State) : State :=
  if !s.endUp a || (flitCrcOk f && flitType f != 0 && decide (flitType f ≤ 3)) then s
  else
    let s := s.takeFromWire a f
    let (e, ms) := (s.flitEnd a).receive (atPort a) f
    ms.foldl (fun s us => s.forward a us) (s.setFlitEnd a e)
def execPayloadFlit (a : FlitPort) (f : Flit) (s : State) : Host.Outcome State Fault Refusal := .next (stepPayloadFlit a f s)

/-- IDLE_FLIT (R18): only its header counts. -/
def stepIdleFlit (a : FlitPort) (f : Flit) (s : State) : State :=
  if !s.endUp a then s
  else
    let s := s.takeFromWire a f
    if !flitCrcOk f || decide (3 < flitType f) then s.setFlitEnd a ((s.flitEnd a).crcFails (atPort a))
    else if flitType f = 1 then s.setFlitEnd a ((s.flitEnd a).takeHeader (atPort a) f)
    else s
def execIdleFlit (a : FlitPort) (f : Flit) (s : State) : Host.Outcome State Fault Refusal := .next (stepIdleFlit a f s)

/-- A retry request received in timed mode is counted (R432). -/
def State.countTimedRetry (s : State) : State :=
  if s.timedOn then { s with timed := setF s.timed 31 16 (satAdd 16 (fld s.timed 31 16) 1) } else s

/-- Retries of an end's status register goes up by one (R24, R31, R396). -/
def State.countRetry (s : State) (a : FlitPort) : State :=
  let up := fun (v : Word) => setF v 63 48 (satAdd 16 (fld v 63 48) 1)
  match a with
  | .link l e => (s.modLink (linkIndex l.toNat e) (fun k => { k with status := up k.status })).countTimedRetry
  | .etmos p => (s.modPort p.toNat (fun k => { k with status := up k.status })).countTimedRetry

/-- RETRY_REQUEST: the sender replays from the number named; the eighth consecutive request for one number orders a retrain (R21,
R24, R27). -/
def stepRetryRequest (a : FlitPort) (f : Flit) (s : State) : State :=
  if !s.endUp a then s
  else
    let s := s.takeFromWire a f
    if !flitCrcOk f || decide (3 < flitType f) then s.setFlitEnd a ((s.flitEnd a).crcFails (atPort a))
    else if flitType f ≠ 2 then s
    else
      let s := s.countRetry a
      let k := BitVec.ofNat 16 (flitAck (atPort a) f)
      let e := ((s.flitEnd a).takeHeader (atPort a) f).countRetry k
      if 8 ≤ e.again.toNat then s.setFlitEnd a { e with ordered := true }
      else s.setFlitEnd a (e.resendFrom (atPort a) k)
def execRetryRequest (a : FlitPort) (f : Flit) (s : State) : Host.Outcome State Fault Refusal := .next (stepRetryRequest a f s)

/-- RETRY_REQUEST_RESEND: the replay has not come in its time, and the request goes out again (R20). -/
def stepRetryRequestResend (a : FlitPort) (s : State) : State :=
  let e := s.flitEnd a
  if !s.endUp a || e.retryFor != some e.rxSeq then s else s.setFlitEnd a (e.askAgain (atPort a))
def execRetryRequestResend (a : FlitPort) (s : State) : Host.Outcome State Fault Refusal := .next (stepRetryRequestResend a s)

/-- ACK_TIMEOUT: the sender replays from its oldest unacknowledged flit (R22). -/
def stepAckTimeout (a : FlitPort) (s : State) : State :=
  let e := s.flitEnd a
  match e.replay with
  | [] => s
  | h :: _ => if s.endUp a then s.setFlitEnd a (e.resendFrom (atPort a) h.seq) else s
def execAckTimeout (a : FlitPort) (s : State) : Host.Outcome State Fault Refusal := .next (stepAckTimeout a s)

/-! ### Training (R25-R31) -/

/-- State field of a link end. -/
def LinkEnd.setState (k : LinkEnd) (v : Nat) : LinkEnd := { k with status := setF k.status 7 4 v }

/-- Change both ends of a link. -/
def State.modBoth (s : State) (l : Nat) (f : Bool → LinkEnd → LinkEnd) : State :=
  (s.modLink (2 * l) (f false)).modLink (2 * l + 1) (f true)

/-- A link fails (R28); at a cold start the module then reports itself as not serviceable. -/
def State.linkDown (s : State) (l group : Nat) (lane : Option Nat) (why : LinkWhy) : State :=
  let t := s.linkFails l group lane why
  if s.starting then t.notServiceable else t

/-- Whether a link end may train: its port has passed its loop-back since the cold start, and is down or still under test (R31, R33). -/
def LinkEnd.mayTrain (k : LinkEnd) : Bool := k.tested && (fld k.status 7 4 == 0 || fld k.status 7 4 == 4)

/-- Common Version, Groups, Rate and Features of two capability words (R29, R30); reserved feature bits are ignored. -/
def commonCaps (a b : Word) : Nat × Nat × Nat × Nat :=
  (min (fld a 51 48) (fld b 51 48), min (fld a 47 40) (fld b 47 40), min (fld a 39 36) (fld b 39 36),
   (fld a 31 16 &&& fld b 31 16) &&& 0xE000)

/-- Kind of a die in its capability word (R29). -/
def dieKind (d : Nat) : Nat := if d = 0 then 1 else if d < 3 then 2 else 3

/-- The capability word that an end of a link forms from its die's kind and stepping, given as in R459 (R29, R30): an S1 Spine reports
Version 2, Rate 0x4 and no 16-byte credits, every other stepping of this manual Version 3, Rate 0x5 and all features. -/
def capWord (l : Nat) (e : Bool) (stepping : BitVec 8) : Word :=
  let s1 := stepping == 0x21
  BitVec.ofNat 64 (put (dieKind (endDie l e)) 4 60 + put stepping.toNat 8 52 + put (if s1 then 2 else 3) 4 48 + put (linkGroups l) 8 40 +
    put (if s1 then 4 else 5) 4 36 + put 4 4 32 + put (if s1 then 0xC000 else 0xE000) 16 16)

/-- Steppings of the dies of this manual: C1, S1 and S2 (R29, R30). -/
def knownStepping (v : BitVec 8) : Bool := v == 0x11 || v == 0x21 || v == 0x22

/-- The stepping of the die at an end: the verified identity record's (R459), and before it is verified the one in the word that the end
sends (log 78). -/
def State.endStepping (s : State) (l : Nat) (e : Bool) (w : Word) : BitVec 8 :=
  if s.sec.verified then s.sec.steppings.extractLsb' (8 * endDie l e) 8 else w.extractLsb' 52 8

/-- The word that an end sends in phase 3: the one its die's stepping forms; a die of a stepping that this manual does not describe sends any
word (R29, log 78). -/
def State.sentCap (s : State) (l : Nat) (e : Bool) (w : Word) : Word :=
  let v := s.endStepping l e w
  if knownStepping v then capWord l e v else w

/-- LINK_TRAINING: training begins at cold start, after the loop-back of both ports, or on waking, or as an ordered retrain, of which a
second within 1 s fails the link; a training that is none forgets the order of one (R19, R25, R27-R29, R33). -/
def stepLinkTraining (l : BitVec 3) (ordered : Bool) (capLow capHigh : Word) (s : State) : State :=
  let i := l.toNat
  let a := s.linkEnd (2 * i)
  let b := s.linkEnd (2 * i + 1)
  if 7 ≤ i then s
  else if ordered then
    if fld a.status 7 4 ≠ 2 ∨ !(a.flit.ordered || b.flit.ordered) then s
    else if a.flit.lastRetrain.any (fun t => decide ((s.launchCounter - t).toNat < 1000000000)) then s.linkDown i 0 none .secondRetrain
    else s.modBoth i (fun _ k =>
      { k with status := setF k.status 47 40 (satAdd 8 (fld k.status 47 40) 1),
               flit := { k.flit with ordered := true, lastRetrain := some s.launchCounter } }.setState 1)
  else if !a.mayTrain || !b.mayTrain then s
  else s.modBoth i (fun e k =>
    let low := s.sentCap i false capLow
    let high := s.sentCap i true capHigh
    { k with cap := if e then high else low, peerCap := if e then low else high, flit := { k.flit with ordered := false } }.setState 1)
def execLinkTraining (l : BitVec 3) (ordered : Bool) (capLow capHigh : Word) (s : State) : Host.Outcome State Fault Refusal :=
  .next (stepLinkTraining l ordered capLow capHigh s)

/-- Whether a capability word that reached an end is a valid encoding (R10, R29): the Kind of the die that sent it, a Series and a Rate of
the tables, and the four channels of every stepping (log 78). -/
def capValid (l : Nat) (e : Bool) (w : Word) : Bool :=
  fld w 63 60 == dieKind (endDie l e) && (fld w 59 56 == 1 || fld w 59 56 == 2) && (fld w 39 36 == 4 || fld w 39 36 == 5) && fld w 35 32 == 4

/-- Whether the ends of a link are compatible: valid words (R10), Version, Groups and bit [30] in common (R29, R30). -/
def capsOk (l : Nat) (a b : Word) : Bool :=
  let (v, g, _, ft) := commonCaps a b
  capValid l false a && capValid l true b && decide (2 ≤ v) && g == linkGroups l && ft.testBit 14

/-- Credits of the receive buffers of a link, in credit units (R19, R29). -/
def linkCredits (wide : Bool) : List Nat := [4096, 8192, 2048, 1024].map (fun n => if wide then n / 2 else n)

/-- LINK_TRAINING_DONE: marked lanes or incompatible ends fail the link; otherwise it comes up (R25-R30). -/
def stepLinkTrainingDone (l : BitVec 3) (marks : List (BitVec 7 × BitVec 6)) (s : State) : State :=
  let i := l.toNat
  let a := s.linkEnd (2 * i)
  let b := s.linkEnd (2 * i + 1)
  if 7 ≤ i ∨ fld a.status 7 4 ≠ 1 then s
  else match marks with
    | (g, n) :: _ => s.linkDown i g.toNat (some n.toNat) .laneMarked
    | [] =>
      if !capsOk i a.cap b.cap then s.linkDown i 0 none .incompatibleStepping
      else
        let (v, g, r, ft) := commonCaps a.cap b.cap
        let wide := !ft.testBit 13
        let status := fun (w : Word) => setF (setF (setF (setF (setF w 39 24 ft) 23 20 v) 19 16 r) 15 8 g) 7 4 2
        let s := s.modBoth i (fun _ k => { k with status := status k.status })
        s.modBoth i (fun e k =>
          let other := if e then a.flit else b.flit
          let f := if a.flit.ordered then k.flit.retrained other else k.flit.trained (linkCredits wide) wide
          { k with flit := f }.go i)
def execLinkTrainingDone (l : BitVec 3) (marks : List (BitVec 7 × BitVec 6)) (s : State) : Host.Outcome State Fault Refusal :=
  .next (stepLinkTrainingDone l marks s)

/-! ### Loop-back (R32, R33) -/

/-- A port passes if the lane test marks no lane and every flit returns good and unchanged (R32). -/
def loopBackPasses (r : LoopBack) : Bool := r.marks == [] && r.badCrc == 0 && r.changed == 0

/-- The loop-back of a port: State 4 while it is under test, phases 1, 2 and 4 against itself and 65,536 flits, which bring its sequence
numbers back to 0; a port that fails fails its link (R32, R33).  State of a port that has passed stays 4 until its training begins (log 92). -/
def State.loopBack (s : State) (l : Nat) (e : Bool) (r : LoopBack) : State :=
  if fld (s.linkEnd (linkIndex l e)).status 7 4 = 3 then s
  else
    let errs := r.badCrc.toNat
    let s := s.modLink (linkIndex l e) (fun k =>
      { k with flit := { k.flit.trained (linkCredits false) false with errors := k.flit.errors + errs } }.setState 4)
    if loopBackPasses r then s.modLink (linkIndex l e) (fun k => { k with tested := true })
    else match r.marks with
      | (g, n) :: _ => s.linkDown l g.toNat (some n.toNat) .loopBack
      | [] => s.linkDown l 0 none .loopBack

/-- Loop-back of some ports, each with what it found (R33). -/
def State.loopBacks (s : State) (found : List LoopBack) (ports : List (Nat × Bool)) : State :=
  ports.foldl (fun s p =>
    let port := BitVec.ofNat 4 (linkIndex p.1 p.2)
    s.loopBack p.1 p.2 ((found.find? (fun r => r.port == port)).getD { port := port })) s

end Sys2Proof.Machine
end

