-- ==== Sys2Proof/Machine/Power.lean ====
section
/-!
DEFINITION. Power, clocks, sleep and cooling (R397-R422), and the thermal levels of the stacks (R266).
-/

namespace Sys2Proof.Machine

/-! ### Gating and sleep (R398-R405) -/

/-- CLUSTER_POWER_GATE: a clock-gated cluster with no launch token loses its store and is power-gated (R398, R399). -/
def stepClusterPowerGate (c : BitVec 7) (s : State) : State :=
  let u := s.cluster c.toNat
  if u.runList ≠ [] ∨ u.kernel.isSome ∨ u.clock ≠ .clockGated ∨ s.timedOn then s
  else s.modCluster c.toNat (fun u => { u.withdraw false with clock := .powerGated })
def execClusterPowerGate (c : BitVec 7) (s : State) : Host.Outcome State Fault Refusal := .next (stepClusterPowerGate c s)

/-- Whether a core stands in WFI with no interrupt pending at a time (R401). -/
def ZCore.quiet (k : ZCore) (time : Word) : Bool := k.wfi && (k.getCsr Csr.mie).toNat &&& k.pendingAt time == 0

/-- Whether a queue neither fetches, waits for a stamp, nor runs an entry, whatever state it shows; a fence wait is none of these (R401). -/
def Queue.quiet (k : Queue) : Bool :=
  k.st != 2 && k.st != 3 && k.st != 5 && k.inFetch == 0 && k.stampAt.isNone && (k.running.isNone || k.fence.isSome)

/-- The conditions of R401 on queues, copies, groups and cores. -/
def State.quiet (s : State) : Bool :=
  s.queues.all (fun p => p.2.quiet) &&
  s.engines.all (fun p => !p.2.stopped) &&
  s.clusters.all (fun p => p.2.groups.all (fun g => g.2.status != .parked)) &&
  (List.range 64).all (fun n => (s.core n).quiet s.launchCounter)

/-- DOZE_ENTRY (R401, R402): a change of power state is module-wide, and none is made in Split (R415, R416). -/
def stepDozeEntry (s : State) : State :=
  if s.modState ≠ 1 ∨ s.powerState ≠ 1 ∨ s.power.dozeAfter = 0 ∨ s.timedOn ∨ s.split ∨ !s.quiet then s else s.enterDoze
def execDozeEntry (s : State) : Host.Outcome State Fault Refusal := .next (stepDozeEntry s)

/-- Begin entry to Dormant from Doze (R402); a wake event that Doze holds stays held (R405). -/
def State.enterDormant (s : State) : State :=
  (s.setPowerState 4).modPower (fun p =>
    { p with entering := 3, entryStep := 1, wakePending := false, heldWake := p.heldWake || p.wakePending })

/-- Whether an Endpaper update is being staged, verified or programmed (R464). -/
def State.updating (s : State) : Bool := let u := s.sec.update.toNat; decide (1 ≤ u ∧ u ≤ 3)

/-- Whether the host link is detached or in L1: ASPM takes an idle link to L1 where the host has enabled it, and D3hot does (R345, R401,
log 99). -/
def State.linkQuiet (s : State) : Bool :=
  s.host.attach != 2 || bit (s.host.cfgWord 32) 1 || fld (s.host.cfgWord 17) 1 0 == 3

/-- DORMANT_ENTRY (R401, R402, R415, R464). -/
def stepDormantEntry (s : State) : State :=
  if s.powerState ≠ 2 ∨ !s.linkQuiet ∨ !s.power.allowDormant ∨ s.power.dormantAfter = 0 ∨ s.timedOn ∨ s.split ∨ !s.quiet ∨ s.updating ∨
     s.gates.any (fun p => fld p.2.reg 63 60 == 2 || fld p.2.reg 63 60 == 3) then s
  else s.enterDormant
def execDormantEntry (s : State) : Host.Outcome State Fault Refusal := .next (stepDormantEntry s)

/-- Put the ends of some links down; the time of the last ordered retrain stays (R27). -/
def State.linksDown (s : State) (ls : List Nat) : State :=
  ls.foldl (fun s l => s.modBoth l (fun _ k => if fld k.status 7 4 = 3 then k else { k with flit := { lastRetrain := k.flit.lastRetrain } }.setState 0)) s

/-- Every write queue and write-around buffer drains to the dies (R265). -/
def State.drainWrites (s : State) : State :=
  let s := s.channels.foldl (fun s (c, k) =>
    (k.writes.foldl (fun s (p, d) => s.writeDie c p.toNat d) s).modChannel c (fun k => { k with writes := [], drainMode := false })) s
  [false, true].foldl (fun s h =>
    ((s.half h).around.foldl (fun s (p, d) => s.writeDie (s.placeOf p.toNat).1 p.toNat d) s).modHalf h (fun k =>
      { k with around := [] })) s

/-- Every dirty line of a half is written back and the half switched off; its scratchpad is lost, and a sector that is Lost stays so
(R215, R243, R265, R402). -/
def State.halfOff (s : State) (h : Bool) : State :=
  let s := (s.half h).lines.foldl (fun s (p, _) => s.checkWay h (p / 16) (p % 16)) s
  let s := (s.half h).lines.foldl (fun s (_, l) =>
    (List.range 16).foldl (fun s i =>
      let pa := l.line.toNat * 2048 + i * 128
      if l.dirty.getLsbD i && l.valid.getLsbD i && !isScratch pa then s.writeDie (s.placeOf pa).1 pa (tget 0 l.data i) else s) s) s
  let kept := fun (l : QLine) => { l with valid := 0, dirty := 0, weak := 0, filling := 0, data := [] }
  s.modHalf h (fun k => { ({} : QHalf) with part := k.part, lines := (k.lines.filter (fun p => p.2.lost != 0)).map (fun p => (p.1, kept p.2)) })

/-- Whether a half holds a sector that the write-back of Dormant writes. -/
def State.halfDirty (s : State) (h : Bool) : Bool :=
  (s.half h).lines.any (fun p => (List.range 16).any (fun i =>
    p.2.dirty.getLsbD i && p.2.valid.getLsbD i && !isScratch (p.2.line.toNat * 2048 + i * 128)))

/-- Put every channel that stands in one state into another. -/
def State.moveChannels (s : State) (a b : Nat) : State :=
  { s with channels := tmap {} s.channels (fun _ k => if chState k = a then k.setState b else k) }

/-- The look-aside buffers and walk caches of the Spine and the base dies are lost with their power. -/
def State.dropTlbs (s : State) : State :=
  { s with engines := tmap {} s.engines (fun _ e => { e with tlb := [] }), clusters := tmap {} s.clusters (fun _ u => { u with tlb := [] }),
           sh := { s.sh with winTlb := [], wcWest := [], wcEast := [], wcSpine := [] } }

/-- `n` sectors of free values: what the device saves in a layout that the manual does not give (log 21). -/
def freeBytes (free n : Nat) : List Byte := (List.range n).flatMap (fun i => sectorBytes (Config.freeSector free i))

/-- The Spine saves its state to its part of the device-reserved region (R38, R402). -/
def State.saveSpine (s : State) : State :=
  { s.reservedWrite 0x13000000 (freeBytes s.free 131072) with free := s.free + 1 }

/-- Each core saves its architectural state to its 8 KiB save area (R38, R402). -/
def State.saveCores (s : State) : State :=
  { s.reservedWrite 0x12E80000 (freeBytes s.free 4096) with free := s.free + 1 }

/-- The rails in the order in which they come up (R472). -/
def railOrder : List (BitVec 4) := [0xD, 0xC, 0x8, 0x9, 0xA, 0xB, 0x4, 0x5, 0x6, 0x7, 0x0, 0x1, 0x2, 0x3]

/-- The rails that Dormant keeps: the Cloche's, and those of the stacks in self-refresh (R400, R469). -/
def dormantRails : List (BitVec 4) := [0xD, 0xA, 0xB]

/-- The action of a sleep entry step (R402); none while it cannot end. -/
def State.sleepAction (s : State) (target step : Nat) : Option State :=
  match target, step with
  | 2, 1 => some ((List.range 64).foldl (fun s n => s.coreDrain n) s.saveCores)
  | 2, 2 =>
    if !(List.range 64).all (fun n => (s.core n).empty) || !s.coresHeard then none
    else some ({ s with clusters := (List.range 128).foldl (fun t c =>
        tmod {} t c (fun u => { u.withdraw false with clock := .powerGated })) s.clusters }.linksDown [3, 4, 5, 6])
  | 2, _ =>
    -- a channel that trains takes no write: it drains once its training has ended (R253, R265)
    if s.channels.any (fun p => chState p.2 == 1) then none
    else some ((s.drainWrites.linksDown [0, 1, 2]).moveChannels 2 3)
  | 3, 1 => if s.channels.any (fun p => chState p.2 == 1 || chState p.2 == 3) then none else some s.saveSpine
  | 3, 2 =>
    if (s.halfDirty false || s.halfDirty true) && s.channels.any (fun p => chState p.2 == 1 || chState p.2 == 3) then none
    else some (((s.halfOff false).halfOff true).moveChannels 2 3)
  | 3, 3 => some (((List.range 12).foldl (fun s i =>
      if fld (s.port i).status 31 28 = 3 then
        s.modPort i (fun k => { k with status := setF (setF k.status 31 28 0) 27 24 0, sleepTold := true, asleep := true })
      else s) s).modHost (fun h => { h with l1 := true }))
  | _, _ =>
    some ((s.dropTlbs.modSec (fun k => { k with idKey := none, railsUp := dormantRails, modPg := false })).modFabric (fun f => { f with stepNext := true, e2e := {} }))

/-- Steps of an entry. -/
def sleepSteps (target : Nat) : Nat := if target = 3 then 4 else 3

/-- What a sleep entry step still does while it cannot end: the cores give up what they hold (R286), and for the writes of Dormant the
channels leave self-refresh, each after its short retrain (R265, log 91). -/
def State.sleepWait (s : State) (target : Nat) : State :=
  if target = 3 then s.moveChannels 3 1 else (List.range 64).foldl (fun s n => s.coreDrain n) s

/-- SLEEP_ENTRY_STEP: the step ends; a wake event turns the entry back (R402).  In Split only an emergency stop goes on (R415, R416). -/
def stepSleepEntryStep (s : State) : State :=
  let p := s.power
  if s.powerState ≠ 4 ∨ (s.split ∧ !p.urgent) then s
  else
    let target := p.entering.toNat
    let n := p.entryStep.toNat
    match s.sleepAction target n with
    | none => s.sleepWait target
    | some s =>
      if s.power.wakePending && (target == 3 || s.mayWake) then
        ((s.setPowerState target).modPower (fun p => { p with urgent := false })).beginWake
      else if n = sleepSteps target then
        ((s.setPowerState target).modPower (fun p => { p with entering := 0, entryStep := 0, urgent := false })).serveWake
      else s.modPower (fun p => { p with entryStep := BitVec.ofNat 3 (n + 1) })
def execSleepEntryStep (s : State) : Host.Outcome State Fault Refusal := .next (stepSleepEntryStep s)

/-- CLOCHE_TIMER: the Cloche's timer, or a core's timer compare, wakes the module (R404). -/
def stepClocheTimer (s : State) : State := s.wake
def execClocheTimer (s : State) : Host.Outcome State Fault Refusal := .next (stepClocheTimer s)

/-- HOST_TLP_WAKE: in Dormant a host TLP wakes the module (R403, R404), and on the way there it turns the entry back (R402). -/
def stepHostTlpWake (s : State) : State := if s.powerState = 3 ∨ (s.powerState = 4 ∧ s.power.entering = 3) then s.hostCalls else s
def execHostTlpWake (s : State) : Host.Outcome State Fault Refusal := .next (stepHostTlpWake s)

/-- Whether the links and channels that are in service are up again. -/
def State.trained (s : State) : Bool :=
  (List.range 7).all (fun l => let st := fld (s.linkEnd (2 * l)).status 7 4; st == 2 || st == 3) &&
  s.channels.all (fun p => let st := fld p.2.status 7 4; st != 1 && st != 3)

/-- In timed mode no cluster is clock-gated or power-gated (R429). -/
def State.runForTimed (s : State) : State :=
  if s.timedOn then { s with clusters := (List.range 128).foldl (fun t c => tmod {} t c (fun u => { u with clock := .running })) s.clusters }
  else s

/-- On a wake from Dormant the PUF is captured anew and the identity key reconstructed from the verified copy of the helper data; a key that
does not match the certificate is an identity failure (R452, R454, R457).  After an unlock, or with no verified Identity, there is none. -/
def State.recapture (s : State) : State :=
  if s.sec.unlock = 2 ∨ !s.sec.verified then s.modSec (fun k => { k with idKey := none })
  else
    let s : State := { s.modSec (fun k => { k with puf := Config.pufCapture s.free }) with free := s.free + 1 }
    if s.keyMatches s.helperData s.sec.cert then s.modSec (fun k => { k with idKey := some (identityKey s.helperData) })
    else (s.modSec (fun k => { k with idKey := none })).startFails 7

/-- The rails are up again after Dormant, and the ports no longer sleep (R400, R403, R469, log 33). -/
def State.spineOn (s : State) : State :=
  (List.range 12).foldl (fun s i => s.modPort i (fun k => { k with sleepTold := false }))
    (s.modSec (fun k => { k with railsUp := railOrder, modPg := true }))

/-- WAKE_COMPLETE: from Dormant the module reaches Doze first, its identity key reconstructed; from Doze it enters Idle once its links and
channels have trained, and takes what the host has sent meanwhile (R402, R403, R405, R452).  In Split it waits (R415). -/
def stepWakeComplete (s : State) : State :=
  if s.powerState ≠ 5 ∨ s.split then s
  else if s.power.entering = 3 then
    (((s.spineOn.setPowerState 2).recapture).modPower (fun p => { p with entering := 0 })).serveWake
  else if s.trained then
    (((s.setPowerState 1).modPower (fun p => { p with entering := 0, entryStep := 0, wakePending := false })).runForTimed).takeHeld
  else s
def execWakeComplete (s : State) : Host.Outcome State Fault Refusal := .next (stepWakeComplete s)

/-- SPINE_TEMPERATURE_SAMPLE: at 95 °C in Doze without flow the module enters Dormant whatever AllowDormant holds (R421), but not during an
update (R464). -/
def stepSpineTemperatureSample (t : BitVec 8) (s : State) : State :=
  if 95 ≤ t.toNat ∧ s.powerState = 2 ∧ !bit s.power.status 57 ∧ !s.updating then s.enterDormant else s
def execSpineTemperatureSample (t : BitVec 8) (s : State) : Host.Outcome State Fault Refusal := .next (stepSpineTemperatureSample t s)

/-! ### Policy and the cap (R406-R408) -/

/-- POWER_POLICY; in Split no change of ClusterMax or CoreMax is made, and the command waits (R406, R415, R416). -/
def stepPowerPolicy (aq : Bool) (s : State) : State :=
  match s.readyEntry (if aq then 1 else 0) with
  | none => s
  | some e0 =>
    if s.split && (fld e0 415 411 != s.power.clusterMax.toNat || fld e0 410 407 != s.power.coreMax.toNat) && Ent.op e0 == 0x60 then s
    else s.admin aq 0x60 (fun s q e =>
      if fld e 431 416 < 10 ∨ fld e 415 411 < 8 ∨ 20 < fld e 415 411 ∨ fld e 410 407 < 4 ∨ 12 < fld e 410 407 then s.reject q 1
      else (s.setPolicy (fld e 479 406)).adminDone q)
def execPowerPolicy (aq : Bool) (s : State) : Host.Outcome State Fault Refusal := .next (stepPowerPolicy aq s)

/-- POWER_SAMPLE: the 1 ms and 1 s averages (R408, R422). -/
def stepPowerSample (avgMs avgSec : BitVec 12) (s : State) : State :=
  s.modPower (fun p => { p with status := setF p.status 39 28 avgMs.toNat, avgSec := avgSec })
def execPowerSample (avgMs avgSec : BitVec 12) (s : State) : Host.Outcome State Fault Refusal := .next (stepPowerSample avgMs avgSec s)

/-- One step down against the cap (R408). -/
def State.capStepDown (s : State) : State :=
  let p := s.power
  let old := s
  let clk := min p.capClk.toNat s.clusterTop
  let core := min p.capCore.toNat s.coreTop
  let s :=
    if 8 < clk then s.modPower (fun p => { p with capClk := BitVec.ofNat 5 (clk - 1) })
    else if 4 < p.capDuty.toNat then s.modPower (fun p => { p with capDuty := p.capDuty - 1 })
    else if 4 < core then s.modPower (fun p => { p with capCore := BitVec.ofNat 4 (core - 1) })
    else s.modPower (fun p => { p with withhold := true })
  if p.withhold then s else (s.breachIfSlower old 1).throttleBegin 1 0 0 (min s.power.capClk.toNat s.clusterTop)

/-- One step of recovery, in the reverse order (R408). -/
def State.capStepUp (s : State) : State :=
  let p := s.power
  if p.withhold then (s.modPower (fun p => { p with withhold := false })).throttleEnd 1 0 0
  else if p.capCore.toNat < s.coreTop then (s.modPower (fun p => { p with capCore := p.capCore + 1 })).throttleEnd 1 0 0
  else if p.capDuty.toNat < 16 then (s.modPower (fun p => { p with capDuty := p.capDuty + 1 })).throttleEnd 1 0 0
  else if p.capClk.toNat < p.clusterMax.toNat then (s.modPower (fun p => { p with capClk := p.capClk + 1 })).throttleEnd 1 0 0
  else s

/-- The leader divides what the Spine's share leaves of the cap between the halves by their demand, to each at least 30 %; in Split
neither half's budget changes (R408, R415, R416).  The share and the demand are measured, so they are free values (log 66). -/
def State.divideBudget (s : State) : State :=
  if s.split then s
  else
    let rest := 10 * s.capInForce - (Config.freeWord s.free).toNat
    let least := (3 * rest + 9) / 10
    let west := max least (min (rest - least) (Config.freeWord (s.free + 1)).toNat)
    { s.modPower (fun p => { p with budgetWest := BitVec.ofNat 13 west, budgetEast := BitVec.ofNat 13 (rest - west) }) with
      free := s.free + 2 }

/-- The steps that a tick takes against the cap: ten ticks of 100 µs make the 1 ms of calm (R408). -/
def State.capControl (s : State) : State :=
  let cap := 10 * s.capInForce
  let ms := fld s.power.status 39 28
  let sec := s.power.avgSec.toNat
  if cap < ms ∨ 3200 < sec then (s.modPower (fun p => { p with calmTicks := 0 })).capStepDown
  else if ms + 100 ≤ cap ∧ sec + 100 ≤ 3200 then
    let n := min 10 (s.power.calmTicks.toNat + 1)
    let s := s.modPower (fun p => { p with calmTicks := BitVec.ofNat 8 n })
    if n = 10 then s.capStepUp else s
  else s.modPower (fun p => { p with calmTicks := 0 })
/-- POWER_CONTROL_TICK (R408): a step against the cap, and the budgets of the halves. -/
def stepPowerControlTick (s : State) : State := s.capControl.divideBudget
def execPowerControlTick (s : State) : Host.Outcome State Fault Refusal := .next (stepPowerControlTick s)

/-! ### Rails and droops (R409-R413) -/

/-- Steps a rail's limiter can take (R409). -/
def railMax (r : Nat) : Nat := if r < 4 then 24 else if r < 8 then 8 else if r < 13 then 2 else 0

/-- Unit kind and die of a rail (R409, R413). -/
def railUnit (r : Nat) : Nat × Nat :=
  if r < 8 then (1, 3 + r % 4) else if r < 12 then (2, 1 + r % 2) else (3, 0)

/-- Setting of a rail's throttle: Press duty for a rail at duty, else the cluster clock (R413). -/
def State.railSetting (s : State) (r : Nat) : Nat :=
  if r < 4 ∧ tget 0 s.power.railSteps r ≤ 12 then 16 - tget 0 s.power.railSteps r
  else if r < 8 then s.clusterClock (3 + r % 4) else s.clusterTop

def State.setRail (s : State) (r n : Nat) : State := s.modPower (fun p => { p with railSteps := tput 0 p.railSteps r n })

/-- RAIL_OVERCURRENT: the limiter takes its first step (R409). -/
def stepRailOvercurrent (rail : BitVec 4) (s : State) : State :=
  let r := rail.toNat
  if railMax r = 0 ∨ tget 0 s.power.railSteps r ≠ 0 then s
  else
    let s := s.setRail r 1
    (s.breach 2).coalesceBegin 2 (railUnit r).1 (railUnit r).2 r (s.railSetting r)
def execRailOvercurrent (rail : BitVec 4) (s : State) : Host.Outcome State Fault Refusal := .next (stepRailOvercurrent rail s)

/-- RAIL_LIMITER_STEP: a further step while the limit stays exceeded, else one undone (R409). -/
def stepRailLimiterStep (rail : BitVec 4) (exceeded : Bool) (s : State) : State :=
  let r := rail.toNat
  let n := tget 0 s.power.railSteps r
  if n = 0 then s
  else if exceeded then (if n < railMax r then (s.setRail r (n + 1)).breach 2 else s)
  else
    let s := s.setRail r (n - 1)
    if n = 1 then s.coalesceEnd 2 (railUnit r).2 r else s
def execRailLimiterStep (rail : BitVec 4) (exceeded : Bool) (s : State) : Host.Outcome State Fault Refusal :=
  .next (stepRailLimiterStep rail exceeded s)

/-- DROOP: the die's clocks stretch to half (R411). -/
def stepDroop (die : BitVec 3) (s : State) : State :=
  let d := die.toNat
  if d < 3 ∨ 6 < d then s
  else
    let s := if tget 0 s.power.droops d = 0 then s.breach 3 else s
    let s := s.modPower (fun p => { p with droops := tmod 0 p.droops d (fun n => n + 1) })
    s.coalesceBegin 3 1 d 0x3F (s.clusterClock d)
def execDroop (die : BitVec 3) (s : State) : Host.Outcome State Fault Refusal := .next (stepDroop die s)

/-- DROOP_RELEASE: 32 cycles after the last droop has ended (R411). -/
def stepDroopRelease (die : BitVec 3) (s : State) : State :=
  let d := die.toNat
  if tget 0 s.power.droops d = 0 then s
  else
    let s := s.modPower (fun p => { p with droops := tmod 0 p.droops d (fun n => n - 1) })
    if tget 0 s.power.droops d = 0 then s.coalesceEnd 3 d 0x3F else s
def execDroopRelease (die : BitVec 3) (s : State) : Host.Outcome State Fault Refusal := .next (stepDroopRelease die s)

/-- THROTTLE_COALESCE_WINDOW: one record for each rail or die throttled in the last 1 ms (R413). -/
def stepThrottleCoalesceWindow (s : State) : State :=
  let now := s.launchCounter
  let s := s.power.coalesced.foldl (fun s c =>
    let more := match c.since with | some t => (now - t).toNat | none => 0
    s.logThrottle (throttleRecord c.reason.toNat c.kind.toNat c.unit.toNat c.rail.toNat c.setting.toNat false c.count
      c.start.toNat (c.duration + more))) s
  (s.modPower (fun p => { p with coalesced := (p.coalesced.filter (fun c => c.since.isSome)).map (fun c =>
    { c with since := some now, start := now, count := 1, duration := 0 }) })).refreshActive
def execThrottleCoalesceWindow (s : State) : Host.Outcome State Fault Refusal := .next (stepThrottleCoalesceWindow s)

/-! ### The two halves (R415-R417) -/

/-- A half enters Split and its safe clock (R416); one that has not left it yet begins no second record. -/
def State.enterSplit (s : State) (h : Bool) : State :=
  if s.inSplit h && !s.power.splitEnding then s
  else
    let was := s.inSplit h
    let s := if was then s else s.breach 8
    let s := s.modPower (fun p =>
      let p := if h then { p with splitEast := true } else { p with splitWest := true }
      { p with status := setB p.status 58 true, splitEnding := false, beatsWest := 0, beatsEast := 0 })
    if was then s else s.throttleBegin 8 2 (if h then 2 else 1) 10

/-- The follower applies the commits that the leader has made (R417). -/
def State.evenEpochs (s : State) : State :=
  s.modPower (fun p =>
    let v := if bit p.status 59 then p.eastEpoch else p.westEpoch
    { p with westEpoch := v, eastEpoch := v })

/-- HEARTBEAT: one arrives at a monitor; 16 consecutive ones from the far agent at both monitors end Split, and the follower then has the leader's
commits; the safe clock stays until the next multiple of 10 µs (R416, R417). -/
def stepHeartbeat (h far : Bool) (s : State) : State :=
  if !far then s
  else
    let s := s.modPower (fun p =>
      if h then { p with beatsEast := BitVec.ofNat 5 (min 16 (p.beatsEast.toNat + 1)) }
      else { p with beatsWest := BitVec.ofNat 5 (min 16 (p.beatsWest.toNat + 1)) })
    if s.power.splitWest && s.power.splitEast && s.power.beatsWest == 16 && s.power.beatsEast == 16 then
      (s.modPower (fun p => { p with splitEnding := true, status := setB p.status 58 false })).evenEpochs else s
def execHeartbeat (h far : Bool) (s : State) : Host.Outcome State Fault Refusal := .next (stepHeartbeat h far s)

/-- HEARTBEAT_TIMEOUT: from the own or the far agent, the monitor of a half drops it to the safe clock and sends the other half a Split notice
(R416). -/
def stepHeartbeatTimeout (h : Bool) (s : State) : State :=
  let s := (s.modPower (fun p => { p with beatsWest := 0, beatsEast := 0 })).enterSplit h
  s.modPower (fun p => if h then { p with noticeWest := true } else { p with noticeEast := true })
def execHeartbeatTimeout (h _own : Bool) (s : State) : Host.Outcome State Fault Refusal := .next (stepHeartbeatTimeout h s)

/-- SPLIT_NOTICE: the notice reaches a half (R416). -/
def stepSplitNotice (h : Bool) (s : State) : State :=
  (s.enterSplit h).modPower (fun p => if h then { p with noticeEast := false } else { p with noticeWest := false })
def execSplitNotice (h : Bool) (s : State) : Host.Outcome State Fault Refusal := .next (stepSplitNotice h s)

/-- SPLIT_RELEASE: after Split, at a multiple of 10 µs, the halves leave the safe clock, held shadows commit in arrival order, and a change of
power state that waited is made (R415, R417). -/
def stepSplitRelease (s : State) : State :=
  if !s.power.splitEnding || s.launchCounter.toNat % 10000 != 0 then s
  else
    let s := (s.modPower (fun p =>
      { p with splitWest := false, splitEast := false, splitEnding := false, status := setB p.status 58 false })).evenEpochs
    let due := s.fabric.pendingGath.filter (fun g => decide (g.commit.toNat ≤ s.launchCounter.toNat))
    let s := due.foldl (fun s g => s.commitPending g) s
    ((s.throttleEnd 8 2 1).throttleEnd 8 2 2).serveWake
def execSplitRelease (s : State) : Host.Outcome State Fault Refusal := .next (stepSplitRelease s)

/-- SPLIT_TIMEOUT: the Spine orders a retrain of a Hinge that is up (R27, R417). -/
def stepSplitTimeout (s : State) : State :=
  if s.split && fld (s.linkEnd 0).status 7 4 == 2 then s.modBoth 0 (fun _ k => { k with flit := { k.flit with ordered := true } }) else s
def execSplitTimeout (s : State) : Host.Outcome State Fault Refusal := .next (stepSplitTimeout s)

/-! ### Temperature and coolant (R266, R418-R421) -/

/-- Set or clear an emergency hold. -/
def State.hold_ (s : State) (i : Nat) (on : Bool) : State := s.modPower (fun p => { p with stopHold := setB p.stopHold i on })

/-- COOLANT_SAMPLE (R418, R420-R422). -/
def stepCoolantSample (flow inlet : BitVec 8) (s : State) : State :=
  let f := flow.toNat
  let t := inlet.toNat
  let since := if f < 60 then none else s.power.flowSince.or (some s.launchCounter)
  let ok := since.any (fun b => decide (1000000000 ≤ (s.launchCounter - b).toNat))
  let reg := fun (w : Word) => setB (setF (setF (setB w 57 (ok || (decide (60 ≤ f) && bit w 57))) 27 20 t) 19 12 f) 11 (decide (t < 17))
  let s := s.modPower (fun p => { p with flowSince := since, status := reg p.status })
  let s := s.throttleWhen (decide (f < 60) && (decide (40 ≤ f) || s.throttled 6 0 0)) 6 0 0 (s.clusterClock 3)
  let s := s.throttleWhen (decide (45 < t)) 7 0 0 (s.clusterClock 3)
  let s := s.refreshCap
  let s := if 55 < t ∧ !bit s.power.stopHold 2 then (s.hold_ 2 true).emergencyStop else if 55 < t then s else s.hold_ 2 false
  s.serveWake
def execCoolantSample (flow inlet : BitVec 8) (s : State) : Host.Outcome State Fault Refusal := .next (stepCoolantSample flow inlet s)

/-- FLOW_LOSS: below 4.0 L/min for 100 ms; the stop has its throttle record (R421, R433). -/
def stepFlowLoss (s : State) : State :=
  if fld s.power.status 19 12 < 40 then ((s.throttleWhen true 6 0 0 (s.clusterClock 3)).refreshCap).emergencyStop else s
def execFlowLoss (s : State) : Host.Outcome State Fault Refusal := .next (stepFlowLoss s)

/-- The temperature limit of a die's cluster clock: a step lower when one is due, none once the die is cool (R419). -/
def State.stepDieClock (s : State) (d : Nat) (on due : Bool) : State :=
  if !on then s.modPower (fun p => { p with dieDown := tput 0 p.dieDown d 0 })
  else if due then s.modPower (fun p =>
    { p with dieDown := tmod 0 p.dieDown d (fun n => BitVec.ofNat 5 (min 12 (n.toNat + 1))), dieStep := tput 0 p.dieStep d s.launchCounter })
  else s

/-- DIE_TEMPERATURE_SAMPLE (R419). -/
def stepDieTemperatureSample (die : BitVec 3) (t : BitVec 8) (s : State) : State :=
  let d := die.toNat
  let x := t.toNat
  if d < 3 ∨ 6 < d then s
  else
    let s := s.modPower (fun p => { p with dieTemp := tput 0 p.dieTemp d t })
    let on := decide (105 ≤ x) || (decide (102 < x) && s.throttled 5 1 d)
    let due := !s.throttled 5 1 d || decide (50000 ≤ (s.launchCounter - tget 0 s.power.dieStep d).toNat)
    let s := (s.stepDieClock d on due).breachIfSlower s 5
    let s := s.throttleWhen on 5 1 d (s.clusterClock d)
    let s := if 115 ≤ x ∧ !bit s.power.stopHold 1 then (s.hold_ 1 true).emergencyStop
      else if [3, 4, 5, 6].all (fun i => decide ((tget 0 s.power.dieTemp i).toNat < 95)) then
        -- the module leaves Doze once every die has cooled (R419)
        (if bit s.power.stopHold 1 then (s.hold_ 1 false).modPower (fun p => { p with wakePending := true }) else s)
      else s
    s.serveWake
def execDieTemperatureSample (die : BitVec 3) (t : BitVec 8) (s : State) : Host.Outcome State Fault Refusal :=
  .next (stepDieTemperatureSample die t s)

/-- Threshold of a thermal level (R266). -/
def levelThreshold (l : Nat) : Nat := match l with | 1 => 85 | 2 => 95 | 3 => 105 | 4 => 110 | _ => 0

/-- Highest level whose threshold a temperature reaches. -/
def levelOf (t : Nat) : Nat := if 110 ≤ t then 4 else if 105 ≤ t then 3 else if 95 ≤ t then 2 else if 85 ≤ t then 1 else 0

/-- The level a branch drops to while its hottest stack is at least 3 °C under the threshold held (fuel: levels). -/
def dropLevel (hot : Nat) : Nat → Nat → Nat
  | 0, l => l
  | f + 1, l => if l ≠ 0 ∧ hot + 3 ≤ levelThreshold l then dropLevel hot f (l - 1) else l

/-- The level of a branch after a sample (R266). -/
def State.newLevel (s : State) (b : Nat) : Nat :=
  let hot := (List.range 4).foldl (fun m i => max m (tget 0 s.stackTemp (4 * b + i)).toNat) 0
  let old := (tget 0 s.power.stackLevel b).toNat
  if old < levelOf hot then levelOf hot else dropLevel hot 4 old

/-- Temp and RefRate of the channels of a branch (R261, R263, R266). -/
def State.showTemps (s : State) (b level : Nat) : State :=
  (List.range 64).foldl (fun s i =>
    let ch := 64 * b + i
    let own := (tget 0 s.stackTemp (ch / 16)).toNat
    let rate := if 2 ≤ level ∨ 95 ≤ own then 2 else if level = 1 ∨ 85 ≤ own then 1 else 0
    s.modChannel ch (fun c => { c with status := setF (setF c.status 39 32 own) 31 30 rate })) s

/-- The cluster clock limit of a level (R266). -/
def levelClock (l : Nat) : Nat := if l = 2 then 16 else if l = 3 then 10 else 0

/-- The records of a change of level: one, or one for each level that the branch drops to in turn (R266). -/
def State.levelRecords (s : State) (ch old new : Nat) : State :=
  if old < new then s.memError 7 ch (level := new)
  else (List.range (old - new)).foldl (fun s i => s.memError 7 ch (level := old - 1 - i)) s

/-- STACK_TEMPERATURE_SAMPLE (R261, R263, R266). -/
def stepStackTemperatureSample (stack : BitVec 4) (t : BitVec 8) (s : State) : State :=
  let k := stack.toNat
  let b := k / 4
  let s : State := { s with stackTemp := tput 0 s.stackTemp k t }
  let old := s.power.stackLevel
  let new := s.newLevel b
  let s := (s.modPower (fun p => { p with stackLevel := tput 0 p.stackLevel b (BitVec.ofNat 3 new) })).showTemps b new
  let s := s.levelRecords (16 * k) (tget 0 old b).toNat new
  let s := if (tget 0 old b).toNat < new then s.breachIfSlower { s with power := { s.power with stackLevel := old } } 4 else s
  let s := s.throttleWhen (decide (2 ≤ new)) 4 1 (3 + b) (levelClock new)
  let cool := (List.range 16).all (fun i => decide ((tget 0 s.stackTemp i).toNat < 100))
  let s := if new = 4 ∧ !bit s.power.stopHold 0 then (s.hold_ 0 true).emergencyStop else if cool then s.hold_ 0 false else s
  s.serveWake
def execStackTemperatureSample (stack : BitVec 4) (t : BitVec 8) (s : State) : Host.Outcome State Fault Refusal :=
  .next (stepStackTemperatureSample stack t s)

end Sys2Proof.Machine
end

