-- ==== Sys2Proof/Machine/Endpaper.lean ====
section
/-!
DEFINITION. The Endpaper (R443, R444): the image header, which gatherings an image holds and which of them verify, and the update of the
flash (R462-R464).
-/

namespace Sys2Proof.Machine

/-! ### The image (R443, R444) -/

/-- Size of the signature block that ends a signed gathering (R448). -/
def sigLen : Nat := 4096

/-- A directory entry of the image header: offset, length and class. -/
structure DirSlot where
  off : Nat
  len : Nat
  cls : Nat
deriving DecidableEq, Repr

/-- The directory of a header's Count entries. -/
def directoryOf (hdr : List Byte) : List DirSlot :=
  (List.range (leAt hdr 6 2)).map (fun i =>
    { off := leAt hdr (0x10 + 16 * i) 4, len := leAt hdr (0x14 + 16 * i) 4, cls := leAt hdr (0x18 + 16 * i) 1 })

/-- Whether two directory entries share a byte. -/
def DirSlot.overlaps (a b : DirSlot) : Bool := decide (a.off < b.off + b.len ∧ b.off < a.off + a.len)

/-- Whether no two entries of a directory overlap. -/
def disjointSlots : List DirSlot → Bool
  | [] => true
  | d :: ds => ds.all (fun e => !d.overlaps e) && disjointSlots ds

/-- A good header (R444): Count is at least `least`. -/
def headerOk (hdr : List Byte) (least : Nat) : Bool :=
  let count := leAt hdr 6 2
  let len := leAt hdr 8 4
  let ds := directoryOf hdr
  leAt hdr 0 4 == 0xA5C30416 && leAt hdr 4 2 == 1 && decide (len ≤ 64 * 2 ^ 20) && decide (least ≤ count ∧ count ≤ 16) &&
  ds.all (fun d => d.off % 4096 == 0 && decide (d.off + d.len ≤ len) && (d.cls != 1 || d.off == 0x1000)) && disjointSlots ds

/-- The bytes of an image's gatherings with their signature blocks, by class; `read` gives the image's bytes from an offset on. -/
def imageSlots (read : Nat → Nat → List Byte) : List (Nat × List Byte) :=
  (directoryOf (read 0 4096)).map (fun d => (d.cls, read d.off d.len))

/-- Bytes of the flash; one that nothing has programmed since it was erased reads 0xFF (log 2). -/
def flashBytes (f : Tbl Byte) (a n : Nat) : List Byte := (List.range n).map (fun i => tget 0xFF f (a + i))

/-- Program bytes into erased flash. -/
def programFlash (f : Tbl Byte) : Nat → List Byte → Tbl Byte
  | _, [] => f
  | a, b :: bs => programFlash (tput 0xFF f a b) (a + 1) bs

/-- The signed gathering of a class that an image holds: the only one of its class, verified (R444-R449). -/
def verifiedSlot (grade : Nat) (slots : List (Nat × List Byte)) (cls : Nat) : Option (List Byte) :=
  match slots.filter (fun p => p.1 == cls) with
  | [p] => match signedGathering grade p.2 with
    | some g => if g.cls = cls then some p.2 else none
    | none => none
  | _ => none

/-- The Identity gathering at flash offset 0x0000_1000, of the length its own header gives (R444). -/
def identityAt (flash : Tbl Byte) : List Byte :=
  let len := leNat (flashBytes flash 0x1008 4)
  if maxLen 1 < len then [] else flashBytes flash 0x1000 (len + sigLen)

/-- D of a gathering with its signature block: the digest of the signed bytes (R445, R449). -/
def gatheringD (bs : List Byte) : BitVec 384 := digestNum (sub_ bs 0 (leAt bs 8 4))

/-- Place of the verified copy of a class in its part of the device-reserved region: 2 MiB for each, in ascending class (R38, log 21). -/
def copyPlace (cls : Nat) : Nat := 0x12000000 + (if cls < 3 then cls - 1 else cls - 2) * 2 ^ 21

/-- The verified copy of a gathering in force reaches the device-reserved region (R38). -/
def State.keepCopy (s : State) (cls : Nat) : State := s.reservedWrite (copyPlace cls) (tget [] s.sec.gathers cls)

/-- Commit a gathering of the Endpaper, whose copy in force the module keeps (R38, R450, R452), with its measurement (R460). -/
def State.commitClass (s : State) (cls : Nat) : State :=
  let bs := tget [] s.sec.gathers cls
  match gatheringOf s.sec.grade.toNat bs with
  | none => s
  | some g => ((s.applyGathering g).modSec (fun k => { k with meas := tput 0 k.meas cls (gatheringD bs) })).keepCopy cls

/-! ### Staging (R462) -/

/-- Every update command is answered with Update and Detail in a Mgmt frame. -/
def State.answerUpdate (s : State) : State := s.reply [BitVec.ofNat 8 s.sec.update.toNat, BitVec.ofNat 8 s.sec.detail.toNat]

/-- The answer to a command that the present state does not accept. -/
def State.refuseUpdate (s : State) : State := s.reply [BitVec.ofNat 8 s.sec.update.toNat, 8]

/-- Run an update command that arrives under the end-to-end session: accepted in some states, else refused (R386, R462). -/
def State.updateCommand (s : State) (states : List Nat) (f : Security → Security) : State :=
  if !s.fabric.e2e.up then s
  else if states.contains s.sec.update.toNat then (s.modSec f).answerUpdate else s.refuseUpdate

/-- EPBEGIN (R462). -/
def stepEpBegin (len : BitVec 32) (digest : BitVec 384) (s : State) : State :=
  s.updateCommand [0, 4, 5, 6] (fun k =>
    { k with update := 1, detail := 0, stagedLen := len, stagedDigest := digest, staged := [], stagedEnd := 0 })
def execEpBegin (len : BitVec 32) (digest : BitVec 384) (s : State) : Host.Outcome State Fault Refusal := .next (stepEpBegin len digest s)

/-- Whether the fields of an EpData are those of its table, within the staging area. -/
def epDataOk (off n : Nat) : Bool := off % 512 == 0 && decide (1 ≤ n ∧ n ≤ 512) && decide (off + n ≤ 64 * 2 ^ 20)

/-- Whether an EpData is accepted. -/
def State.takesEpData (s : State) (off n : Nat) : Bool := s.fabric.e2e.up && s.sec.update == 1 && epDataOk off n

/-- EPDATA (R462): the data reaches the staging area of the device-reserved region too (R38), in the recovery loader the West scratchpad (R465). -/
def stepEpData (off : BitVec 32) (bytes : List Byte) (s : State) : State :=
  let t := s.updateCommand (if epDataOk off.toNat bytes.length then [1] else []) (fun k =>
    { k with staged := writeBytes k.staged off.toNat bytes,
             stagedEnd := BitVec.ofNat 32 (max k.stagedEnd.toNat (off.toNat + bytes.length)) })
  if s.takesEpData off.toNat bytes.length then
    (if s.modState = 3 then (cutSectors bytes.length off.toNat bytes).foldl (fun s p => s.pokePiece (scratchBase + p.1) p.2) t
     else t.reservedWrite (0x0A000000 + off.toNat) bytes)
  else t
def execEpData (off : BitVec 32) (bytes : List Byte) (s : State) : Host.Outcome State Fault Refusal := .next (stepEpData off bytes s)

/-- EPEND: verification begins (R462, R463). -/
def stepEpEnd (s : State) : State := s.updateCommand [1] (fun k => { k with update := 2, detail := 0 })
def execEpEnd (s : State) : Host.Outcome State Fault Refusal := .next (stepEpEnd s)

/-- EPABORT (R462). -/
def stepEpAbort (s : State) : State :=
  s.updateCommand [1, 2] (fun k => { k with update := 0, detail := 0, staged := [], stagedEnd := 0, stagedLen := 0, stagedDigest := 0 })
def execEpAbort (s : State) : Host.Outcome State Fault Refusal := .next (stepEpAbort s)

/-- EPSTATUS (R462). -/
def stepEpStatus (s : State) : State := s.updateCommand [0, 1, 2, 3, 4, 5, 6] id
def execEpStatus (s : State) : Host.Outcome State Fault Refusal := .next (stepEpStatus s)

/-! ### Verification and programming (R463, R464) -/

/-- What step 2 of R463 finds on the gatherings of an update image: the Detail of a rejection, or 0. -/
def slotsDetail (grade : Nat) (slots : List (Nat × List Byte)) : Nat :=
  let shape := slots.all (fun p => decide (1 ≤ p.1 ∧ p.1 ≤ 5) && slots.countP (fun o => o.1 == p.1) == 1 &&
    (match gatheringOf grade p.2 with
     | some g => g.cls == p.1 && g.signed && g.commit == 0 && decide (g.len + sigLen ≤ p.2.length)
     | none => false))
  if !shape || !slots.any (fun p => p.1 == 3) then 3
  else if slots.all (fun p => (signedGathering grade p.2).isSome) then 0 else 2

/-- The checks of R463 in order: the Detail of the first that fails, or 0. -/
def State.updateDetail (s : State) : Nat :=
  let k := s.sec
  let n := k.stagedLen.toNat
  let slots := imageSlots (readBytes k.staged)
  let of := fun (c : Nat) => (slots.find? (fun p => p.1 == c)).map (fun p => p.2)
  if n < k.stagedEnd.toNat ∨ digestNum (readBytes k.staged 0 n) ≠ k.stagedDigest then 1
  else if !headerOk (readBytes k.staged 0 4096) 1 then 3
  else if slotsDetail k.grade.toNat slots ≠ 0 then slotsDetail k.grade.toNat slots
  else if (of 1).any (fun b => b != tget [] k.gathers 1) then 4
  else if s.modState ≠ 3 ∧ (of 3).any (fun b => decide (leAt b 0x0C 4 < k.fwSecVer.toNat)) then 5
  else 0

/-- Round up to 4 KiB. -/
def up4k (n : Nat) : Nat := (n + 4095) / 4096 * 4096

/-- Place gatherings one after another from an offset on: directory entries and the end. -/
def placeSlots : Nat → List (Nat × List Byte) → List (Nat × Nat × List Byte) × Nat
  | at_, [] => ([], at_)
  | at_, (c, b) :: r => let (t, e) := placeSlots (at_ + up4k b.length) r; ((at_, c, b) :: t, e)

/-- An image of five gatherings, Identity first (R444, R463). -/
def buildImage (slots : List (Nat × List Byte)) : Tbl Byte :=
  let (placed, end_) := placeSlots 0x1000 slots
  let dir := placed.flatMap (fun p => leBytes 4 p.1 ++ leBytes 4 p.2.2.length ++ leBytes 1 p.2.1 ++ leBytes 7 0)
  let hdr := leBytes 4 0xA5C30416 ++ leBytes 2 1 ++ leBytes 2 placed.length ++ leBytes 4 end_ ++ leBytes 4 0 ++ dir
  placed.foldl (fun t p => writeBytes t p.1 p.2.2) (writeBytes [] 0 hdr)

/-- The full image: as staged where it holds all five gatherings, else with those omitted taken from the copies in force (R463). -/
def State.fullImage (s : State) : List Byte :=
  let slots := imageSlots (readBytes s.sec.staged)
  if 5 ≤ slots.length then readBytes s.sec.staged 0 (readLe s.sec.staged 8 4)
  else
    let all := [1, 2, 3, 4, 5].map (fun c =>
      (c, ((slots.find? (fun p => p.1 == c)).map (fun p => p.2)).getD (tget [] s.sec.gathers c)))
    let t := buildImage all
    readBytes t 0 (readLe t 8 4)

/-- ENDPAPER_VERIFY_DONE: the staged image is rejected, or its full image begins to be programmed with the header sector erased (R463,
R464). -/
def stepEndpaperVerifyDone (s : State) : State :=
  if s.sec.update ≠ 2 then s
  else
    let d := s.updateDetail
    if d ≠ 0 then s.modSec (fun k => { k with update := 5, detail := BitVec.ofNat 4 d })
    else
      let full := s.fullImage
      s.modSec (fun k => { k with update := 3, detail := 0, full := full, flash := clearBytes k.flash 0 4096 })
def execEndpaperVerifyDone (s : State) : Host.Outcome State Fault Refusal := .next (stepEndpaperVerifyDone s)

/-- The flash with an image programmed: erased up to the larger of the old and new lengths, to the end of the 64 KiB sector there (R464). -/
def programmed (flash : Tbl Byte) (old : Nat) (image : List Byte) : Tbl Byte :=
  programFlash (clearBytes flash 0 ((max old image.length + 65535) / 65536 * 65536)) 0 image

end Sys2Proof.Machine
end

