-- ==== Sys2Proof/Machine/Etmos.lean ====
section
/-!
DEFINITION. The Etmos fabric (R364-R389, R395, R396, R403): port training, loss and restart, the attested handshake, route steps, window
messages, management frames, time, and gatherings that arrive.
-/

namespace Sys2Proof.Machine

/-! ### Port state (R396) -/

def EPort.setStatus (k : EPort) (state why : Nat) : EPort := { k with status := setF (setF k.status 31 28 state) 27 24 why }

/-- A job message (R391): JobId, node, reason, guard, start. -/
def jobUnits (job node reason guard start : Nat) : List (BitVec 128) :=
  [BitVec.ofNat 128 (put start 64 64), BitVec.ofNat 128 (put job 32 96 + put node 24 72 + put reason 4 68 + put guard 32 36)]

/-- Send a job message on every Bcast port that is up or asleep, but for one (R392, R393, R403). -/
def State.broadcastJob (s : State) (op : Nat) (units : List (BitVec 128)) (except : Option Nat) : State :=
  (List.range 12).foldl (fun s i =>
    let k := s.port i
    if bit k.record 26 && k.takes && except != some i then
      s.sendNeighbour i { vc := 2, len := 6, op := BitVec.ofNat 8 op, dst := 0, src := 0, units := units }
    else s) s

/-- The gate that holds a job in one of some states. -/
def State.gateOf (s : State) (job : Nat) (states : List Nat) : Option Nat :=
  (List.range 16).find? (fun i => let r := (s.gate i).reg; states.contains (fld r 63 60) && fld r 31 0 == job)

def Gate.setState (g : Gate) (st reason node : Nat) : Gate :=
  { g with reg := setF (setF (setF g.reg 63 60 st) 59 56 reason) 55 32 node }

/-- The root reports the outcome of a job to the fabric manager (R393). -/
def State.reportJob (s : State) (g : Nat) : State := s.reply (leBytes 8 (s.gate g).reg.toNat)

/-- The root aborts an armed job (R393). -/
def State.rootAbort (s : State) (job reason node : Nat) : State :=
  match s.gateOf job [2] with
  | none => s
  | some g =>
    if !(s.gate g).root then s
    else
      let start := (s.gate g).s.toNat
      let s := s.modGate g (fun k => k.setState 5 reason node)
      let s := s.modFabric (fun f => { f with forwards := f.forwards.filter (fun j => j.job.toNat != job) })
      (s.broadcastJob 0x17 (jobUnits job node reason 0 start) none).reportJob g

/-- ArmNack to the root of a job (R392); the root takes its own at once. -/
def State.armNack (s : State) (job root node reason start : Nat) : State :=
  if root = s.ownNode then s.rootAbort job reason node
  else s.sendEtmos { vc := 2, len := 6, op := 0x15, dst := BitVec.ofNat 24 root, src := 0, units := jobUnits job node reason 0 start }

/-- A Bcast port goes down on which job arms have been forwarded that are not settled: ArmNack to each root names its Peer (R392). -/
def State.nackLost (s : State) (p : Nat) : State :=
  let peer := fld (s.port p).record 23 0
  let b := BitVec.ofNat 4 p
  let hit := s.fabric.forwards.filter (fun j => j.ports.contains b)
  let s := s.modFabric (fun f => { f with forwards := f.forwards.map (fun j => { j with ports := j.ports.erase b }) })
  hit.foldl (fun s j => s.armNack j.job.toNat j.root.toNat peer 3 j.s.toNat) s

/-- Messages that a port holds and has not wholly put into flits (R376). -/
def EPort.unsent (k : EPort) : Nat := k.out.length + k.flit.waiting.length + k.flit.txUnits.countP (fun u => u.2)

/-- A port goes down with a reason: state 0, or 4 where it has failed (R365, R366, R385); the messages that wait there are dropped (R376). -/
def State.portDown (s : State) (p state why : Nat) : State :=
  let was := s.port p
  let s := s.modPort p (fun k =>
    let k := { k with sess := {}, next := none, drops := [], probeT1 := none, asleep := false, out := [],
                      flit := { k.flit with waiting := [], txUnits := [] } }
    { k with status := setF k.status 35 32 0 }.setStatus state why)
  let s := s.dropEtmos p was.unsent
  if was.takes then s.nackLost p else s

/-! ### The handshake (R384) -/

/-- Bytes of a handshake step. -/
def stepBytes : HandshakeStep → List Byte
  | .hello key nonce => beBytes 96 key.toNat ++ beBytes 32 nonce.toNat
  | .certificate c => c
  | .verify ev sig => ev ++ beBytes 96 sig.toNat
  | .finished mac => beBytes 48 mac.toNat

/-- Attestation evidence with a nonce, signed by the identity key (R461). -/
def State.evidence (s : State) (nonce : List Byte) (key : BitVec 384) : List Byte × State :=
  let body := leBytes 4 0xA5C30419 ++ leBytes 2 1 ++ leBytes 1 s.modState.toNat ++ leBytes 1 s.sec.unlock.toNat ++
    leBytes 8 s.host.moduleId.toNat ++ leBytes 8 s.launchCounter.toNat ++ leBytes 4 s.sec.fwSecVer.toNat ++ leBytes 4 0 ++ nonce ++
    (List.range 8).flatMap (fun i => leBytes 48 (tget 0 s.sec.meas i).toNat) ++ leBytes 32 0
  let sig := ecdsaSign key.toNat (Config.signatureScalar s.free).toNat (sha384 body)
  (body ++ sig, { s with free := s.free + 1 })

/-- A session at its start: an ephemeral key, a nonce and the Hello sent (R384). -/
def State.hello (s : State) (phase : Bool) : Session × State :=
  let d := (Config.random s.free).toNat % (p384N - 1) + 1
  let n := BitVec.ofNat 256 (Config.random (s.free + 1)).toNat
  ({ mine := [beBytes 96 (beNat (publicKey d)) ++ beBytes 32 n.toNat], priv := BitVec.ofNat 384 d, nonce := n, phase := phase }, { s with free := s.free + 2 })

/-- What one step of the peer leads to: the session with this end's next step sent, a failure, or nothing to take now. -/
inductive Shake where
  | ok (t : Session) (s : State)
  | fail
  | ignore

/-- Take one step of the peer (R384).  `first`: this end comes first in the transcript. -/
def State.shake (s : State) (t : Session) (first : Bool) (st : HandshakeStep) : Shake :=
  let got := t.theirs.length
  let t1 : Session := { t with theirs := t.theirs ++ [stepBytes st] }
  match st with
  | .hello key nonce =>
    if got ≠ 0 ∨ t.mine.length ≠ 1 then .ignore
    else if (keyPoint (beBytes 96 key.toNat)).isNone then .fail
    else .ok { t1 with peerKey := key, peerNonce := nonce, mine := t.mine ++ [s.sec.cert] } s
  | .certificate c =>
    if got ≠ 1 then .ignore
    else match s.sec.idKey with
      | none => .fail
      | some id =>
        if c.length = 4256 ∧ leAt c 0 4 = 0xA5C30418 ∧ leAt c 4 2 = 1 ∧ verifySigned (sub_ c 0 0xA0) (sub_ c 0xA0 4096) 2 then
          let t2 : Session := { t1 with idKey := BitVec.ofNat 768 (beNat (sub_ c 0x28 96)) }
          let (ev, s) := s.evidence (beBytes 32 t.peerNonce.toNat) id
          let sig := ecdsaSign id.toNat (Config.signatureScalar s.free).toNat (sha384 (t2.transcript first 2))
          .ok { t2 with mine := t2.mine ++ [ev ++ sig] } { s with free := s.free + 1 }
        else .fail
  | .verify ev sig =>
    if got ≠ 2 then .ignore
    else
      let id := beBytes 96 t.idKey.toNat
      let th := sha384 (t.transcript first 2)
      if ev.length = 576 ∧ leAt ev 0 4 = 0xA5C30419 ∧ leAt ev 4 2 = 1 ∧ sub_ ev 0x20 32 = beBytes 32 t.nonce.toNat ∧
         ecdsaVerify id (sha384 (sub_ ev 0 0x1E0)) (sub_ ev 0x1E0 96) ∧ ecdsaVerify id th (beBytes 96 sig.toNat) then
        match ecdh t.priv.toNat (beBytes 96 t.peerKey.toNat) with
        | none => .fail
        | some secret =>
          let t2 := t1.keyed first secret
          .ok { t2 with mine := t2.mine ++ [t2.mac first first] } s
      else .fail
  | .finished mac =>
    if got ≠ 3 then .ignore
    else if beBytes 48 mac.toNat = t.mac first (!first) then .ok { t1 with up := true } s
    else .fail

/-- Messages of a handshake step: its bytes cut at what one message carries, 59 units (R369, R370, log 103; fuel: the length). -/
def stepMsgs : Nat → List Byte → List EMsg
  | 0, _ => []
  | f + 1, bs => if bs.isEmpty then [] else
      let u := dataUnits (bs.take 944)
      { vc := 2, len := BitVec.ofNat 6 (u.length + 4), op := 0x11, dst := 0, src := 0, units := u } :: stepMsgs f (bs.drop 944)

/-- A step of this end leaves on VC2 of a port (R384). -/
def State.sendStep (s : State) (i : Nat) (bs : List Byte) : State :=
  (stepMsgs bs.length bs).foldl (fun s m =>
    let m := s.toNeighbour i m
    s.send (.etmos (BitVec.ofNat 4 i) { m with d := m.d || bit (s.port i).record 27 })) s

/-- A handshake begins at a port, beside its session or as its session, with this end's Hello (R384, R385). -/
def State.startShake (s : State) (i : Nat) (beside : Bool) : State :=
  let (t, s) := s.hello (beside && !(s.port i).sess.phase)
  let s := s.modPort i (fun k => if beside then { k with next := some t } else { k with sess := t, next := none })
  t.mine.foldl (fun s b => s.sendStep i b) s

/-- Bytes of the peer's handshake come to a port (R384, R385): a whole step is taken and answered; the right Finished brings the port up, with what
has waited for it, or makes the new session ready. -/
def State.shakePort (s : State) (i : Nat) (bs : List Byte) : State :=
  let k := s.port i
  let t := k.next.getD k.sess
  let put := fun (s : State) (t : Session) => s.modPort i (fun k => if k.next.isSome then { k with next := some t } else { k with sess := t })
  match t.gather bs with
  | (t, none) => put s t
  | (t, some st) =>
    match s.shake t (i % 2 == 0) st with
    | .ok u s =>
      let s := (u.mine.drop t.mine.length).foldl (fun s b => s.sendStep i b) (put s u)
      if u.up && k.next.isNone then s.modPort i (fun k => ({ k with asleep := false }.setStatus 3 0).go) else s
    | .fail => s.portDown i 0 3
    | .ignore => put s t

/-- Handshake bytes at a port (R384, R385): while it handshakes, or beside its session; there a Hello of the peer begins a new handshake, which a
version 3 link does not have (R395). -/
def State.takeHandshake (s : State) (i : Nat) (bs : List Byte) : State :=
  let k := s.port i
  let state := fld k.status 31 28
  if state = 2 then s.shakePort i bs
  else if state ≠ 3 then s
  else if k.next.isSome then s.shakePort i bs
  else if fld k.status 39 36 < 4 then s
  else (s.startShake i true).shakePort i bs

/-- Bytes of the fabric manager's handshake (R386): a step is taken, and this end's next goes out as an answer; a Hello while the session is up, or
before there is one, begins a new one. -/
def State.takeE2e (s : State) (bs : List Byte) : State :=
  let (t, s) := if s.fabric.e2e.up || s.fabric.e2e.mine == [] then s.hello false else (s.fabric.e2e, s)
  let sent := if s.fabric.e2e.up || s.fabric.e2e.mine == [] then 0 else t.mine.length
  match t.gather bs with
  | (t, none) => s.modFabric (fun f => { f with e2e := t })
  | (t, some st) =>
    match s.shake t false st with
    | .ok u s => (u.mine.drop sent).foldl (fun s b => s.reply b) (s.modFabric (fun f => { f with e2e := u }))
    | .fail => s.modFabric (fun f => { f with e2e := {} })
    | .ignore => s.modFabric (fun f => { f with e2e := t })

/-- REKEY: a new handshake beside the old session; on a version 3 link, which has no rekeying without retraining, the port trains again
(R385, R395). -/
def stepRekey (p : BitVec 4) (s : State) : State :=
  let i := p.toNat
  let k := s.port i
  if fld k.status 31 28 ≠ 3 ∨ k.next.isSome then s
  else if fld k.status 39 36 < 4 then s.modPort i (fun k => { k with sess := {} }.setStatus 1 0)
  else s.startShake i true
def execRekey (p : BitVec 4) (s : State) : Host.Outcome State Fault Refusal := .next (stepRekey p s)

/-! ### Training, loss, restart (R365, R366, R395, R403) -/

/-- Receive buffers of a port in credit units, by class (R368). -/
def portCredits : List Nat := [16384, 16384, 16384, 16384, 2048, 2048, 1024, 1024]

/-- Width that the lane test leaves: 8, 4, or none (R366); width 4 belongs to version 4 (R395). -/
def portWidth (marked : Nat) (version : Nat) : Option Nat :=
  if marked = 0 then some 8
  else if 4 ≤ version ∧ (marked < 16 ∨ marked % 16 = 0) then some 4
  else none

/-- ETMOS_PORT_TRAINING: the checks in order, and then the handshake begins; an ordered retrain goes back to the state before, with the credits and
the acknowledgement that the peer sent (R27, R365, R366, R395).  The width is the lesser of the two ends' (log 103). -/
def stepEtmosPortTraining (p : BitVec 4) (r : PortTraining) (s : State) : State :=
  let i := p.toNat
  let k := s.port i
  let state := fld k.status 31 28
  let retrain := k.flit.ordered && (state == 2 || state == 3)
  let own := fld s.fabric.node 35 32
  let peer := r.peerVersion.toNat
  let v := min own peer
  if 12 ≤ i ∨ (s.coldStep < 12 ∧ s.modState ≠ 3) ∨ (fld k.record 31 28 = 0 ∧ s.modState ≠ 3) ∨ !(state = 0 ∨ state = 1 ∨ retrain) then s
  else if retrain && k.flit.lastRetrain.any (fun t => decide ((s.launchCounter - t).toNat < 1000000000)) then s.portDown i 4 6
  else match portWidth r.marked.toNat v with
    | none => s.portDown i 4 1
    | some own8 =>
      let w := min own8 r.peerWidth.toNat
      if w ≠ 8 ∧ (w ≠ 4 ∨ v < 4) then s.portDown i 4 1
      else if r.peerPort.toNat ≠ i ^^^ 1 then s.portDown i 0 2
      else if r.peerModuleId.toNat ≠ fld (s.nodeEntry (fld k.record 23 0)) 191 128 ∧ s.modState ≠ 3 then s.portDown i 0 3
      else if 1 < max own peer - v then s.portDown i 0 4
      else
        let reg := fun (w0 : Word) =>
          setF (setF (setF (setF w0 39 36 v) 35 32 w) 23 8 (min r.rtt.toNat 65535)) 7 4 r.peerPort.toNat
        if retrain then
          s.modPort i (fun k =>
            let f := { k.flit with lastRetrain := some s.launchCounter }
            let k := { k with flit := f.regained true r.peerAck.toNat (r.peerCredits.map BitVec.toNat) }
            { k with status := reg (setF k.status 47 40 (satAdd 8 (fld k.status 47 40) 1)) }.go)
        else
          (s.modPort i (fun k =>
            { k with drops := [], peerModule := r.peerModuleId, flit := k.flit.trained portCredits false,
                     status := reg k.status }.setStatus 2 0)).startShake i false
def execEtmosPortTraining (p : BitVec 4) (r : PortTraining) (s : State) : Host.Outcome State Fault Refusal :=
  .next (stepEtmosPortTraining p r s)

/-- ETMOS_PORT_LOSS: the port goes down for a reason; a lane test or a retrain that fails leaves it failed (R366, R396). -/
def stepEtmosPortLoss (p : BitVec 4) (why : BitVec 4) (s : State) : State :=
  let i := p.toNat
  if 12 ≤ i ∨ why = 0 ∨ 7 < why.toNat ∨ fld (s.port i).status 31 28 = 0 ∨ fld (s.port i).status 31 28 = 4 then s
  else s.portDown i (if why = 1 ∨ why = 6 then 4 else 0) why.toNat
def execEtmosPortLoss (p : BitVec 4) (why : BitVec 4) (s : State) : Host.Outcome State Fault Refusal := .next (stepEtmosPortLoss p why s)

/-- PORT_RESTART: the fabric manager's command lets a port train again; it is accepted under the end-to-end session (R366, R386). -/
def stepPortRestart (p : BitVec 4) (s : State) : State :=
  let i := p.toNat
  let state := fld (s.port i).status 31 28
  if 12 ≤ i ∨ !s.fabric.e2e.up ∨ !(state = 0 ∨ state = 4) then s
  else s.modPort i (fun k => { k with flit := {} }.setStatus 1 0)
def execPortRestart (p : BitVec 4) (s : State) : Host.Outcome State Fault Refusal := .next (stepPortRestart p s)

/-- PORT_SLEEP_NOTICE: the peer sleeps; the port reports State 0 and Why 0, and messages toward it wait (R403). -/
def stepPortSleepNotice (p : BitVec 4) (s : State) : State :=
  if fld (s.port p.toNat).status 31 28 ≠ 3 then s
  else s.modPort p.toNat (fun k => { k with asleep := true }.setStatus 0 0)
def execPortSleepNotice (p : BitVec 4) (s : State) : Host.Outcome State Fault Refusal := .next (stepPortSleepNotice p s)

/-- PORT_ACTIVITY_WAKE: in Dormant, activity at a port wakes the module; its port then trains and handshakes again (R403, R404); on the way there
it turns the entry back (R402). -/
def stepPortActivityWake (p : BitVec 4) (s : State) : State :=
  if 12 ≤ p.toNat then s
  else if s.powerState = 3 then (s.modPort p.toNat (fun k => { k with sess := {}, next := none }.setStatus 1 0)).wake
  else if s.powerState = 4 ∧ s.power.entering = 3 then s.wake
  else s
def execPortActivityWake (p : BitVec 4) (s : State) : Host.Outcome State Fault Refusal := .next (stepPortActivityWake p s)

/-! ### Route steps (R370, R373, R376, R381) -/

/-- Whether an opcode of a virtual channel is listed, with its length (R370). -/
def etmosOpOk (m : EMsg) : Bool :=
  let n := m.len.toNat
  match m.vc.toNat, m.op.toNat with
  | 0, 1 => decide (4 ≤ n ∧ n ≤ 35)
  | 0, 2 => n == 3
  | 0, 3 => n == 12
  | 0, 4 => n == 12
  | 1, 1 => decide (4 ≤ n ∧ n ≤ 35)
  | 1, 2 => n == 3
  | 1, 3 => n == 3
  | 2, 0x10 => decide (4 ≤ n)
  | 2, 0x11 => decide (4 ≤ n)
  | 2, 0x12 => decide (4 ≤ n)
  | 2, op => decide (0x13 ≤ op ∧ op ≤ 0x17) && n == 6
  | 3, 0x20 => n == 5
  | 3, 0x21 => n == 6
  | 3, 0x22 => n == 6
  | _, _ => false

/-- Whether the access unit fits its message: within one aligned 512-byte block, an aligned sector for a reduction, and as many data units
as its bytes need (R370). -/
def accessOk (m : EMsg) : Bool :=
  if 2 ≤ m.vc.toNat then true
  else
    let u := m.units.headD 0
    let n := fld u 75 66 + 1
    let off := fld u 115 76
    let data := m.units.length - 1
    decide (n ≤ 512) && decide (off % 512 + n ≤ 512) &&
    (match m.vc.toNat, m.op.toNat with
     | 0, 1 => data == (n + 15) / 16
     | 1, 1 => data == (n + 15) / 16
     | 0, 3 => off % 128 == 0 && n == 128
     | 0, 4 => off % 128 == 0 && n == 128
     | _, _ => true)

/-- Whether a message is validly encoded (R369, R373): the legs from the current one on have a count. -/
def etmosValid (m : EMsg) : Bool :=
  let legs := unpackLegs m.route m.legCnt.toNat
  etmosOpOk m && m.units.length + 2 == m.len.toNat && decide (1 ≤ m.legCnt.toNat ∧ m.legCnt.toNat ≤ 8) &&
  decide (m.legIdx.toNat < m.legCnt.toNat) && (legs.drop m.legIdx.toNat).all (fun l => decide (1 ≤ l.2)) && accessOk m

/-- Where a route step leads. -/
inductive RouteStep where
  | drop
  | misroute
  | out (p : Nat) (m : EMsg)
  | relay (m : EMsg)
  | deliver (m : EMsg)
deriving DecidableEq, Repr

/-- Whether a message's epoch is accepted: the current one or the one before (R381); the recovery loader takes any (R465). -/
def State.epochOk (s : State) (m : EMsg) : Bool :=
  m.epoch.toNat == s.epoch || m.epoch.toNat == (s.epoch + 15) % 16 || s.modState == 3

/-- One route step (R376); a message to a revoked node number is not delivered (R380). -/
def State.routeStep (s : State) (m : EMsg) : RouteStep :=
  let m := { m with hops := m.hops + 1 }
  let i := m.legIdx.toNat
  let p := fld m.route (16 * i + 15) (16 * i + 12)
  let c := fld m.route (16 * i + 11) (16 * i) - 1
  let m := { m with route := setF m.route (16 * i + 11) (16 * i) c }
  if m.hops = 4095 then .drop
  else if 0 < c then .out p m
  else if i + 1 < m.legCnt.toNat then
    .out (fld m.route (16 * i + 31) (16 * i + 28)) { m with legIdx := BitVec.ofNat 3 (i + 1) }
  else if m.dst.toNat = s.ownNode ∧ s.epochOk m ∧ !bit (s.lookupNode s.ownNode).1 254 then .deliver m
  else if m.relay then .relay m
  else .misroute

/-- A message that is not authentic is dropped; sixteen within any 1 s take the port down (R385). -/
def State.unauthentic (s : State) (p : Nat) : State :=
  let now := s.launchCounter
  let times := now :: (s.port p).drops.take 15
  let s := s.modPort p (fun k => { k with drops := times })
  if times.length = 16 ∧ times.all (fun t => decide ((now - t).toNat ≤ 1000000000)) then s.portDown p 0 5 else s

/-- An invalid encoding (R373). -/
def State.invalidEtmos (s : State) (p : Nat) (m : EMsg) : State :=
  (s.logPort p).deviceError 4 (die := 0) (link := 7) (op := m.op.toNat)

/-- A misroute of a message from a port, counted and logged there (R376, R396): at the end of its route, or found when it is routed anew. -/
def State.misrouteFrom (s : State) (p : Nat) (f : State → State) : State :=
  let t := f s
  if t.fabric.misroutes = s.fabric.misroutes then t else t.logPort p

/-- Receive a message at a port (R365, R373, R376, R385): opened where it is protected, then one route step; a handshake step is the port's own.
`f` takes a message delivered here, with its units opened. -/
def State.receiveEtmos (s : State) (p : BitVec 4) (m : EMsg) (f : State → EMsg → State) : State :=
  let i := p.toNat
  if i < 12 ∧ fld (s.port i).status 31 28 = 2 ∧ m.vc = 2 ∧ m.op = 0x11 then
    (if etmosValid m then s.takeHandshake i (unitBytes (m.units.drop 1).dropLast) else s.invalidEtmos i m)
  else if 12 ≤ i ∨ fld (s.port i).status 31 28 ≠ 3 then s
  else if !etmosValid m then s.invalidEtmos i m
  else
    let s := if (s.powerState = 2 ∨ s.powerState = 4) ∧ (m.vc = 0 ∨ m.vc = 2) then s.wake else s
    let opened := if m.vc.toNat < 2 then some (m.units, s.port i) else (s.port i).openMsg m
    match opened with
    | none => s.unauthentic i
    | some (us, k) =>
      let s := s.modPort i (fun _ => k)
      let m := { m with units := us }
      if m.vc = 2 ∧ m.op = 0x11 then s.takeHandshake i (unitBytes m.units)
      else match s.routeStep m with
      | .drop => s.dropEtmos i
      | .misroute => s.misrouteFrom i State.misroute
      | .out q m => if s.modState = 3 then s else s.leaveBy q m
      | .relay m => if s.modState = 3 then s else s.misrouteFrom i (fun s => s.routeMsg m)
      | .deliver m => f s m

/-! ### Messages at their destination -/

/-- The access unit of a message. -/
def accessOf (m : EMsg) : BitVec 128 := m.units.headD 0

/-- A window access arrives (R371). -/
def State.takeAccess (s : State) (p : BitVec 4) (dir : Nat) (m : EMsg) : State :=
  let u := accessOf m
  let n := fld u 75 66 + 1
  let skip := if dir = 2 then 2 else 1
  s.winArrive { win := BitVec.ofNat 12 (fld u 127 116), port := some p, msg := m, dir := BitVec.ofNat 2 dir,
                off := BitVec.ofNat 40 (fld u 115 76), n := n, bytes := (unitBytes (m.units.drop skip)).take n }

/-- The window request an answer belongs to. -/
def State.winReqOf (s : State) (m : EMsg) : Option WinReq :=
  s.fabric.winReqs.find? (fun r => r.tag.toNat == fld (accessOf m) 49 34 && r.node == m.src)

/-- Whether an answer's context still has the generation of the request (R224). -/
def State.accessCurrent (s : State) (m : EMsg) : Bool := fld (accessOf m) 53 50 == s.genOf (fld (accessOf m) 65 54)

def State.dropWinReq (s : State) (r : WinReq) : State := s.modFabric (fun f => { f with winReqs := f.winReqs.erase r })

/-- The answer of a window request comes: its tag is free, and what it answers goes on, unless its generation has passed (R224, R341). -/
def State.winAnswered (s : State) (r : WinReq) (m : EMsg) (performed : Bool) (f : State → State) : State :=
  let s1 := s.dropWinReq r
  if s.accessCurrent m && r.gen.toNat == s.genOf r.ctx.toNat then f s1 else s1.copyStale r.engine.toNat r.n performed

/-- WinData arrives: the engine goes on with the bytes (R371). -/
def State.takeWinData (s : State) (m : EMsg) : State :=
  match s.winReqOf m with
  | none => s
  | some r =>
    if r.dir ≠ 0 then s.dropWinReq r
    else s.winAnswered r m false (fun s => s.copyGot r.engine.toNat ((unitBytes (m.units.drop 1)).take r.n))

/-- WinRedDone arrives (R371). -/
def State.takeWinRedDone (s : State) (m : EMsg) : State :=
  match s.winReqOf m with
  | none => s
  | some r =>
    if r.dir ≠ 2 then s.dropWinReq r
    else s.winAnswered r m true (fun s => s.copyPerformed r.engine.toNat r.n)

/-- A window request of a copy engine failed: a record of Kind 0x4, and the transfer ends as a protection failure (R309, R371). -/
def State.winFailed (s : State) (r : WinReq) (x reason : Nat) : State :=
  let s := s.windowError x (s.genOf x) r.dir.toNat r.node.toNat r.win.toNat reason r.va.toNat
    (Ent.xfer (s.engine r.engine.toNat).entry)
  (s.copyStop r.engine.toNat 2 r.dir.toNat false reason 0 r.va.toNat).copyDrop r.engine.toNat

/-- WinErr arrives: for a request of an engine, or for a write, which carries tag 0 (R309, R371); one with a Reason that R302 does not list is
not acted on (R10). -/
def State.takeWinErr (s : State) (m : EMsg) : State :=
  let u := accessOf m
  let x := fld u 65 54
  let reason := fld u 33 30
  if reason = 0 ∨ 0xA < reason then s
  else match s.winReqOf m with
  | some r =>
    s.winAnswered r m false (fun s => s.winFailed r x reason)
  | none =>
    if fld u 49 34 = 0 ∧ s.accessCurrent m then
      s.windowError x (s.genOf x) 1 m.src.toNat (fld u 127 116) reason 0 0
    else s

/-- A management frame (R386): taken up under the end-to-end session, which the frames before it set up. -/
def State.takeMgmt (s : State) (m : EMsg) : State :=
  if s.fabric.e2e.up then s.modFabric (fun f => { f with frames := f.frames ++ [unitBytes m.units] }) else s.takeE2e (unitBytes m.units)

/-- The launch counter as a timing unit holds it. -/
def timeUnit (a b : Nat) : BitVec 128 := BitVec.ofNat 128 (put a 64 64 + put b 64 0)

/-- Nanoseconds of a PTP timestamp: 48-bit seconds and 32-bit nanoseconds, big-endian (R389, log 43). -/
def ptpTime (bs : List Byte) : Int := (beNat (bs.take 6) * 1000000000 + beNat (sub_ bs 6 4) : Nat)

/-- A PTP timestamp: 48-bit seconds and 32-bit nanoseconds, big-endian (R389, log 43). -/
def ptpStamp (t : Int) : List Byte := beBytes 6 (t / 1000000000).toNat ++ beBytes 4 (t % 1000000000).toNat

/-- The Delay_Resp that answers a Delay_Req received at a time of TAI at a port (R389; the standard's layout, log 43). -/
def ptpDelayResp (req : List Byte) (clock : Word) (p : BitVec 4) (t : Int) : List Byte :=
  [9, 2] ++ beBytes 2 54 ++ sub_ req 4 2 ++ [0, 0] ++ sub_ req 8 8 ++ leBytes 4 0 ++ leBytes 8 clock.toNat ++ beBytes 2 (p.toNat + 1) ++
    sub_ req 30 2 ++ [3, 0x7F] ++ ptpStamp t ++ sub_ req 20 10

/-- A PTP message of 44 bytes: its type, control and interval, the domain, flags, the sender and its number, and a timestamp (R389, log 43). -/
def ptpMessage (type ctl log : Nat) (dom : List Byte) (flags : Nat) (clock : Word) (p : Nat) (seq : BitVec 16) (t : Int) : List Byte :=
  [BitVec.ofNat 8 type, 2] ++ beBytes 2 44 ++ dom ++ [0] ++ beBytes 2 flags ++ leBytes 12 0 ++ leBytes 8 clock.toNat ++ beBytes 2 (p + 1) ++
    beBytes 2 seq.toNat ++ [BitVec.ofNat 8 ctl, BitVec.ofNat 8 log] ++ ptpStamp t

/-- Send a PTP message to the neighbour at a port (R389). -/
def State.sendPtp (s : State) (p : Nat) (bs : List Byte) : State :=
  let d := dataUnits bs
  s.sendNeighbour p { vc := 2, len := BitVec.ofNat 6 (2 + d.length), op := 0x12, dst := 0, src := 0, units := d }

/-- TAI of a launch count, by the offset held (R389). -/
def State.taiNow (s : State) : Int := (s.launchCounter.toNat : Int) + s.fabric.tai

/-- What a boundary clock sends as its own offset has been set (R389, log 43): a Sync and its Follow_Up on every port that is up but its clock
port, and a Delay_Req there. -/
def State.ptpServe (s : State) (p : Nat) (dom : List Byte) : State :=
  let seq := s.fabric.ptpSeq
  let id := s.host.moduleId
  let t := s.taiNow
  let s := s.modFabric (fun f => { f with ptpSeq := f.ptpSeq + 1, ptpReq := some (seq, s.launchCounter) })
  let s := (List.range 12).foldl (fun s i =>
    if i = p ∨ fld (s.port i).status 31 28 ≠ 3 ∨ bit (s.port i).record 25 then s
    else (s.sendPtp i (ptpMessage 0 0 0 dom 0x200 id i seq 0)).sendPtp i (ptpMessage 8 2 0 dom 0 id i seq t)) s
  s.sendPtp p (ptpMessage 1 1 0x7F dom 0 id p seq 0)

/-- Whether a port is where the module takes wall time from: its Clock port, or any where it has none (R389, log 43). -/
def State.ptpPort (s : State) (p : Nat) : Bool :=
  bit (s.port p).record 25 || !(List.range 12).any (fun i => bit (s.port i).record 25)

/-- A PTP correction field as nanoseconds. -/
def ptpCorr (bs : List Byte) : Int := sint 64 (beNat (sub_ bs 8 8)) / 65536

/-- An IEEE 1588 message at a boundary clock (R389): a Sync at the clock port is timestamped; its Follow_Up gives the TAI offset, with the path
delay measured, or the link delay of R387 before one is, and the module serves its own ports; the Delay_Resp to its Delay_Req gives the path delay;
a Delay_Req is answered with the time it was received. -/
def State.takePtp (s : State) (p : BitVec 4) (m : EMsg) : State :=
  let bs := unitBytes m.units
  let seq := BitVec.ofNat 16 (beNat (sub_ bs 30 2))
  let type := leAt bs 0 1 % 16
  if type = 1 then s.sendPtp p.toNat (ptpDelayResp bs s.host.moduleId p s.taiNow)
  else if !s.ptpPort p.toNat then s
  else if type = 0 then s.modFabric (fun f => { f with ptpSync := some (seq, s.launchCounter) })
  else if type = 8 then
    match s.fabric.ptpSync with
    | some (q, t2) =>
      if q = seq then
        let t1 := ptpTime (bs.drop 34) + ptpCorr bs
        let d := s.fabric.ptpDelay.getD (s.port p.toNat).delay
        (s.modFabric (fun f =>
          { f with tai := t1 + d - (t2.toNat : Int), ptpPair := some (t1, t2), ptpSync := none })).ptpServe p.toNat (sub_ bs 4 1)
      else s
    | none => s
  else if type = 9 then
    match s.fabric.ptpReq, s.fabric.ptpPair with
    | some (q, t3), some (t1, t2) =>
      if q = seq ∧ sub_ bs 44 10 = leBytes 8 s.host.moduleId.toNat ++ beBytes 2 (p.toNat + 1) then
        let d := (((t2.toNat : Int) - t1) + (ptpTime (bs.drop 34) - ptpCorr bs - (t3.toNat : Int))) / 2
        s.modFabric (fun f => { f with ptpDelay := some d, ptpReq := none, tai := t1 + d - (t2.toNat : Int) })
      else s
    | _, _ => s
  else s

/-- CounterSync at the Clock port (R387, R388): the error is to be corrected tick by tick, and decides whether the counter is locked; after
Dormant the counter steps forward to the upstream value, or is held until that has caught up. -/
def State.takeCounterSync (s : State) (p : BitVec 4) (m : EMsg) : State :=
  let k := s.port p.toNat
  if !bit k.record 25 || bit s.fabric.node 31 then s
  else
    let t := fld (m.units.headD 0) 127 64
    let e0 : Int := (t : Int) + k.delay - (s.launchCounter.toNat : Int)
    let jump := s.fabric.stepNext && decide (0 < e0)
    let hold := (s.fabric.stepNext || decide (0 < s.fabric.hold)) && decide (e0 < 0)
    let s := if jump then { s with launchCounter := s.launchCounter + BitVec.ofInt 64 e0 } else s
    let e : Int := if jump || hold then 0 else e0
    let a := if jump then 0 else e0.natAbs
    s.modFabric (fun f =>
      let n := if a ≤ 2 then min 16 (f.synced.toNat + 1) else 0
      let locked := if 8 < a then false else if n = 16 then true else bit f.node 30
      { f with stepNext := false, hold := if hold then e0.natAbs else 0, owed := e, synced := BitVec.ofNat 5 n, node := setB f.node 30 locked })

/-- A DelayProbe is answered with its time, the time received and the time sent (R387). -/
def State.takeDelayProbe (s : State) (p : BitVec 4) (m : EMsg) : State :=
  let t1 := fld (m.units.headD 0) 127 64
  let now := s.launchCounter.toNat
  s.sendNeighbour p.toNat { vc := 3, len := 6, op := 0x22, dst := 0, src := 0, units := [timeUnit t1 now, timeUnit now 0] }

/-- A DelayReply gives the link delay (R387). -/
def State.takeDelayReply (s : State) (p : BitVec 4) (m : EMsg) : State :=
  let u := m.units.headD 0
  let w := m.units.getD 1 0
  let t1 := fld u 127 64
  if (s.port p.toNat).probeT1 ≠ some (BitVec.ofNat 64 t1) then s
  else
    let d : Int := (((fld u 63 0 : Int) - (t1 : Int)) + ((s.launchCounter.toNat : Int) - (fld w 127 64 : Int))) / 2
    s.modPort p.toNat (fun k => { k with delay := d, probeT1 := none })

/-- The body of a job message (R391): fields of units 3 and 4, the first in bits [255:128]. -/
def jobBody (m : EMsg) : BitVec 256 :=
  BitVec.ofNat 256 ((m.units.getD 0 0).toNat + ((m.units.getD 1 0).toNat <<< 128))

/-! ### Commands that send and receive -/

/-- A command whose message must be a given one. -/
def State.onMsg (s : State) (p : BitVec 4) (m : EMsg) (vc op : Nat) (f : State → EMsg → State) : State :=
  if m.vc.toNat ≠ vc ∨ m.op.toNat ≠ op then s else s.receiveEtmos p m f

/-- WINWRITE (R371). -/
def stepWinWrite (p : BitVec 4) (m : EMsg) (s : State) : State := s.onMsg p m 0 1 (fun s m => s.takeAccess p 1 m)
def execWinWrite (p : BitVec 4) (m : EMsg) (s : State) : Host.Outcome State Fault Refusal := .next (stepWinWrite p m s)
/-- WINREAD (R371). -/
def stepWinRead (p : BitVec 4) (m : EMsg) (s : State) : State := s.onMsg p m 0 2 (fun s m => s.takeAccess p 0 m)
def execWinRead (p : BitVec 4) (m : EMsg) (s : State) : Host.Outcome State Fault Refusal := .next (stepWinRead p m s)
/-- WINREDINT (R371). -/
def stepWinRedInt (p : BitVec 4) (m : EMsg) (s : State) : State := s.onMsg p m 0 3 (fun s m => s.takeAccess p 2 m)
def execWinRedInt (p : BitVec 4) (m : EMsg) (s : State) : Host.Outcome State Fault Refusal := .next (stepWinRedInt p m s)
/-- WINREDORD (R371). -/
def stepWinRedOrd (p : BitVec 4) (m : EMsg) (s : State) : State := s.onMsg p m 0 4 (fun s m => s.takeAccess p 2 m)
def execWinRedOrd (p : BitVec 4) (m : EMsg) (s : State) : Host.Outcome State Fault Refusal := .next (stepWinRedOrd p m s)
/-- WINDATA (R371). -/
def stepWinData (p : BitVec 4) (m : EMsg) (s : State) : State := s.onMsg p m 1 1 (fun s m => s.takeWinData m)
def execWinData (p : BitVec 4) (m : EMsg) (s : State) : Host.Outcome State Fault Refusal := .next (stepWinData p m s)
/-- WINREDDONE (R371). -/
def stepWinRedDone (p : BitVec 4) (m : EMsg) (s : State) : State := s.onMsg p m 1 2 (fun s m => s.takeWinRedDone m)
def execWinRedDone (p : BitVec 4) (m : EMsg) (s : State) : Host.Outcome State Fault Refusal := .next (stepWinRedDone p m s)
/-- WINERR (R309, R371). -/
def stepWinErr (p : BitVec 4) (m : EMsg) (s : State) : State := s.onMsg p m 1 3 (fun s m => s.takeWinErr m)
def execWinErr (p : BitVec 4) (m : EMsg) (s : State) : Host.Outcome State Fault Refusal := .next (stepWinErr p m s)

/-- WINDOW_RESPONSE_TIMEOUT: an unreachable target (R371). -/
def stepWindowResponseTimeout (tag : BitVec 16) (s : State) : State :=
  match s.fabric.winReqs.find? (fun r => r.tag == tag) with
  | none => s
  | some r =>
    let s1 := s.dropWinReq r
    if r.gen.toNat = s.genOf r.ctx.toNat then s1.winFailed r r.ctx.toNat 6 else s1.copyStale r.engine.toNat r.n false
def execWindowResponseTimeout (tag : BitVec 16) (s : State) : Host.Outcome State Fault Refusal :=
  .next (stepWindowResponseTimeout tag s)

/-- HANDSHAKE: a message with the peer's handshake step, or a part of it, at a port; at number 15 a Mgmt frame of the fabric manager with one of the
end-to-end session's (R384-R386). -/
def stepHandshake (p : BitVec 4) (m : EMsg) (s : State) : State :=
  if p = 15 then (if m.vc = 2 ∧ m.op = 0x10 then s.takeE2e (unitBytes m.units) else s) else s.onMsg p m 2 0x11 (fun s _ => s)
def execHandshake (p : BitVec 4) (m : EMsg) (s : State) : Host.Outcome State Fault Refusal := .next (stepHandshake p m s)

/-- MGMT (R386). -/
def stepMgmt (p : BitVec 4) (m : EMsg) (s : State) : State := s.onMsg p m 2 0x10 (fun s m => s.takeMgmt m)
def execMgmt (p : BitVec 4) (m : EMsg) (s : State) : Host.Outcome State Fault Refusal := .next (stepMgmt p m s)
/-- PTP (R389). -/
def stepPtp (p : BitVec 4) (m : EMsg) (s : State) : State := s.onMsg p m 2 0x12 (fun s m => s.takePtp p m)
def execPtp (p : BitVec 4) (m : EMsg) (s : State) : Host.Outcome State Fault Refusal := .next (stepPtp p m s)
/-- COUNTERSYNC (R387). -/
def stepCounterSync (p : BitVec 4) (m : EMsg) (s : State) : State := s.onMsg p m 3 0x20 (fun s m => s.takeCounterSync p m)
def execCounterSync (p : BitVec 4) (m : EMsg) (s : State) : Host.Outcome State Fault Refusal := .next (stepCounterSync p m s)
/-- DELAYPROBE (R387). -/
def stepDelayProbe (p : BitVec 4) (m : EMsg) (s : State) : State := s.onMsg p m 3 0x21 (fun s m => s.takeDelayProbe p m)
def execDelayProbe (p : BitVec 4) (m : EMsg) (s : State) : Host.Outcome State Fault Refusal := .next (stepDelayProbe p m s)
/-- DELAYREPLY (R387). -/
def stepDelayReply (p : BitVec 4) (m : EMsg) (s : State) : State := s.onMsg p m 3 0x22 (fun s m => s.takeDelayReply p m)
def execDelayReply (p : BitVec 4) (m : EMsg) (s : State) : Host.Outcome State Fault Refusal := .next (stepDelayReply p m s)

/-- COUNTER_SYNC_TIMER: the upstream end of a link sends its counter value (R387). -/
def stepCounterSyncTimer (p : BitVec 4) (s : State) : State :=
  let k := s.port p.toNat
  if fld k.status 31 28 ≠ 3 ∨ bit k.record 25 then s
  else s.sendNeighbour p.toNat { vc := 3, len := 5, op := 0x20, dst := 0, src := 0, units := [timeUnit s.launchCounter.toNat 0] }
def execCounterSyncTimer (p : BitVec 4) (s : State) : Host.Outcome State Fault Refusal := .next (stepCounterSyncTimer p s)

/-- DELAY_PROBE_TIMER: a probe leaves on every Clock port that is up (R387). -/
def stepDelayProbeTimer (s : State) : State :=
  (List.range 12).foldl (fun s i =>
    let k := s.port i
    if fld k.status 31 28 = 3 ∧ bit k.record 25 then
      (s.modPort i (fun k => { k with probeT1 := some s.launchCounter })).sendNeighbour i
        { vc := 3, len := 6, op := 0x21, dst := 0, src := 0, units := [timeUnit s.launchCounter.toNat 0, 0] }
    else s) s
def execDelayProbeTimer (s : State) : Host.Outcome State Fault Refusal := .next (stepDelayProbeTimer s)

/-! ### Gatherings (R381, R407, R451) -/

/-- TRELLIS_GATHERING (R381, R451). -/
def stepTrellisGathering (bytes : List Byte) (s : State) : State := s.gatheringArrives 4 bytes
def execTrellisGathering (bytes : List Byte) (s : State) : Host.Outcome State Fault Refusal := .next (stepTrellisGathering bytes s)

/-- BUDGET_GATHERING (R407, R451). -/
def stepBudgetGathering (bytes : List Byte) (s : State) : State := s.gatheringArrives 6 bytes
def execBudgetGathering (bytes : List Byte) (s : State) : Host.Outcome State Fault Refusal := .next (stepBudgetGathering bytes s)

/-- GATHERING_COMMIT: once the launch counter has reached its CommitCount, the next pending gathering commits, if it is of the class; it is held in
Split and until the safe clock ends, and the Spine is off in Dormant (R381, R400, R416, R417, R450, R451). -/
def stepGatheringCommit (cls : BitVec 8) (s : State) : State :=
  match nextPending s.fabric.pendingGath with
  | none => s
  | some g =>
    if g.cls ≠ cls || s.spineOff || s.shadowsHeld || decide (s.launchCounter.toNat < g.commit.toNat) then s else s.commitPending g
def execGatheringCommit (cls : BitVec 8) (s : State) : Host.Outcome State Fault Refusal := .next (stepGatheringCommit cls s)

end Sys2Proof.Machine
end

