-- ==== Sys2Proof/Machine/Access.lean ====
section
/-!
DEFINITION. Attestation and measurements (R460, R461), the test port with its unlock tokens (R466, R467, R478), and the SMBus sideband
(R470).
-/

namespace Sys2Proof.Machine

/-! ### Attestation (R460, R461) -/

/-- Extend a measurement: SHA-384 of its bytes followed by others (R460). -/
def State.extend (s : State) (i : Nat) (bs : List Byte) : State :=
  s.modSec (fun k => { k with meas := tput 0 k.meas i (digestNum (leBytes 48 (tget 0 k.meas i).toNat ++ bs)) })

/-- ATTEST: 576 bytes of evidence go to Buf; rejected with Info 2 while the identity key is erased (R461, R467). -/
def stepAttest (aq : Bool) (s : State) : State :=
  s.admin aq 0x68 (fun s q e =>
    match s.sec.idKey with
    | none => s.reject q 2
    | some key =>
      let (ev, s) := s.evidence (leBytes 32 (fld e 479 224)) key
      (s.writeBuf (bit e 175) (fld e 223 176) ev).adminDone q)
def execAttest (aq : Bool) (s : State) : Host.Outcome State Fault Refusal := .next (stepAttest aq s)

/-- MEASURE_EXTEND (R461). -/
def stepMeasureExtend (aq : Bool) (s : State) : State :=
  s.admin aq 0x69 (fun s q e => (s.extend 7 (leBytes 48 (fld e 479 96))).adminDone q)
def execMeasureExtend (aq : Bool) (s : State) : Host.Outcome State Fault Refusal := .next (stepMeasureExtend aq s)

/-- MEASURE_EXTEND_REGISTER: a core in M-mode has written V (R461). -/
def stepMeasureExtendRegister (n : BitVec 6) (v : BitVec 384) (s : State) : State :=
  if (s.core n.toNat).mode = 3 then s.extend 7 (leBytes 48 v.toNat) else s
def execMeasureExtendRegister (n : BitVec 6) (v : BitVec 384) (s : State) : Host.Outcome State Fault Refusal :=
  .next (stepMeasureExtendRegister n v s)

/-! ### The test port (R466, R467): bits are listed in the order in which they are shifted -/

/-- Bits of a number, lowest first. -/
def bitsOf (n v : Nat) : List Bool := (List.range n).map (fun i => v.testBit i)

/-- The bypass register: one bit, which captures 0 and delays what is shifted through it. -/
def State.bypassed (s : State) (shiftIn : List Bool) : State :=
  s.modSec (fun k => { k with ir := 0xFF, shiftOut := (false :: shiftIn).take shiftIn.length })

/-- BYPASS of one bit. -/
def stepBypass (tdi : Bool) (s : State) : State := s.bypassed [tdi]
def execBypass (tdi : Bool) (s : State) : Host.Outcome State Fault Refusal := .next (stepBypass tdi s)

/-- IDCODE (R478). -/
def stepIdcode (s : State) : State := s.modSec (fun k => { k with ir := 0x01, shiftOut := bitsOf 32 0x20416B47 })
def execIdcode (s : State) : Host.Outcome State Fault Refusal := .next (stepIdcode s)

/-- SAMPLE/PRELOAD: the pins are captured and shifted out, and the boundary register is loaded. -/
def stepSamplePreload (pins shiftIn : List Bool) (s : State) : State :=
  s.modSec (fun k => { k with ir := 0x02, shiftOut := pins, boundary := shiftIn })
def execSamplePreload (pins shiftIn : List Bool) (s : State) : Host.Outcome State Fault Refusal := .next (stepSamplePreload pins shiftIn s)

/-- EXTEST: the pins are captured and shifted out, and driven from the boundary register. -/
def stepExtest (pins shiftIn : List Bool) (s : State) : State :=
  s.modSec (fun k => { k with ir := 0x03, shiftOut := pins, boundary := shiftIn, pins := shiftIn })
def execExtest (pins shiftIn : List Bool) (s : State) : Host.Outcome State Fault Refusal := .next (stepExtest pins shiftIn s)

/-- UNLOCK_CHAL (R466). -/
def stepUnlockChal (s : State) : State :=
  s.modSec (fun k => { k with ir := 0x10, shiftOut := bitsOf 288 (put k.challenge.toNat 256 32 + put k.tries.toNat 4 28 +
    put k.unlock.toNat 4 24 + put k.lastResult.toNat 4 20) })
def execUnlockChal (s : State) : Host.Outcome State Fault Refusal := .next (stepUnlockChal s)

/-- Whether a token is accepted (R467); its Rsvd fields are ignored (R9). -/
def State.tokenOk (s : State) (t : List Byte) : Bool :=
  let level := leAt t 6 1
  t.length == 4160 && leAt t 0 4 == 0xA5C3041A && leAt t 4 2 == 1 && (level == 1 || level == 2) &&
  verifySigned (sub_ t 0 0x40) (sub_ t 0x40 sigLen) 3 && leAt t 8 8 == s.host.moduleId.toNat &&
  leAt t 0x10 32 == s.sec.challenge.toNat && decide (s.sec.unlock.toNat < level)

/-- The effects of an accepted token (R460, R467). -/
def State.unlocked (s : State) (t : List Byte) : State :=
  let level := leAt t 6 1
  let s := (s.extend 6 (sha384 (sub_ t 0 0x40))).modSec (fun k => { k with unlock := BitVec.ofNat 4 level, lastResult := 1 })
  let s : State := { s.stopAll with refuseWork := true }
  if level = 2 then (List.range 12).foldl (fun s p => s.portDown p 0 3) (s.modSec (fun k => { k with idKey := none })) else s

/-- UNLOCK_TOKEN: disabled after three rejections, when it acts as BYPASS (R466, R467). -/
def stepUnlockToken (token : List Byte) (s : State) : State :=
  if s.sec.tries = 0 then s.bypassed (token.flatMap (fun b => bitsOf 8 b.toNat))
  else
    let ok := s.tokenOk token
    let ch := BitVec.ofNat 256 (Config.random s.free).toNat
    let s : State := { s with free := s.free + 1 }
    let s := s.modSec (fun k => { k with ir := 0x11, challenge := ch })
    if ok then s.unlocked token else s.modSec (fun k => { k with lastResult := 2, tries := k.tries - 1 })
def execUnlockToken (token : List Byte) (s : State) : Host.Outcome State Fault Refusal := .next (stepUnlockToken token s)

/-- `n` bits that the spec leaves open (log 9). -/
def State.freeBits (s : State) (n : Nat) : List Bool × State :=
  ((List.range n).map (fun i => Config.freeBit (s.free + i)), { s with free := s.free + n })

/-- A segment of the test network is shifted: what comes out of it is free (R466; log 46). -/
def State.network (s : State) (code : BitVec 8) (shiftIn : List Bool) : State :=
  let (out, s) := s.freeBits shiftIn.length
  s.modSec (fun k => { k with ir := code, ijtagIn := shiftIn, shiftOut := out })

/-- What the bits shifted into the open network set going: the loop-back of a link port, if they start one (R33, log 46). -/
def State.runNetwork (s : State) (shiftIn : List Bool) : State :=
  match Config.ijtagLoopBack shiftIn with
  | some r => if 14 ≤ r.port.toNat then s else s.loopBack (r.port.toNat / 2) (r.port.toNat % 2 == 1) r
  | none => s

/-- IJTAG: BYPASS below level 1; at level 1 the network reaches the loop-back of a port (R33, R466). -/
def stepIjtag (shiftIn : List Bool) (s : State) : State :=
  if s.sec.unlock = 0 then s.bypassed shiftIn else (s.network 0x20 shiftIn).runNetwork shiftIn
def execIjtag (shiftIn : List Bool) (s : State) : Host.Outcome State Fault Refusal := .next (stepIjtag shiftIn s)

/-- INTEST: BYPASS below level 2 (R466). -/
def stepIntest (shiftIn : List Bool) (s : State) : State :=
  if s.sec.unlock.toNat < 2 then s.bypassed shiftIn else s.network 0x04 shiftIn
def execIntest (shiftIn : List Bool) (s : State) : Host.Outcome State Fault Refusal := .next (stepIntest shiftIn s)

/-! ### SMBus (R470): answered from cold-start step 1 on -/

/-- FLT# is low while ModState is 2 or 3 (R469). -/
def State.fltLow (s : State) : Bool := s.modState == 2 || s.modState == 3

/-- The packet error code of SMBus over the bytes of a transfer: CRC-8 by x^8 + x^2 + x + 1 (R470). -/
def pec (bs : List Byte) : Byte :=
  bs.foldl (fun c b => (List.range 8).foldl (fun c _ => if c.getLsbD 7 then (c <<< 1) ^^^ 0x07 else c <<< 1) (c ^^^ b)) 0

/-- The Cloche answers a read of a command with bytes and their packet error code, which covers the addresses, the command and, of a block
read, the byte count (R470, log 31). -/
def State.smbusAnswer (s : State) (cmd : Byte) (block : Bool) (bs : List Byte) : State :=
  if s.coldStep = 0 then s
  else
    let head := [0xC4, cmd, 0xC5] ++ (if block then [BitVec.ofNat 8 bs.length] else [])
    s.modSec (fun k => { k with smbus := bs, smbusPec := pec (head ++ bs) })

/-- SMBUS_POWER_STATUS. -/
def stepSmbusPowerStatus (s : State) : State := s.smbusAnswer 1 true (leBytes 8 s.powerStatus.toNat)
def execSmbusPowerStatus (s : State) : Host.Outcome State Fault Refusal := .next (stepSmbusPowerStatus s)

/-- SMBUS_IDENTITY: zero before step 7. -/
def stepSmbusIdentity (s : State) : State :=
  s.smbusAnswer 2 true (if s.coldStep < 7 then List.replicate 32 0 else (List.range 4).flatMap (fun i => leBytes 8 (s.identityWord i).toNat))
def execSmbusIdentity (s : State) : Host.Outcome State Fault Refusal := .next (stepSmbusIdentity s)

/-- SMBUS_MODULE_STATE. -/
def stepSmbusModuleState (s : State) : State := s.smbusAnswer 3 false [BitVec.ofNat 8 (put s.modState.toNat 4 0 + put s.coldStep.toNat 4 4)]
def execSmbusModuleState (s : State) : Host.Outcome State Fault Refusal := .next (stepSmbusModuleState s)

/-- SMBUS_WAKE: a wake event (R404). -/
def stepSmbusWake (s : State) : State := if s.coldStep = 0 then s else s.wake
def execSmbusWake (s : State) : Host.Outcome State Fault Refusal := .next (stepSmbusWake s)

/-- SMBUS_ALERT_CAUSE: cleared by the read. -/
def stepSmbusAlertCause (s : State) : State :=
  if s.coldStep = 0 then s else (s.smbusAnswer 5 false [s.sec.alert]).modSec (fun k => { k with alert := 0 })
def execSmbusAlertCause (s : State) : Host.Outcome State Fault Refusal := .next (stepSmbusAlertCause s)

/-- SMBUS_ALERT_RESPONSE: while SMBALERT# is low the module answers with its address 0x62 and releases it. -/
def stepSmbusAlertResponse (s : State) : State :=
  if s.sec.alertLow && s.coldStep != 0 then
    s.modSec (fun k => { k with smbus := [BitVec.ofNat 8 (0x62 * 2)], smbusPec := pec [0x19, BitVec.ofNat 8 (0x62 * 2)], alertLow := false })
  else s
def execSmbusAlertResponse (s : State) : Host.Outcome State Fault Refusal := .next (stepSmbusAlertResponse s)

end Sys2Proof.Machine
end

