-- ==== Sys2Proof/Machine/Engine.lean ====
section
/-!
DEFINITION. What the Press and the Stream Engine share: reads and writes of context virtual memory at the Quire (R78, R102, R115, R189,
R190, R191), writes of the local store against its code (R249), numerics status and events (R63, R64), and faults at execution of
a unit (R90, R125).
-/

namespace Sys2Proof.Machine

/-- The sectors that `n` bytes from an address touch. -/
def sectorsOf (addr n : Nat) : List Nat :=
  if n = 0 then [] else (List.range ((addr + n - 1) / 128 - addr / 128 + 1)).map (fun i => addr / 128 * 128 + i * 128)

/-- What an engine's virtual access leads to: wait (with the walks and write-backs it has caused), a fault (uncorrectable or protection), or go
on. -/
inductive Virt (α : Type) where
  | wait (s : State)
  | fault (s : State) (uncorrectable : Bool)
  | ok (s : State) (x : α)

/-- Units of a cluster whose accesses wait for translations, beside its groups. -/
def ownArray : Nat := 64
def ownFinish : Nat := 65
def ownStream : Nat := 66
def ownFill : Nat := 67

/-- Translations of the sectors of an access through the cluster's look-aside buffer (R296-R298): walks to wait for, the first failure in
ascending order, or an entry for each sector.  An entry that is found is the most recently used, be the access refused or not (R481); a
stream lets go of what it has gathered only when all its writes are made. -/
def State.virtPas (s : State) (c o : Nat) (k : Kernel) (d : AccessDir) (vas : List Nat) : Virt (List TlbEnt) :=
  let x := k.ctx.toNat
  if s.misses c o x vas ≠ [] then .wait (s.gather c o x vas)
  else
    let fails := vas.filterMap (fun va => match s.lookFor c o x va with
      | .fail f => some (f.reason == 9)
      | .hit e => (clusterCheck d e va).map (fun _ => false)
      | .miss => none)
    let done := fun (s : State) => if o = ownStream then s else s.ungather c o
    let es := vas.filterMap (fun va => match s.lookFor c o x va with | .hit e => some e | _ => none)
    let t := done (es.eraseDups.foldl (fun s e => if (s.tlbOf c).contains e then s.tlbTouch c e else s) s)
    match fails with
    | [] => .ok t es
    | unc :: _ => .fault t unc

/-- The first of some sectors, by its place among them, that an engine may not reach, and whether its walk met uncorrectable data. -/
def State.virtStop (s : State) (c o : Nat) (k : Kernel) (d : AccessDir) (vas : List Nat) : Option (Nat × Bool) :=
  vas.zipIdx.findSome? (fun (va, i) => match s.lookFor c o k.ctx.toNat va with
    | .fail f => some (i, f.reason == 9)
    | .hit e => (clusterCheck d e va).map (fun _ => (i, false))
    | .miss => none)

/-- A line whose dirty bytes have gone to the Quire: a sector that was wholly dirty is now valid. -/
def CLine.cleaned (l : CLine) : CLine :=
  { l with dirty := [], valid := l.dirty.foldl (fun v p => if p.2 = BitVec.allOnes 128 then setB v p.1 true else v) l.valid }

/-- Write back the dirty bytes that a cluster's own cache holds of some sectors' lines, keeping the lines (R191). -/
def State.cleanSectors (s : State) (c : Nat) (k : Kernel) (pas : List Nat) : State :=
  (pas.map lineOf).eraseDups.foldl (fun s ln =>
    match (s.cluster c).cache.find? (fun l => l.line.toNat == ln && l.dirty != [] && l.filling == 0) with
    | none => s
    | some l => (s.writeBackLine c k l).modCluster c (fun u => u.modCline (ln * 2048) CLine.cleaned)) s

/-- Read bytes of a context's memory at the Quire for an engine of a cluster (R78, R115, R189): the cluster's own dirty bytes go to
the Quire first (R191); a sector under an ordered reduction makes the engine wait (R238). -/
def State.virtRead (s : State) (c o : Nat) (k : Kernel) (addr n : Nat) : Virt (List Byte) :=
  let vas := sectorsOf addr n
  match s.virtPas c o k .read vas with
  | .wait s => .wait s
  | .fault s b => .fault s b
  | .ok t es =>
    let pas := (vas.zip es).map (fun (va, e) => e.addr va)
    if (s.cluster c).cache.any (fun l => l.dirty != [] && pas.any (fun p => lineOf p == l.line.toNat)) then
      .wait (s.cleanSectors c k pas)
    else if s.sh.reqs.any (fun r => r.msg.src.toNat == c && r.why == .writeBack && pas.any (fun p => p == r.msg.pa.toNat)) then
      .wait s
    else if pas.any (fun p => s.sectorBusy p) then .wait s
    else
      let noted := pas.foldl (fun s p => s.noteRead p (some k.ctx.toNat)) t
      match pas.findSome? (fun p => let e := s.readErr p; if e = 0 then none else some (e == 1)) with
      | some b => .fault noted b
      | none => .ok noted (((pas.flatMap (fun p => sectorBytes (s.viewSector p))).drop (addr % 128)).take n)

/-- Write bytes of a context's memory at the Quire for an engine of a cluster: every sector is checked before the first is written;
each goes as one full or masked write, after the cluster's dirty bytes of its line (R190), or leaves through its outbound slot
(R306).  An operation, stream or flush that writes through a slot does not wait for those writes to be performed: R102 speaks only of writes
performed at the Quire (log 85). -/
def State.virtWrite (s : State) (c o : Nat) (k : Kernel) (addr : Nat) (bs : List Byte) (why : Purpose) : Virt Unit :=
  match s.virtPas c o k .write (sectorsOf addr bs.length) with
  | .wait s => .wait s
  | .fault s b => .fault s b
  | .ok t es =>
    if es.zip (sectorsOf addr bs.length) |>.any (fun (e, va) => !e.remote && (s.cluster c).mixedLine (e.addr va)) then .wait s
    else .ok (((cutSectors bs.length addr bs).zip es).foldl (fun s ((va, piece), e) =>
      if e.remote then s.slotWrite k.ctx.toNat k.gen.toNat e.slot va (e.addr va) piece
      else
        let pa := e.addr va
        let full := piece.length == 128
        (s.flushLine c k pa).request
          { vc := 0, op := if full then 2 else 3, src := BitVec.ofNat 12 c, tag := 0, ctx := k.ctx, gen := k.gen,
            pa := BitVec.ofNat 48 (sectorBase pa), ctl := if full then 0 else byteMask pa piece.length,
            data := BitVec.ofNat 1024 (leNat piece <<< (8 * (pa % 128))) } why) t) ()

/-- Whether any bytes of a range lie in a failing codeword (R249). -/
def rangeBad (bad : List Nat) (addr n : Nat) : Bool :=
  n != 0 && bad.any (fun b => decide (addr / 32 ≤ b ∧ b ≤ (addr + n - 1) / 32))

/-- Whether a write of a range needs the rest of a failing codeword (R249). -/
def writeBadly (bad : List Nat) (addr n : Nat) : Bool :=
  bad.any (fun b => decide (addr < 32 * b + 32 ∧ 32 * b < addr + n ∧ ¬(addr ≤ 32 * b ∧ 32 * b + 32 ≤ addr + n)))

/-- Failing codewords left after a write of a range that covers some whole (R249). -/
def cureBad (bad : List Nat) (addr n : Nat) : List Nat :=
  bad.filter (fun b => !(decide (addr ≤ 32 * b) && decide (32 * b + 32 ≤ addr + n)))

/-- Write bytes into a cluster's local store. -/
def Cluster.lsWrite (u : Cluster) (addr : Nat) (bs : List Byte) : Cluster :=
  { u with ls := writeBytes u.ls addr bs, lsBad := cureBad u.lsBad addr bs.length }

/-- A tile or stream result enters the numerics status of its context and kernel, and in the flag class the first that sets NF,
Sat, Inv or ISat in a kernel on a cluster raises the event (R63, R64). -/
def State.numerics (s : State) (c : Nat) (k : Kernel) (isStream : Bool) (record : BitVec 64) (utag : Nat) : State :=
  let bits := fld record 4 0
  let x := k.ctx.toNat
  let s := s.modCtx x (fun t => { t with num := t.num ||| BitVec.ofNat 64 bits })
  let s := s.modCluster c (fun u => { u with num := u.num ||| BitVec.ofNat 5 bits })
  if !bit (s.ctx x).num 8 && bits &&& 0x17 != 0 && !(s.cluster c).eventDone then
    (s.modCluster c (fun u => { u with eventDone := true })).event 1 (some x)
      (put k.id.toNat 32 320 + put c 7 313 + putb isStream 312 + put record.toNat 64 248 + put utag 16 232) 1
  else s

/-- Status of an output: bits [4:0], number of affected elements, and the first of them by row and column. -/
structure OutStat where
  bits : Nat := 0
  count : Nat := 0
  first : Option (Nat × Nat × Nat) := none
deriving DecidableEq, Repr

/-- Note one element of an output (R60-R62); elements come in ascending row and column. -/
def OutStat.note (o : OutStat) (r c : Nat) (e : OutRes) : OutStat :=
  { bits := o.bits ||| e.status, count := o.count + (if e.kind.isSome then 1 else 0),
    first := match o.first, e.kind with
      | some f, _ => some f
      | none, some k => some (r, c, k)
      | none, none => none }

/-- The unit fault of a group at execution: its group parks with the ticket (R90, R125). -/
def State.unitFault (s : State) (c g cause reason ticket : Nat) : State :=
  s.park c g { cause := BitVec.ofNat 8 cause, reason := BitVec.ofNat 8 reason, ticket := some (BitVec.ofNat 8 ticket) }

/-- The checks that come before a collective instruction reads anything (R144): all lanes active, operands alike. -/
def LC.collective (i : LC) (gr : Group) (regs : List Nat) : Option Nat :=
  if i.e.mask ≠ BitVec.allOnes 32 then some 0
  else if regs.all (fun r => (gr.uniform i.lanes r).isSome) then none else some 1

end Sys2Proof.Machine
end

