-- ==== Sys2Proof/Machine/Press.lean ====
section
/-!
DEFINITION. The Press (R66-R93, R483): issue of tile operations with its checks, own exponent passes, array phases, finishes, the
finished-tile queue and its credits, and faults at execution.
-/

namespace Sys2Proof.Machine

/-! ### Elements -/

/-- Element (r, c) of a buffer, in a mode (R71). -/
def Press.el (p : Press) (m : BufMode) (b r c : Nat) : AccV :=
  let lo := tget {} p.acc (b * 16384 + r * 128 + c)
  match m with
  | .fp32 => { val := (fld lo.val 31 0 : Nat), org := lo.org }
  | .slice =>
    let hi := tget {} p.acc (16384 + r * 128 + c)
    { val := sint 192 (lo.val.toNat + hi.val.toNat * 2 ^ 96), tag := lo.tag.toNat, org := lo.org }
  | _ => { val := sint 96 lo.val.toNat, tag := lo.tag.toNat, org := lo.org }

def Press.setEl (p : Press) (m : BufMode) (b r c : Nat) (a : AccV) : Press :=
  let k := b * 16384 + r * 128 + c
  match m with
  | .fp32 => { p with acc := tput {} p.acc k { val := BitVec.ofNat 96 a.val.toNat, tag := 0, org := a.org } }
  | .slice =>
    let v := unsint 192 a.val
    let lo := tput {} p.acc k { val := BitVec.ofNat 96 v, tag := BitVec.ofNat 2 a.tag, org := a.org }
    { p with acc := tput {} lo (16384 + r * 128 + c) { val := BitVec.ofNat 96 (v / 2 ^ 96) } }
  | _ => { p with acc := tput {} p.acc k { val := BitVec.ofNat 96 (unsint 96 a.val), tag := BitVec.ofNat 2 a.tag, org := a.org } }

/-- Rows and columns of a tile, row-major. -/
def tileCells (d : BitVec 256) : List (Nat × Nat) :=
  (List.range (Tile.rows d)).flatMap (fun r => (List.range (Tile.cols d)).map (fun c => (r, c)))

/-! ### Buffer bookkeeping (R71-R74) -/

/-- The two buffers as bookkeeping. -/
abbrev Bufs := BufState × BufState

def bufAt (b : Bufs) (i : Nat) : BufState := if i = 0 then b.1 else b.2
def setBuf (b : Bufs) (i : Nat) (x : BufState) : Bufs := if i = 0 then (x, b.2) else (b.1, x)

/-- A tile of a buffer ends; a slice tile ends in both. -/
def endBuf (b : Bufs) (i : Nat) : Bufs :=
  if b.1.mode = .slice ∧ i = 0 then ({}, {}) else setBuf b i {}

/-- What the array phase of an operation makes of the buffers.  One with Start 0b00 or 0b10 takes its buffer whatever unfinished tile of
its own group it holds, in this mode or another, and a slice tile takes both; no rule calls that a fault (log 81). -/
def startBuf (b : Bufs) (g : BitVec 6) (d : BitVec 256) : Bufs :=
  if Tile.op d ≠ 1 ∧ Tile.op d ≠ 3 then b
  else
    let m := tileMode d
    let i := Tile.buf d
    let old := bufAt b i
    let keep := Tile.start d == 1
    let base := if keep then b else endBuf b i
    let x : BufState :=
      { mode := m, owner := some g,
        count := (if keep then old.count else 0) + (if Tile.op d = 1 then BitVec.ofNat 40 (Tile.depth d) else 0),
        merged := (if keep then old.merged else 0) + (if Tile.op d = 3 then BitVec.ofNat 16 (Tile.mCount d) else 0),
        mm1 := BitVec.ofNat 7 (Tile.rows d - 1), nm1 := BitVec.ofNat 7 (Tile.cols d - 1), clip := keep && old.clip }
    let base := setBuf base i x
    if m = .slice then setBuf base 1 { mode := .slice, owner := some g } else base

/-- Whether the end of an operation releases its buffer: it has a finish (R72), or its tile was given up while it ran (R90, R92). -/
def releases (o : PressOp) : Bool :=
  (Tile.op o.desc == 1 || Tile.op o.desc == 3 || Tile.op o.desc == 5) && (Tile.finish o.desc != 0 || o.orphan)

/-- What an operation still in the queue will make of the buffers (R74). -/
def projectOp (b : Bufs) (o : PressOp) : Bufs :=
  let b := match o.phase with
    | .queued => startBuf b o.group o.desc
    | .array => startBuf b o.group o.desc
    | _ => b
  if releases o then endBuf b (Tile.buf o.desc) else b

def Press.projected (p : Press) : Bufs := p.ops.foldl projectOp (p.buf0, p.buf1)

/-- Buffers an operation names for R72, R82 and R90, by the mode it finds or takes; an exponent pass and an anchor load name buffer 0
(R70). -/
def opBufs (b : Bufs) (d : BitVec 256) : List Nat :=
  if Tile.op d = 2 ∨ Tile.op d = 4 then [Tile.buf d]
  else if tileMode d = .slice ∨ (Tile.op d = 5 ∧ b.1.mode = .slice ∧ Tile.buf d = 0) then [0, 1] else [Tile.buf d]

/-! ### Checks at issue (R69-R74) -/

/-- Checks of one operand range (R67, R69, R70). -/
def operandFaults (ls addr stride n w k : Nat) : List Nat :=
  if addr % 64 ≠ 0 ∨ stride = 0 ∨ stride * 64 < n * w then [1]
  else if ls < addr + (k - 1) * stride * 64 + n * w then [2] else []

/-- Every precise fault of an operation against the projected buffers (R70-R74, R483).  Of the splits of R53 the Press sees only its own
share: it rejects a product that goes on (Start 0b01) from a count that is no multiple of 32; the length of the last share and the order of
merged partials are the program's (log 83).  Output formats that no mode allows are invalid of any operation (R42, R70). -/
def tileFaults (ls : Nat) (b : Bufs) (g : BitVec 6) (d : BitVec 256) : List Nat :=
  let op := Tile.op d
  let st := Tile.start d
  let fin := Tile.finish d
  let i := Tile.buf d
  let held := bufAt b i
  let drainMode := if held.mode = .slice ∧ i = 1 then BufMode.none else held.mode
  let mode := if op = 5 then drainMode else tileMode d
  let inv := fun (p : Bool) (r : Nat) => if p then [r] else []
  let starts := if op = 1 then [0, 1, 2] else if op = 5 then [0, 1, 2, 3] else [0, 1]
  let finishes := if op = 2 then [0, 2] else if op = 4 then [0, 1, 2, 3] else if op = 5 then [1, 2] else [0, 1, 2]
  let outs := if op = 1 then pairOuts (Tile.fmtA d)
    else if mode = .none then modeOuts .exact ++ modeOuts .fp32 ++ modeOuts .slice else modeOuts mode
  let w := widthOf (Tile.fmtA d)
  let n := Tile.rows d * Tile.cols d
  let rd := if op = 1 ∧ st = 2 then n * recWidth mode else if op = 3 then Tile.mCount d * n * recWidth mode
    else if op = 4 then Tile.mCount d * n * 2 else 0
  let wr := if fin = 2 ∧ (op = 1 ∨ op = 3 ∨ op = 5) then n * widthOf (Tile.fmtOut d) else if fin = 2 ∧ op = 2 then n * 2 else 0
  let keep := st == 1 && (op == 1 || op == 3)
  let count := (if keep then held.count.toNat else 0) + Tile.depth d
  inv (!starts.contains st) 1 ++ inv (!finishes.contains fin) 1 ++
  (if op = 1 then inv (mode == .none) 1 else []) ++
  (if op = 2 then inv (Tile.fmtA d != Tile.fmtB d || !(Tile.fmtA d == 6 || Tile.fmtA d == 7) || i != 0) 1 else []) ++
  (if op = 3 then inv (mode == .none) 1 else []) ++
  (if op = 4 then inv (i != 0) 1 else []) ++
  (if op = 5 then inv (drainMode == .none) 4 else []) ++
  (if op = 3 ∨ op = 4 then inv (Tile.mCount d == 0 || decide (128 < Tile.mCount d)) 1 else []) ++
  inv ((op == 1 || op == 3) && mode == .slice && i != 0) 1 ++
  (if op = 1 ∨ op = 2 then
    inv (Tile.depth d == 0 || decide (2 ^ 24 < Tile.depth d)) 1 ++
    (if w = 0 then [] else operandFaults ls (Tile.addrA d) (Tile.strideA d) (Tile.rows d) w (Tile.depth d) ++
      operandFaults ls (Tile.addrB d) (Tile.strideB d) (Tile.cols d) w (Tile.depth d))
   else []) ++
  (if rd ≠ 0 ∨ wr ≠ 0 ∨ op = 5 then
    (if Tile.auxAddr d % 256 ≠ 0 then [1] else inv (!Tile.auxVirt d && decide (0 < max rd wr ∧ ls < Tile.auxAddr d + max rd wr)) 2)
   else []) ++
  (if op = 1 ∨ op = 3 ∨ op = 5 then
    inv (!outs.contains (Tile.fmtOut d) || (fin == 1 && !([6, 5, 4, 1, 2, 8].contains (Tile.fmtOut d)))) 1 else []) ++
  inv (([0, 1].filter (fun j => decide (j ∈ opBufs b d))).any
    (fun j => match (bufAt b j).owner with | some o => o != g | none => false)) 3 ++
  inv ((op == 1 || op == 3 || op == 5) && i == 1 && b.1.mode == .slice) 4 ++
  inv (keep && mode != .none && held.mode != mode) 4 ++
  inv ((op == 4 || (op == 2 && fin == 0)) && b.1.mode == .slice) 4 ++
  inv (op == 1 && (mode == .exact || mode == .slice) && decide (2 ^ 24 < count)) 5 ++
  inv (op == 1 && mode == .fp32 && keep && held.count.toNat % 32 != 0) 1 ++
  inv (op == 3 && mode == .slice && decide (128 < (if keep then held.merged.toNat else 0) + Tile.mCount d)) 1

/-- The lowest of some reasons (R162). -/
def lowest : List Nat → Option Nat
  | [] => none
  | r :: rs => some (rs.foldl min r)

/-- Issue of a tile operation by dh.tile, for the row of the opcode table that its Op names (R69-R76, R144, R166).  A divergent
collective, an unreadable descriptor offset and an unlisted Op fault whichever of the five rows is commanded (log 16).  An operation stays
an entry of the queue of eight until it completes, faults or is cancelled (log 82). -/
def State.tileIssue (s : State) (c : BitVec 7) (g : BitVec 6) (op : Nat) : State :=
  s.laneStep c.toNat g.toNat (· == .tile) (fun s i =>
    let u := s.cluster i.c
    let gr := s.group i.c i.g
    match i.collective gr [iRs1 i.w] with
    | some r => s.fault i 2 (6 + r)
    | none =>
      let off := (gr.getX 0 (iRs1 i.w)).toNat
      if off % 32 ≠ 0 then s.fault i 2 1
      else if i.k.lsBytes < off + 32 then s.fault i 2 2
      else if rangeBad u.lsBad off 32 then s.laneUncorrectable i 2 i.lanes none
      else
        let d := BitVec.ofNat 256 (readLe u.ls off 32)
        if Tile.op d = 0 ∨ 5 < Tile.op d then s.fault i 2 1
        else if Tile.op d ≠ op then s
        else
          match lowest (tileFaults i.k.lsBytes u.press.projected (BitVec.ofNat 6 i.g) d) with
          | some r => s.fault i 2 r
          | none =>
            if 8 ≤ u.press.ops.length then s
            else
              let t := u.press.nextTicket
              let own := op == 1 && tileMode d == .slice && !Tile.anchorReg d
              let o : PressOp := { ticket := t, group := BitVec.ofNat 6 i.g, desc := d,
                                   exp := if own then .needed else .unneeded }
              (s.modPress i.c (fun p => { p with ops := p.ops ++ [o], nextTicket := t + 1 })).finish i
                (fun k => k.setAll i.lanes (iRd i.w) (fun _ => t.zeroExtend 64)))

/-- PRODUCT (R66, R68). -/
def execProduct (c : BitVec 7) (g : BitVec 6) (s : State) : Host.Outcome State Fault Refusal := .next (s.tileIssue c g 1)
/-- EXPONENT_PASS (R68). -/
def execExponentPass (c : BitVec 7) (g : BitVec 6) (s : State) : Host.Outcome State Fault Refusal := .next (s.tileIssue c g 2)
/-- MERGE (R68, R88). -/
def execMerge (c : BitVec 7) (g : BitVec 6) (s : State) : Host.Outcome State Fault Refusal := .next (s.tileIssue c g 3)
/-- ANCHOR_LOAD (R68). -/
def execAnchorLoad (c : BitVec 7) (g : BitVec 6) (s : State) : Host.Outcome State Fault Refusal := .next (s.tileIssue c g 4)
/-- DRAIN (R68). -/
def execDrain (c : BitVec 7) (g : BitVec 6) (s : State) : Host.Outcome State Fault Refusal := .next (s.tileIssue c g 5)

/-! ### Operands -/

/-- The products of element (r, c) of an operation, in ascending k (R66, R67). -/
def tileProds (ls : Tbl Byte) (d : BitVec 256) (r c : Nat) : List (FVal × FVal) :=
  let wa := widthOf (Tile.fmtA d)
  let wb := widthOf (Tile.fmtB d)
  (List.range (Tile.depth d)).map (fun k =>
    (valOf (Tile.fmtA d) (readLe ls (Tile.addrA d + k * Tile.strideA d * 64 + r * wa) wa),
     valOf (Tile.fmtB d) (readLe ls (Tile.addrB d + k * Tile.strideB d * 64 + c * wb) wb)))

/-- Whether an operand of an operation lies in a failing codeword of the local store (R249). -/
def operandsBad (bad : List Nat) (d : BitVec 256) : Bool :=
  bad != [] && (List.range (Tile.depth d)).any (fun k =>
    rangeBad bad (Tile.addrA d + k * Tile.strideA d * 64) (Tile.rows d * widthOf (Tile.fmtA d)) ||
    rangeBad bad (Tile.addrB d + k * Tile.strideB d * 64) (Tile.cols d * widthOf (Tile.fmtB d)))

/-! ### Completion and faults -/

/-- An operation completes: its ticket ends, its buffer is released by a finish, its token is signalled (R72, R77, R181). -/
def State.pressDone (s : State) (c : Nat) (o : PressOp) : State :=
  s.modCluster c (fun u =>
    let p := u.press
    let b := if releases o then endBuf (p.buf0, p.buf1) (Tile.buf o.desc) else (p.buf0, p.buf1)
    let u := { u with press := { p with ops := p.ops.filter (fun x => x.ticket != o.ticket), buf0 := b.1, buf1 := b.2,
                                        ended := tput false p.ended o.ticket.toNat false } }
    if Tile.tokEn o.desc then u.addToken (Tile.tokNum o.desc) 1 else u.rewait)

/-- Cancel some operations of the queue: their tickets end, and a pass of theirs leaves the staging array (R90, R92). -/
def Press.cancel (p : Press) (dead : List PressOp) : Press :=
  { p with ops := p.ops.filter (fun x => !dead.any (fun y => y.ticket == x.ticket)),
           ended := dead.foldl (fun t x => tput false t x.ticket.toNat true) p.ended,
           staging := if dead.any (fun x => x.exp == .running || x.exp == .staged) then [] else p.staging }

/-- Invalidate and release a buffer (R90, R92).  An operation that has started on it runs on, and releases it when it completes; so what it
writes is its own tile. -/
def Press.dropBuf (p : Press) (i : Nat) : Press :=
  let busy := fun (x : PressOp) => x.phase != .queued && Tile.op x.desc != 2 && Tile.op x.desc != 4 &&
    decide (i ∈ opBufs (p.buf0, p.buf1) x.desc)
  if p.ops.any busy then { p with ops := p.ops.map (fun x => if busy x then { x with orphan := true } else x) }
  else
    let b := endBuf (p.buf0, p.buf1) i
    { p with buf0 := b.1, buf1 := b.2 }

/-- Whether an operation has started: its array phase has begun, or, of a drain, its finish.  One whose own exponent pass runs or stands in
the staging array has not (log 82). -/
def PressOp.started (o : PressOp) : Bool := o.phase != .queued

/-- A fault at execution (R85, R90): the group's operations that have not started are cancelled, the operation's buffers are
invalidated (one that another group still holds, while this operation waits, is not yet its), a spent credit returns; uncorrectable data in
a replayable kernel leads to its replay instead (R91). -/
def State.pressFault (s : State) (c : Nat) (o : PressOp) (reason : Nat) : State :=
  match (s.cluster c).kernel with
  | none => s
  | some kn =>
    if reason = 0x0B ∧ s.mayReplay kn then s.withdrawForReplay kn
    else
      let s := s.modPress c (fun p =>
        let bufs := (opBufs (p.buf0, p.buf1) o.desc).filter (fun i => (bufAt (p.buf0, p.buf1) i).owner.all (· == o.group))
        let back := o.phase == .finishing && Tile.finish o.desc == 1
        let p := bufs.foldl Press.dropBuf (p.cancel (p.ops.filter (fun x => x.ticket == o.ticket || (x.group == o.group && !x.started))))
        if back then
          { p with credits := p.credits + 1, nextSlot := o.slot, slots := modAt p.slots o.slot.toNat (fun _ => {}) }
        else p)
      (((s.ungather c ownArray).ungather c ownFinish).modCluster c Cluster.rewait).unitFault c o.group.toNat 2 reason o.ticket.toNat

/-! ### Own exponent passes (R80) -/

/-- OWN_EXPONENT_PASS_START: the first operation in the queue that needs one, with the staging array free (R80). -/
def stepOwnExponentPassStart (c : BitVec 7) (s : State) : State :=
  let u := s.cluster c.toNat
  let p := u.press
  if !u.resident || u.clock != .running || p.ops.any (fun o => o.exp == .running || o.exp == .staged) then s
  else match p.ops.find? (fun o => o.exp == .needed) with
    | none => s
    | some o => s.modPress c.toNat (fun p =>
        { p with ops := p.ops.map (fun x => if x.ticket = o.ticket then { x with exp := .running } else x) })
def execOwnExponentPassStart (c : BitVec 7) (s : State) : Host.Outcome State Fault Refusal :=
  .next (stepOwnExponentPassStart c s)

/-- The anchor values of an exponent pass over an operation's operands (R55, R68). -/
def expValues (ls : Tbl Byte) (d : BitVec 256) : Tbl (BitVec 16) :=
  (tileCells d).foldl (fun t (r, c) => tput 0 t (r * 128 + c) (expPass (tileProds ls d r c))) []

/-- OWN_EXPONENT_PASS_END: the values stand in the staging array (R80); the pass goes on only while its cluster has its site (R37). -/
def stepOwnExponentPassEnd (c : BitVec 7) (s : State) : State :=
  let u := s.cluster c.toNat
  if !u.resident then s
  else match u.press.ops.find? (fun o => o.exp == .running) with
  | none => s
  | some o =>
    if operandsBad u.lsBad o.desc then s.pressFault c.toNat o 0x0B
    else s.modPress c.toNat (fun p =>
      { p with staging := expValues u.ls o.desc,
               ops := p.ops.map (fun x => if x.ticket = o.ticket then { x with exp := .staged } else x) })
def execOwnExponentPassEnd (c : BitVec 7) (s : State) : Host.Outcome State Fault Refusal := .next (stepOwnExponentPassEnd c s)

/-! ### Array phases (R79-R82) -/

/-- Write the staged values into the anchor entries of an operation's elements, replacing or raising (R80, R483). -/
def Press.takeStaged (p : Press) (d : BitVec 256) : Press :=
  { p with staging := [], anchor := (tileCells d).foldl (fun t (r, c) =>
      let k := r * 128 + c
      let v := tget 0 p.staging k
      tput 0 t k (if Tile.start d = 1 then anchorMax (tget 0 t k) v else v)) p.anchor }

/-- ARRAY_PHASE_START (R80, R82): the next operation in queue order, once the array is free, its exponent pass has ended and every
earlier operation on its buffers has completed. -/
def stepArrayPhaseStart (c : BitVec 7) (s : State) : State :=
  let u := s.cluster c.toNat
  let p := u.press
  if !u.resident || u.clock != .running || p.ops.any (fun o => o.phase == .array) then s
  else match p.ops.find? (fun o => o.phase == .queued && Tile.op o.desc != 5) with
    | none => s
    | some o =>
      let earlier := p.ops.takeWhile (fun x => x.ticket != o.ticket)
      let mine := opBufs (p.buf0, p.buf1) o.desc
      if o.exp == .needed || o.exp == .running ||
         earlier.any (fun x => (opBufs (p.buf0, p.buf1) x.desc).any (fun b => decide (b ∈ mine))) then s
      else s.modPress c.toNat (fun p =>
        let p := if o.exp = .staged then p.takeStaged o.desc else p
        { p with ops := p.ops.map (fun x => if x.ticket = o.ticket then { x with phase := .array, exp := .unneeded } else x) })
def execArrayPhaseStart (c : BitVec 7) (s : State) : Host.Outcome State Fault Refusal := .next (stepArrayPhaseStart c s)

/-- What the end of an array phase finds: a fault, or the Press as it then stands. -/
abbrev PhaseRes := Except Nat Press

/-- Record i of tile t of an Aux read. -/
def auxRec (bs : List Byte) (n w t i : Nat) : Nat := leNat ((bs.drop ((t * n + i) * w)).take w)

/-- The starting value of an element (R50, R71, R483): zero, the retained one moved to its window, or the loaded record.  With Start 0b01 an
element outside the tile that the buffer was started with starts from what the accumulator store holds there: no rule bounds M and N by the
tile's (log 81). -/
def startEl (p : Press) (m : BufMode) (d : BitVec 256) (aux : List Byte) (r c : Nat) : Except Nat AccV :=
  let E := anchorE (tget 0 p.anchor (r * 128 + c))
  let i := r * Tile.cols d + c
  match Tile.start d with
  | 0 => .ok {}
  | 1 =>
    let a := p.el m (Tile.buf d) r c
    .ok (if m = .slice then moveWindow a (anchorE (tget 0 p.window (r * 128 + c))) E else a)
  | _ =>
    match m with
    | .fp32 => let v := auxRec aux 0 4 0 i; .ok { val := (v : Nat), org := (fp32.decode v).isNaN }
    | .exact => let a := exactOfRecord (auxRec aux 0 16 0 i); if a.fits m then .ok a.held else .error 0x0A
    | _ =>
      let (a, e) := sliceOfRecord (auxRec aux 0 32 0 i)
      if e = E then .ok a.held else .error 8

/-- One element of a product (R49, R52, R55, R89).  A loaded or retained value may leave too little room for the products: a sum that does not
fit its element is a carry overflow, since the Press never wraps (R73, log 80). -/
def productEl (p : Press) (m : BufMode) (ls : Tbl Byte) (d : BitVec 256) (aux : List Byte) (r c : Nat) : Except Nat AccV :=
  match startEl p m d aux r c with
  | .error e => .error e
  | .ok a =>
    let ps := tileProds ls d r c
    match m with
    | .exact =>
      let v := ps.foldl (fun a x => exactStep a x.1 x.2) a
      if v.fits m then .ok v else .error 0x0A
    | .fp32 => .ok (fp32Steps a ps)
    | _ =>
      let v := sliceSteps (Tile.fmtA d == 7) (Tile.anchorReg d) (tget 0 p.anchor (r * 128 + c)) a ps
      if v.overrun then .error 9 else if v.fits m then .ok v else .error 0x0A

/-- One element of a merge (R57, R58, R73, R88). -/
def mergeEl (p : Press) (m : BufMode) (d : BitVec 256) (aux : List Byte) (r c : Nat) : Except Nat AccV :=
  match startEl p m d aux r c with
  | .error e => .error e
  | .ok a =>
    let n := Tile.rows d * Tile.cols d
    let i := r * Tile.cols d + c
    let recs := (List.range (Tile.mCount d)).map (fun t => auxRec aux n (recWidth m) t i)
    match m with
    | .exact =>
      let v := recs.foldl (fun a x => mergeStep a (exactOfRecord x)) a
      if v.fits m then .ok v else .error 0x0A
    | .fp32 => .ok (fp32Merge (Tile.start d == 0) a recs)
    | _ =>
      let E := anchorE (tget 0 p.anchor (r * 128 + c))
      if recs.any (fun x => (sliceOfRecord x).2 != E) then .error 8
      else
        let v := recs.foldl (fun a x => mergeStep a (sliceOfRecord x).1) a
        if v.fits m then .ok v else .error 0x0A

/-- Write a tile of elements, in ascending row and column; the first fault ends it. -/
def fillEls (f : Nat → Nat → Except Nat AccV) (m : BufMode) (b : Nat) : List (Nat × Nat) → Press → Bool → Except Nat (Press × Bool)
  | [], p, clip => .ok (p, clip)
  | (r, c) :: cs, p, clip =>
    match f r c with
    | .error e => .error e
    | .ok a => fillEls f m b cs (p.setEl m b r c a) (clip || a.clip)

/-- The array phase of a product or merge (R49-R58, R71-R73, R88, R89). -/
def Press.runTile (p : Press) (ls : Tbl Byte) (g : BitVec 6) (d : BitVec 256) (aux : List Byte) : PhaseRes :=
  let m := tileMode d
  let f := if Tile.op d = 1 then productEl p m ls d aux else mergeEl p m d aux
  match fillEls f m (Tile.buf d) (tileCells d) p false with
  | .error e => .error e
  | .ok (q, clip) =>
    let b := startBuf (p.buf0, p.buf1) g d
    let x := bufAt b (Tile.buf d)
    let b := setBuf b (Tile.buf d) { x with clip := x.clip || clip }
    .ok { q with buf0 := b.1, buf1 := b.2,
                 window := if m = .slice then (tileCells d).foldl (fun t (r, c) =>
                   tput 0 t (r * 128 + c) (tget 0 p.anchor (r * 128 + c))) q.window else q.window }

/-- The array phase of an anchor load (R68). -/
def Press.runAnchorLoad (p : Press) (d : BitVec 256) (aux : List Byte) : Press :=
  let n := Tile.rows d * Tile.cols d
  { p with anchor := (tileCells d).foldl (fun t (r, c) =>
      let v := (List.range (Tile.mCount d)).foldl (fun a k =>
        anchorMax a (BitVec.ofNat 16 (auxRec aux n 2 k (r * Tile.cols d + c)))) 0
      let v := if anchorV v then v &&& 0x9FFF else 0
      let k := r * 128 + c
      tput 0 t k (if Tile.start d = 1 then anchorMax (tget 0 t k) v else v)) p.anchor }

/-- The array phase of a stand-alone exponent pass (R68, R80): into the anchor register, or kept for its finish. -/
def Press.runExpPass (p : Press) (ls : Tbl Byte) (o : PressOp) : Press :=
  let vals := (tileCells o.desc).foldl (fun t (r, c) =>
    let k := r * 128 + c
    let v := expPass (tileProds ls o.desc r c)
    tput 0 t k (if Tile.start o.desc = 1 then anchorMax (tget 0 p.anchor k) v else v)) ([] : Tbl (BitVec 16))
  if Tile.finish o.desc = 0 then
    { p with anchor := (tileCells o.desc).foldl (fun t (r, c) => tput 0 t (r * 128 + c) (tget 0 vals (r * 128 + c))) p.anchor }
  else { p with ops := p.ops.map (fun x => if x.ticket = o.ticket then { x with formed := vals } else x) }

/-- Bytes an operation reads from Aux in its array phase (R81). -/
def auxReadBytes (d : BitVec 256) : Nat :=
  let n := Tile.rows d * Tile.cols d
  if Tile.op d = 1 then (if Tile.start d = 2 then n * recWidth (tileMode d) else 0)
  else if Tile.op d = 3 then Tile.mCount d * n * recWidth (tileMode d)
  else if Tile.op d = 4 then Tile.mCount d * n * 2 else 0

/-- Read Aux (R78): the local store or the Quire. -/
def State.auxRead (s : State) (c : Nat) (k : Kernel) (d : BitVec 256) (n : Nat) : Virt (List Byte) :=
  let u := s.cluster c
  if n = 0 then .ok s []
  else if Tile.auxVirt d then s.virtRead c ownArray k (Tile.auxAddr d) n
  else if rangeBad u.lsBad (Tile.auxAddr d) n then .fault s true
  else .ok s (readBytes u.ls (Tile.auxAddr d) n)

/-- ARRAY_PHASE_END: products, merges, anchor values are in place; an operation with Finish 0b00 completes (R77, R79).  `bad` says that
the accumulator store or the anchor register fails its code check in this phase (R91, log 14). -/
def stepArrayPhaseEnd (c : BitVec 7) (bad : Bool) (s : State) : State :=
  let u := s.cluster c.toNat
  match u.kernel, u.press.ops.find? (fun o => o.phase == .array) with
  | some k, some o =>
    let d := o.desc
    if bad || ((Tile.op d = 1 || Tile.op d = 2) && operandsBad u.lsBad d) then s.pressFault c.toNat o 0x0B
    else match s.auxRead c.toNat k d (auxReadBytes d) with
      | .wait s => s
      | .fault s unc => s.pressFault c.toNat o (if unc then 0x0B else 0x0C)
      | .ok s aux =>
        let r : PhaseRes :=
          if Tile.op d = 2 then .ok (u.press.runExpPass u.ls o)
          else if Tile.op d = 4 then .ok (u.press.runAnchorLoad d aux)
          else u.press.runTile u.ls o.group d aux
        match r with
        | .error e => s.pressFault c.toNat o e
        | .ok p =>
          let s := s.modPress c.toNat (fun _ => { p with ops := p.ops.map (fun x =>
            if x.ticket = o.ticket then { x with phase := .arrayDone } else x) })
          if Tile.op d = 4 ∨ Tile.finish d = 0 then s.pressDone c.toNat o else s
  | _, _ => s
def execArrayPhaseEnd (c : BitVec 7) (bad : Bool) (s : State) : Host.Outcome State Fault Refusal :=
  .next (stepArrayPhaseEnd c bad s)

/-! ### Finishes (R83-R87) -/

/-- Whether an operation has a finish. -/
def hasFinish (d : BitVec 256) : Bool := Tile.op d != 4 && Tile.finish d != 0

/-- FINISH_START: one finish at a time, in queue order; into the queue it spends a credit (R83, R85). -/
def stepFinishStart (c : BitVec 7) (s : State) : State :=
  let u := s.cluster c.toNat
  let p := u.press
  if !u.resident || u.clock != .running || p.ops.any (fun o => o.phase == .finishing || o.phase == .writing) then s
  else match p.ops.find? (fun o => hasFinish o.desc) with
    | none => s
    | some o =>
      let earlier := p.ops.takeWhile (fun x => x.ticket != o.ticket)
      let mine := opBufs (p.buf0, p.buf1) o.desc
      let ready := if Tile.op o.desc = 5 then
          !(earlier.any (fun x => (opBufs (p.buf0, p.buf1) x.desc).any (fun b => decide (b ∈ mine))))
        else o.phase == .arrayDone
      if !ready then s
      else if Tile.finish o.desc = 1 then
        (if p.credits = 0 then s
         else s.modPress c.toNat (fun p =>
          { p with credits := p.credits - 1, nextSlot := p.nextSlot + 1,
                   slots := modAt p.slots p.nextSlot.toNat (fun x => { x with st := .filling }),
                   ops := p.ops.map (fun x => if x.ticket = o.ticket then { x with phase := .finishing, slot := p.nextSlot } else x) }))
      else s.modPress c.toNat (fun p =>
        { p with ops := p.ops.map (fun x => if x.ticket = o.ticket then { x with phase := .finishing } else x) })
def execFinishStart (c : BitVec 7) (s : State) : Host.Outcome State Fault Refusal := .next (stepFinishStart c s)

/-- The elements of a tile at the output, row-major, and their status (R51, R60-R62). -/
def Press.render (p : Press) (flag : Bool) (d : BitVec 256) : List Nat × OutStat :=
  let b := bufAt (p.buf0, p.buf1) (Tile.buf d)
  let r := (tileCells d).foldl (fun (acc : List Nat × OutStat) rc =>
    let e := (p.el b.mode (Tile.buf d) rc.1 rc.2).out b.mode (anchorE (tget 0 p.window (rc.1 * 128 + rc.2))) flag (Tile.fmtOut d)
    (e.bits :: acc.1, acc.2.note rc.1 rc.2 e)) ([], {})
  (r.1.reverse, if b.clip then { r.2 with bits := r.2.bits ||| stClip } else r.2)

/-- Tile status record (R61). -/
def tileStatus (o : OutStat) : BitVec 64 :=
  let f := match o.first with
    | some (r, c, k) => putb true 58 + put r 7 51 + put c 7 44 + put k 3 41
    | none => 0
  BitVec.ofNat 64 (f + put (min o.count 0xFFFF) 16 25 + put o.bits 5 0)

/-- Finished-tile entry header (R84). -/
def tileHeader (o : PressOp) : BitVec 64 :=
  BitVec.ofNat 64 (put (Tile.utag o.desc) 16 48 + put o.ticket.toNat 8 40 + put (Tile.fmtOut o.desc) 4 36 +
    put (Tile.rows o.desc - 1) 7 29 + put (Tile.cols o.desc - 1) 7 22 + put o.slot.toNat 2 20 + put (Tile.buf o.desc) 1 19)

/-- Write a finish to Aux (R77, R78, R83): at the local store it is performed at once; at the Quire it completes with its last answer. -/
def State.auxWrite (s : State) (c : Nat) (k : Kernel) (o : PressOp) (bs : List Byte) : Virt Unit :=
  let u := s.cluster c
  let a := Tile.auxAddr o.desc
  if Tile.auxVirt o.desc then s.virtWrite c ownFinish k a bs (.press o.ticket)
  else if writeBadly u.lsBad a bs.length then .fault s true
  else .ok (s.modCluster c (fun u => u.lsWrite a bs)) ()

/-- FINISH_END: the tile is visible in its slot, or written to Aux; the status enters the numerics state (R61-R64, R77, R83-R86).  A finish goes
on only while its cluster has its site (R37). -/
def stepFinishEnd (c : BitVec 7) (bad : Bool) (s : State) : State :=
  let u := s.cluster c.toNat
  match u.kernel, u.press.ops.find? (fun o => o.phase == .finishing) with
  | some k, some o =>
    let d := o.desc
    if !u.resident then s
    else if bad then s.pressFault c.toNat o 0x0B
    else
      let p := u.press
      let (els, st) := if Tile.op d = 2 then ((tileCells d).map (fun (r, c) => (tget 0 o.formed (r * 128 + c)).toNat), ({} : OutStat))
        else p.render (!bit (s.ctx k.ctx.toNat).num 8) d
      let w := if Tile.op d = 2 then 2 else widthOf (Tile.fmtOut d)
      let bs := els.flatMap (leBytes w)
      let status := tileStatus st
      let note := fun (s : State) => if Tile.op d = 2 then s else s.numerics c.toNat k false status (Tile.utag d)
      if Tile.finish d = 1 then
        let s := s.modPress c.toNat (fun p =>
          { p with order := p.order ++ [o.slot],
                   slots := modAt p.slots o.slot.toNat (fun _ =>
                     { st := .visible, hdr := tileHeader o, status := status, bytes := writeBytes [] 0 bs }) })
        (note s).pressDone c.toNat o
      else match s.auxWrite c.toNat k o bs with
        | .wait s => s
        | .fault s unc => s.pressFault c.toNat o (if unc then 0x0B else 0x0C)
        | .ok s _ =>
          let s := note s
          if s.sh.reqs.any (fun r => r.msg.src.toNat == c.toNat && r.why == .press o.ticket) then
            s.modPress c.toNat (fun p => { p with ops := p.ops.map (fun x =>
              if x.ticket = o.ticket then { x with phase := .writing } else x) })
          else s.pressDone c.toNat o
  | _, _ => s
def execFinishEnd (c : BitVec 7) (bad : Bool) (s : State) : Host.Outcome State Fault Refusal := .next (stepFinishEnd c bad s)

/-- PRESS_CREDIT_RETURN: a released slot's credit reaches the Press (R85). -/
def stepPressCreditReturn (c : BitVec 7) (s : State) : State :=
  if (s.cluster c.toNat).press.creditsComing = 0 then s
  else s.modPress c.toNat (fun p => { p with creditsComing := p.creditsComing - 1, credits := p.credits + 1 })
def execPressCreditReturn (c : BitVec 7) (s : State) : Host.Outcome State Fault Refusal := .next (stepPressCreditReturn c s)

end Sys2Proof.Machine
end

