-- ==== Sys2Proof/Machine/Trans.lean ====
section
/-!
DEFINITION. The transcendental functions of R111.  rcp and rsqrt are correctly rounded.  exp2, log2 and tanh have error bounds only:
the model brackets the true value between two neighbouring FP32 values in wide fixed-point arithmetic and takes one of the values
within the bound, which one being an opaque function of the input bits (log 10).
-/

namespace Sys2Proof.Machine

/-- The greatest FP32 value at most m times 2 to the e, for a positive magnitude, as bits (truncation). -/
def floor32 (m : Nat) (e : Int) : Nat :=
  if m = 0 then 0 else
  let top : Int := e + (m.log2 : Int)
  let q : Int := max (top - 23) (-149)
  let mant := if q ≤ e then m <<< (e - q).toNat else m >>> (q - e).toNat
  fp32.pack false { mant := mant, q := q, overflow := false, inexact := false, tiny := false }

/-- Fixed-point fraction bits of the evaluations. -/
def tp : Nat := 512

/-- The fixed-point value of 2 to the f, f below 1 given by its fraction bits, most significant first: the product of the repeated
square roots of 2 whose bits are set. -/
def exp2Frac : List Bool → Nat → Nat → Nat
  | [], _, acc => acc
  | b :: bs, r, acc =>
    let r' := FVal.isqrt (r <<< tp)
    exp2Frac bs r' (if b then (acc * r') >>> tp else acc)

/-- The binary digits of x / 2^n below the point, most significant first. -/
def fracBits (n x : Nat) : List Bool := (List.range n).map (fun i => x.testBit (n - 1 - i))

/-- exp2 of a finite FP32 value: the FP32 value just below the true one, and whether it is exact. -/
def exp2Down (v : FVal) : Nat × Bool :=
  match v with
  | .fin n m e =>
    if m = 0 then (0x3F800000, true) else
    let i : Int := let k : Int := if n then -(m : Int) else m
      if 0 ≤ e then k * (2 ^ e.toNat : Nat) else k / ((2 ^ (-e).toNat : Nat) : Int)
    let d : Nat := (-e).toNat
    let fr : Nat := if 0 ≤ e then 0 else
      ((if n then -(m : Int) else (m : Int)) % ((2 ^ d : Nat) : Int)).toNat
    if fr = 0 then (floor32 1 i, decide (-149 ≤ i))
    else (floor32 (exp2Frac (fracBits d fr) (2 <<< tp) (1 <<< tp)) (i - (tp : Int)), false)
  | _ => (0, true)

/-- exp2 (R111): FP32 bits to FP32 bits. -/
def exp2Bits (b : Nat) : Nat :=
  match fp32.decode b with
  | .nan => 0x7FC00000
  | .inf n => if n then 0 else 0x7F800000
  | .fin n m e =>
    if !n && (FVal.fin n m e).lt (.fin false 1 7) == false then 0x7F800000
    else
      let r := exp2Down (.fin n m e)
      if r.2 then r.1 else r.1 + Config.exp2Choice (BitVec.ofNat 32 b) % 2

/-- Fraction bits of log2 of a fixed-point number in [1, 2), by repeated squaring. -/
def log2Frac : Nat → Nat → Nat → Nat
  | 0, _, acc => acc
  | k + 1, x, acc =>
    let y := (x * x) >>> tp
    if 2 <<< tp ≤ y then log2Frac k (y >>> 1) (2 * acc + 1) else log2Frac k y (2 * acc)

/-- log2 (R111). -/
def log2Bits (b : Nat) : Nat :=
  match fp32.decode b with
  | .nan => 0x7FC00000
  | .inf n => if n then 0x7FC00000 else 0x7F800000
  | .fin n m e =>
    if m = 0 then 0xFF800000
    else if n then 0x7FC00000
    else
      let k := m.log2
      let ex : Int := e + (k : Int)
      if m = 2 ^ k then fp32.enc (FVal.ofInt ex)
      else
        let fr := log2Frac 160 ((m <<< tp) >>> k) 0
        let v : Int := ex * ((2 ^ 160 : Nat) : Int) + (fr : Int)
        let c := Config.log2Choice (BitVec.ofNat 32 b) % 2
        -- a positive value lies between its truncation and the next; a negative one between its truncation away from zero and zero
        if 0 ≤ v then floor32 v.toNat (-160) + c
        else 2 ^ 31 + floor32 (-v - 1).toNat (-160) + c

/-- Terms of the exponential series, from term k on: acc + t + t x/(k+1) + ... -/
def expSeries (x : Nat) : Nat → Nat → Nat → Nat → Nat
  | 0, _, _, acc => acc
  | n + 1, k, t, acc => expSeries x n (k + 1) (((t * x) >>> tp) / (k + 1)) (acc + t)

/-- e to the x for a fixed-point x of at most 32: the series at x / 2^8, squared eight times. -/
def expFix (x : Nat) : Nat :=
  (List.range 8).foldl (fun v _ => (v * v) >>> tp) (expSeries (x >>> 8) 120 0 (1 <<< tp) 0)

/-- Whether the positive FP32 value of bits `r` lies within two units of its own last place of a fixed-point value (R111). -/
def nearBits (t r : Nat) : Bool :=
  let sh := tp + max (r / 2 ^ 23) 1 - 150
  let v := (if r < 2 ^ 23 then r else r % 2 ^ 23 + 2 ^ 23) <<< sh
  decide (max v t - min v t ≤ 2 <<< sh)

/-- tanh (R111): odd, within 2 units in the last place. -/
def tanhBits (b : Nat) : Nat :=
  match fp32.decode b with
  | .nan => 0x7FC00000
  | .inf n => if n then 0xBF800000 else 0x3F800000
  | .fin n m e =>
    let s := if n then 2 ^ 31 else 0
    if m = 0 then s
    else
      let a : Nat := if (FVal.fin false m e).lt (.fin false 1 4) then
          (if 0 ≤ e + (tp : Int) then m <<< (e + (tp : Int)).toNat else 0)
        else 16 <<< tp
      let y := expFix (2 * a)
      let t := ((y - (1 <<< tp)) <<< tp) / (y + (1 <<< tp))
      let down := floor32 t (-(tp : Int))
      let near := ([down - 1, down, down + 1, down + 2].eraseDups).filter (nearBits t)
      s + near.getD (Config.tanhChoice (BitVec.ofNat 32 (b % 2 ^ 31)) % near.length) down

/-- rcp: correctly rounded 1/a (R111). -/
def rcpBits (b : Nat) : Nat :=
  match fp32.decode b with
  | .fin n 0 _ => 0x7F800000 + (if n then 2 ^ 31 else 0)
  | v => fp32.enc ((FVal.fin false 1 0).div v)

/-- rsqrt: correctly rounded 1 over the square root (R111).  The root is taken of a 512-bit quotient, so that the sticky bit decides
every rounding. -/
def rsqrtBits (b : Nat) : Nat :=
  match fp32.decode b with
  | .nan => 0x7FC00000
  | .inf n => if n then 0x7FC00000 else 0
  | .fin n m e =>
    if m = 0 then 0x7F800000 + (if n then 2 ^ 31 else 0)
    else if n then 0x7FC00000
    else
      -- 1 / (m 2^e) = (2^k / m) 2^(-e - k), with e + k even
      let k : Nat := 256 + (if e % 2 = 0 then 0 else 1)
      let x := (2 ^ k) / m
      let r := FVal.isqrt x
      let exact := decide (r * r = x ∧ 2 ^ k % m = 0)
      fp32.enc (.fin false (2 * r + (if exact then 0 else 1)) ((-e - (k : Int)) / 2 - 1))

end Sys2Proof.Machine
end

