-- ==== Sys2Proof/Machine/StreamMath.lean ====
section
/-!
DEFINITION. Arithmetic of the Stream Engine: stream descriptor fields (R95-R97), the checks of descriptors and Sprigs (R98, R103-R107),
one element of a Sprig (R108, R110, R111), the sums of R118, and the side reducer (R119-R122).
-/

namespace Sys2Proof.Machine

/-! ### Stream descriptor (R95-R97) -/

namespace Strm
def utag (d : BitVec 512) : Nat := fld d 511 496
def tokEn (d : BitVec 512) : Bool := bit d 495
def tokNum (d : BitVec 512) : Nat := fld d 494 489
def twoPass (d : BitVec 512) : Bool := bit d 488
def sprig1 (d : BitVec 512) : Nat := fld d 487 466
def sprig2 (d : BitVec 512) : Nat := fld d 465 444
def reset0 (d : BitVec 512) : Bool := bit d 443
def reset1 (d : BitVec 512) : Bool := bit d 442
def publish (d : BitVec 512) : Bool := bit d 441
def rowOut (d : BitVec 512) : Nat := fld d 439 418
def rows (d : BitVec 512) : Nat := fld d 417 402 + 1
def rowLen (d : BitVec 512) : Nat := fld d 401 386 + 1
def elems (d : BitVec 512) : Nat := rows d * rowLen d
/-- Input field i (R96). -/
def inp (d : BitVec 512) (i : Nat) : BitVec 45 := BitVec.ofNat 45 (fld d (385 - 45 * i) (341 - 45 * i))
/-- Output field j (R97). -/
def out (d : BitVec 512) (j : Nat) : BitVec 70 := BitVec.ofNat 70 (fld d (250 - 70 * j) (181 - 70 * j))
def rOp (d : BitVec 512) : Nat := fld d 110 109
def rFmt (d : BitVec 512) : Nat := fld d 108 105
def rKind (d : BitVec 512) : Nat := fld d 104 103
def segLen (d : BitVec 512) : Nat := fld d 102 71 + 1
def rAddr (d : BitVec 512) : Nat := fld d 70 23
end Strm

namespace SIn
def kind (f : BitVec 45) : Nat := fld f 44 43
def fmt (f : BitVec 45) : Nat := fld f 42 39
def rowVec (f : BitVec 45) : Bool := bit f 38
def addr (f : BitVec 45) : Nat := fld f 37 16
/-- Bytes from one row's start to the next, packed where the field is 0. -/
def pitch (f : BitVec 45) (rowLen : Nat) : Nat :=
  if fld f 15 0 ≠ 0 then fld f 15 0 else if rowVec f then widthOf (fmt f) else rowLen * widthOf (fmt f)
end SIn

namespace SOut
def kind (f : BitVec 70) : Nat := fld f 69 68
def fmt (f : BitVec 70) : Nat := fld f 67 64
def addr (f : BitVec 70) : Nat := fld f 63 16
def pitch (f : BitVec 70) (rowLen : Nat) : Nat := if fld f 15 0 ≠ 0 then fld f 15 0 else rowLen * widthOf (fmt f)
end SOut

/-- Bytes of the operand cache. -/
def ocBytes : Nat := 262144

/-! ### Sprig instruction fields (R104) -/

namespace SI
def op (w : BitVec 32) : Nat := fld w 31 26
def wide (w : BitVec 32) : Bool := bit w 25
def dst (w : BitVec 32) : Nat := fld w 24 20
def a (w : BitVec 32) : Nat := fld w 19 15
def b (w : BitVec 32) : Nat := fld w 14 10
def c (w : BitVec 32) : Nat := fld w 9 5
def tap (w : BitVec 32) : Nat := fld w 4 2
end SI

/-- Operands an operation reads; none for an unlisted Op (R106). -/
def sprigArity (op : Nat) : Option Nat :=
  if op = 4 ∨ op = 5 ∨ op = 0x0B then some 3
  else if 1 ≤ op ∧ op ≤ 0x0A then some 2
  else if op = 0x0C ∨ op = 0x0D ∨ op = 0x10 ∨ (0x20 ≤ op ∧ op ≤ 0x24) then some 1
  else none

/-- Selects of the operands that an instruction reads (R105). -/
def sprigReads (w : BitVec 32) : List Nat := [SI.a w, SI.b w, SI.c w].take ((sprigArity (SI.op w)).getD 0)

/-- Format codes a stream may write, and cvt may name (R98). -/
def streamFmt (f : Nat) : Bool := decide (1 ≤ f ∧ f ≤ 8)

/-- Whether one instruction word is invalid by itself, given the temporaries written before it (R104-R107). -/
def sprigInsnBad (written : List Nat) (w : BitVec 32) : Bool :=
  match sprigArity (SI.op w) with
  | none => true
  | some n =>
    let unread := if SI.op w = 0x10 then [SI.c w] else [SI.b w, SI.c w].drop (n - 1)
    fld w 1 0 != 0 || (decide (0x20 ≤ SI.op w) && SI.wide w) || decide (3 < SI.tap w) || decide (0x11 < SI.dst w) ||
    (SI.op w == 0x10 && (decide (16 ≤ SI.b w) || !streamFmt (SI.b w))) ||
    unread.any (· != 0) || (sprigReads w).any (fun r => r == 0x17 || (decide (r < 16) && !written.contains r))

/-- Whether a Sprig's words are invalid by themselves. -/
def sprigWordsBad : List Nat → List (BitVec 32) → Bool
  | _, [] => false
  | written, w :: ws => sprigInsnBad written w || sprigWordsBad (SI.dst w :: written) ws

/-- Reads of a select, writes of a destination and taps of a kind over a Sprig. -/
def Sprig.readsSel (p : Sprig) (r : Nat) : Bool := p.ins.any (fun w => (sprigReads w).contains r)
def Sprig.writes (p : Sprig) (d : Nat) : Nat := p.ins.countP (fun w => SI.dst w == d)
def Sprig.taps (p : Sprig) (t : Nat) : Nat := p.ins.countP (fun w => SI.tap w == t)

/-! ### Side-reducer configuration (R119) -/

def sideKind (cfg : BitVec 16) (ch : Nat) : Nat := if ch = 0 then fld cfg 7 4 else fld cfg 15 12
def sideFmt (cfg : BitVec 16) (ch : Nat) : FloatFmt := if (if ch = 0 then bit cfg 3 else bit cfg 11) then fp64 else fp32

/-- Whether a configuration word is one that the table lists. -/
def sideCfgOk (cfg : BitVec 16) : Bool :=
  fld cfg 10 8 == 0 && fld cfg 2 0 == 0 && decide (sideKind cfg 0 ≤ 3) && decide (sideKind cfg 1 ≤ 4) &&
  (sideKind cfg 1 != 4 || (sideKind cfg 0 == 2 && !bit cfg 3 && !bit cfg 11))

/-- The rules of R107 and R98 that tie a Sprig to its stream; of a Sprig that is not there whole, those that its present words break. -/
def sprigRulesBad (d : BitVec 512) (cfg : BitVec 16) (last : Bool) (p : Sprig) (whole : Bool := true) : Bool :=
  let rowOps := p.readsSel 0x13 || p.readsSel 0x14 || p.readsSel 0x15
  (List.range 3).any (fun i => p.readsSel (0x10 + i) && SIn.kind (Strm.inp d i) == 0) ||
  (List.range 2).any (fun j =>
    let n := p.writes (0x10 + j)
    let used := SOut.kind (Strm.out d j) != 0
    (n != 0 && (!used || !last)) || (last && used && (decide (1 < n) || (whole && n == 0)))) ||
  (if last && Strm.rOp d != 0 then decide (1 < p.taps 1) || (whole && p.taps 1 == 0) else p.taps 1 != 0) ||
  (List.range 2).any (fun ch => decide (1 < p.taps (2 + ch)) || (p.taps (2 + ch) != 0 && sideKind cfg ch == 0)) ||
  (p.readsSel 0x13 && sideKind cfg 0 == 0) || (p.readsSel 0x14 && sideKind cfg 1 == 0) ||
  (p.readsSel 0x15 && !(sideKind cfg 0 == 2 && sideKind cfg 1 == 4)) ||
  ((rowOps || p.taps 2 != 0 || p.taps 3 != 0) && decide (128 < Strm.rows d))

/-- The constants and the first `m` instruction words of a Sprig record (R103). -/
def sprigWords (ls : Tbl Byte) (off m : Nat) : Sprig :=
  { ks := (List.range 8).map (fun i => BitVec.ofNat 64 (readLe ls (off + 8 + 8 * i) 8)),
    ins := (List.range m).map (fun i => BitVec.ofNat 32 (readLe ls (off + 72 + 4 * i) 4)) }

/-- What lies within the local store of a Sprig record that goes past it, if that reads. -/
def sprigPart (ls : Tbl Byte) (bad : List Nat) (size off : Nat) : Option Sprig :=
  let n := readLe ls off 8 % 64 + 1
  let m := (size - off - 72) / 4
  if off % 64 = 0 ∧ off + 72 ≤ size ∧ m < n ∧ rangeBad bad off (72 + 4 * m) = false then some (sprigWords ls off m) else none

/-- Read a Sprig record at issue: the fault reason, uncorrectable data as none, or the record (R95, R103).  Of a record that goes past the
local store what lies within it is checked, the lowest reason first (R107, R162). -/
def readSprig (ls : Tbl Byte) (bad : List Nat) (size off : Nat) : Except (Option Nat) Sprig :=
  if off % 64 ≠ 0 then .error (some 0x10)
  else if size < off + 8 then .error (some 0x11)
  else if rangeBad bad off 8 then .error none
  else
    let cw := readLe ls off 8
    let n := cw % 64 + 1
    let m := min n ((size - off - 72) / 4)
    if cw / 64 ≠ 0 then .error (some 0x10)
    else if size < off + 72 then .error (some 0x11)
    else if rangeBad bad off (72 + 4 * m) then .error none
    else
      let p := sprigWords ls off m
      if sprigWordsBad [] p.ins then .error (some 0x10) else if m < n then .error (some 0x11) else .ok p

/-- A check that gives a reason where it fails. -/
def reasonIf (p : Bool) (r : Nat) : List Nat := if p then [r] else []

/-- Whether a range lies outside the local store or the operand cache. -/
def rangeOut (size kind addr n : Nat) : Bool := decide ((if kind = 1 then size else ocBytes) < addr + n)

/-- Faults of one input field (R96, R98). -/
def inputFaults (size : Nat) (d : BitVec 512) (f : BitVec 45) : List Nat :=
  let w := widthOf (SIn.fmt f)
  let r := Strm.rows d
  if SIn.kind f = 0 then []
  else if !(streamFmt (SIn.fmt f)) || (SIn.fmt f == 8 && SIn.kind f != 3) then [0x10]
  else if SIn.kind f = 3 then reasonIf (SIn.rowVec f) 0x10
  else if SIn.addr f % w ≠ 0 ∨ (SIn.rowVec f ∧ 128 < r) then [0x10]
  else reasonIf (rangeOut size (SIn.kind f) (SIn.addr f)
    ((r - 1) * SIn.pitch f (Strm.rowLen d) + (if SIn.rowVec f then w else Strm.rowLen d * w))) 0x11

/-- Faults of one output field (R97, R98). -/
def outputFaults (size : Nat) (d : BitVec 512) (f : BitVec 70) : List Nat :=
  let w := widthOf (SOut.fmt f)
  let k := SOut.kind f
  if k = 0 then []
  else if !(streamFmt (SOut.fmt f)) || SOut.addr f % w != 0 || (k == 1 && decide (2 ^ 22 ≤ SOut.addr f)) ||
      (k == 2 && decide (2 ^ 18 ≤ SOut.addr f)) then [0x10]
  else if k = 3 then []
  else reasonIf (rangeOut size k (SOut.addr f) ((Strm.rows d - 1) * SOut.pitch f (Strm.rowLen d) + Strm.rowLen d * w)) 0x11

/-- Segments of a stream (R117). -/
def Strm.segs (d : BitVec 512) : Nat := (Strm.elems d + Strm.segLen d - 1) / Strm.segLen d

/-- Faults of a descriptor's own fields (R98). -/
def streamFaults (size : Nat) (d : BitVec 512) : List Nat :=
  let ins := (List.range 3).map (Strm.inp d)
  let w := widthOf (Strm.rFmt d)
  reasonIf (decide (2 ^ 32 ≤ Strm.elems d)) 0x10 ++ reasonIf (decide (1 < ins.countP (fun f => SIn.kind f == 3))) 0x10 ++
  ins.flatMap (inputFaults size d) ++ ((List.range 2).map (Strm.out d)).flatMap (outputFaults size d) ++
  (if Strm.rOp d = 0 then reasonIf (Strm.rKind d != 0) 0x10
   else if !streamFmt (Strm.rFmt d) then [0x10]
   else if Strm.rKind d = 0 then []
   else if Strm.rAddr d % w ≠ 0 then [0x10]
   else if Strm.rKind d = 3 then []
   else reasonIf (rangeOut size (Strm.rKind d) (Strm.rAddr d) (Strm.segs d * w)) 0x11) ++
  (if Strm.publish d then
    (if Strm.rowOut d % 32 ≠ 0 ∨ 128 < Strm.rows d then [0x10]
     else reasonIf (decide (size < Strm.rowOut d + Strm.rows d * 32)) 0x11)
   else [])

/-! ### One element (R108) -/

/-- Precision of an instruction. -/
def sprigFmt (w : BitVec 32) : FloatFmt := if SI.wide w then fp64 else fp32

/-- A value rounded to a precision by the operand rule of R65. -/
def holdIn (f : FloatFmt) (v : FVal) : FVal := f.decode (f.enc v)

/-- What the instructions of one element work on: input values, row operands, constants. -/
structure SprigEnv where
  ins : List FVal
  rows : List FVal
  ks : List FVal
deriving DecidableEq, Repr

/-- What they have made: temporaries, outputs, taps with their precision, whether a NaN operand was read, status bits of cvt. -/
structure SprigRun where
  tmp : List FVal := List.replicate 16 (.fin false 0 0)
  outs : List (Nat × FVal) := []
  taps : List (Nat × FVal × Bool) := []
  nan : Bool := false
  status : Nat := 0
deriving DecidableEq, Repr

/-- The value an operand select names (R105). -/
def SprigEnv.operand (e : SprigEnv) (t : List FVal) (r : Nat) : FVal :=
  let z : FVal := .fin false 0 0
  if r < 16 then t.getD r z
  else if r ≤ 0x12 then e.ins.getD (r - 0x10) z
  else if r ≤ 0x15 then e.rows.getD (r - 0x13) z
  else if r < 0x18 then z
  else e.ks.getD (r - 0x18) z

/-- The result of an operation on operands of its precision, and the status bits that cvt sets (R106, R108, R111).  cvt to any float format,
wider ones too, gives the value and the status bits of R60 for the class, and no Kind, since it is no output (log 84). -/
def sprigResult (flag : Bool) (w : BitVec 32) (a b c : FVal) : FVal × Nat :=
  let f := sprigFmt w
  let one : FVal := .fin false 1 0
  let zero : FVal := .fin false 0 0
  let tr := fun (g : Nat → Nat) => (fp32.decode (g (fp32.enc a)), 0)
  match SI.op w with
  | 0x01 => (holdIn f (a.add b), 0)
  | 0x02 => (holdIn f (a.add b.neg), 0)
  | 0x03 => (holdIn f (a.mul b), 0)
  | 0x04 => (holdIn f ((a.mul b).add c), 0)
  | 0x05 => (holdIn f ((a.mul b).add c.neg), 0)
  | 0x06 => (a.minOf b, 0)
  | 0x07 => (a.maxOf b, 0)
  | 0x08 => (if a.lt b then one else zero, 0)
  | 0x09 => (if a.lt b || a.eq b then one else zero, 0)
  | 0x0A => (if a.eq b then one else zero, 0)
  | 0x0B => (if a.isNaN || a.isZero then c else b, 0)
  | 0x0C => (a, 0)
  | 0x0D => (a.neg, 0)
  | 0x10 => let r := outElem flag (SI.b w % 16) false a; (holdIn f (valOf (SI.b w % 16) r.bits), r.status)
  | 0x20 => tr exp2Bits
  | 0x21 => tr log2Bits
  | 0x22 => tr rcpBits
  | 0x23 => tr rsqrtBits
  | _ => tr tanhBits

/-- Run one instruction for an element. -/
def SprigRun.insn (flag : Bool) (e : SprigEnv) (r : SprigRun) (w : BitVec 32) : SprigRun :=
  let sels := sprigReads w
  let f := sprigFmt w
  let at_ := fun i => holdIn f (e.operand r.tmp (sels.getD i 0x16))
  let (v, st) := sprigResult flag w (at_ 0) (at_ 1) (at_ 2)
  { tmp := if SI.dst w < 16 then r.tmp.set (SI.dst w) v else r.tmp,
    outs := if 16 ≤ SI.dst w then r.outs ++ [(SI.dst w - 16, v)] else r.outs,
    taps := if SI.tap w = 0 then r.taps else r.taps ++ [(SI.tap w, v, SI.wide w)],
    nan := r.nan || sels.any (fun s => decide (16 ≤ s) && (e.operand r.tmp s).isNaN), status := r.status ||| st }

/-- Run a Sprig for one element. -/
def Sprig.run (p : Sprig) (flag : Bool) (ins rows : List FVal) : SprigRun :=
  p.ins.foldl (SprigRun.insn flag { ins := ins, rows := rows, ks := p.ks.map (fun k => fp64.decode k.toNat) }) {}

/-! ### The side reducer (R120-R122) -/

/-- Bits of the value to which a reset sets a channel's rows (R120). -/
def sideReset (cfg : BitVec 16) (ch : Nat) : Nat :=
  let f := sideFmt cfg ch
  if sideKind cfg ch = 2 then f.infBits true else if sideKind cfg ch = 3 then f.infBits false else 0

/-- Committed and pending values of both channels, and the row factors. -/
structure Side where
  v0 : Tbl Word
  v1 : Tbl Word
  rowf : Tbl (BitVec 32)
deriving DecidableEq, Repr

/-- A table with one value for each of the 128 rows. -/
def allRows {α : Type} [DecidableEq α] (d x : α) : Tbl α := if x = d then [] else (List.range 128).map (fun r => (r, x))

/-- Reset a channel (R120); every row factor becomes 1.0. -/
def StreamEngine.resetSide (e : StreamEngine) (cfg : BitVec 16) (ch : Nat) : StreamEngine :=
  let t := allRows 0 (BitVec.ofNat 64 (sideReset cfg ch))
  let e := { e with rowf := allRows 0 0x3F800000#32 }
  if ch = 0 then { e with side0 := t, pend0 := t } else { e with side1 := t, pend1 := t }

/-- The state of a Stream Engine at a kernel's start (R116, R120). -/
def StreamEngine.kernelStart (e : StreamEngine) (cfg : BitVec 16) : StreamEngine :=
  ({ nextTicket := e.nextTicket : StreamEngine }.resetSide cfg 0).resetSide cfg 1

/-- Fold a row's taps into a channel's Value (R118, R120).  A tap whose magnitude overflows the channel's precision becomes an infinity with no
status, in both classes, as an operand does (R65, R108, log 84). -/
def sideCommit (cfg : BitVec 16) (ch : Nat) (v : Word) (taps : List FVal) : Word :=
  let f := sideFmt cfg ch
  let ext := fun (pick : FVal → FVal → FVal) =>
    BitVec.ofNat 64 (f.enc (pick (f.decode v.toNat)
      (taps.foldl (fun a t => pick a (holdIn f t)) (f.decode (sideReset cfg ch)))))
  if sideKind cfg ch = 2 then ext FVal.maxOf
  else if sideKind cfg ch = 3 then ext FVal.minOf
  else BitVec.ofNat 64 (fpAdd f v.toNat (orderedSum f (taps.map f.enc)))

/-- The row factor of a change of channel 0's Value (R121). -/
def rowFactor (m m' : Word) : BitVec 32 :=
  if m = m' then 0x3F800000
  else BitVec.ofNat 32 (exp2Bits (fp32.enc ((fp32.decode m.toNat).add (fp32.decode m'.toNat).neg)))

/-- A row commits in a pass on the channels that the pass taps (R120, R121). -/
def Side.commit (s : Side) (cfg : BitVec 16) (r : Nat) (tap0 tap1 : Option (List FVal)) : Side :=
  let s := match tap0 with
    | none => s
    | some ts =>
      let m := tget 0 s.v0 r
      let m' := sideCommit cfg 0 m ts
      let s := { s with v0 := tput 0 s.v0 r m' }
      if sideKind cfg 1 = 4 then
        let f := rowFactor m m'
        let v := tget 0 s.v1 r
        { s with rowf := tput 0 s.rowf r f,
                 v1 := if m = m' then s.v1
                   else tput 0 s.v1 r (BitVec.ofNat 64 (fp32.enc ((fp32.decode v.toNat).mul (fp32.decode f.toNat)))) }
      else s
  match tap1 with
  | none => s
  | some ts => { s with v1 := tput 0 s.v1 r (sideCommit cfg 1 (tget 0 s.v1 r) ts) }

/-- The row operands row0, row1 and rowf of a row (R122). -/
def Side.rowOps (s : Side) (cfg : BitVec 16) (r : Nat) : List FVal :=
  [(sideFmt cfg 0).decode (tget 0 s.v0 r).toNat, (sideFmt cfg 1).decode (tget 0 s.v1 r).toNat,
   fp32.decode (tget 0 s.rowf r).toNat]

/-! ### Passes -/

/-- One element of a pass. -/
structure ElemRes where
  outs : List (Nat × FVal) := []
  tree : Option (FVal × Bool) := none
  nan : Bool := false
  status : Nat := 0
deriving DecidableEq, Repr

/-- Taps of a kind in a row's runs. -/
def tapsOf (p : Sprig) (t : Nat) (runs : List SprigRun) : Option (List FVal) :=
  if p.taps t = 0 then none
  else some (runs.filterMap (fun r => (r.taps.find? (fun x => x.1 == t)).map (fun x => x.2.1)))

/-- Run rows `r`, `r + 1`, ... of a pass (fuel: rows left) until `lim` elements have run; the row operands are those at the start of the
pass. -/
def runRows (flag : Bool) (cfg : BitVec 16) (p : Sprig) (rowLen lim : Nat) (frozen : Side) (inp : Nat → Nat → List FVal) :
    Nat → Nat → Side → List ElemRes → Side × List ElemRes
  | 0, _, s, acc => (s, acc)
  | k + 1, r, s, acc =>
    let n := min rowLen (lim - r * rowLen)
    if n = 0 then (s, acc) else
    let rows := frozen.rowOps cfg r
    let runs := (List.range n).map (fun c => p.run flag (inp r c) rows)
    let s := if n = rowLen then s.commit cfg r (tapsOf p 2 runs) (tapsOf p 3 runs) else s
    let es : List ElemRes := runs.map (fun u =>
      { outs := u.outs, tree := (u.taps.find? (fun x => x.1 == 1)).map (fun x => x.2), nan := u.nan, status := u.status })
    runRows flag cfg p rowLen lim frozen inp k (r + 1) s (acc ++ es)

/-- The reduction of one segment, in the precision of the tap (R117, R118). -/
def segReduce (rop : Nat) (wide : Bool) (vs : List FVal) : FVal :=
  let f := if wide then fp64 else fp32
  match vs with
  | [] => .fin false 0 0
  | v :: t => if rop = 1 then f.decode (orderedSum f (vs.map f.enc)) else if rop = 2 then t.foldl FVal.maxOf v
    else t.foldl FVal.minOf v

/-- A write of a stream: batch of the last pass, destination kind, address, bytes. -/
structure StreamWrite where
  batch : Nat
  kind : Nat
  addr : Nat
  bytes : List Byte
deriving DecidableEq, Repr

/-- Join writes of a batch that follow one another without a gap within a block of 128 bytes. -/
def joinWrites : List StreamWrite → List StreamWrite
  | [] => []
  | w :: ws => match joinWrites ws with
    | [] => [w]
    | v :: vs => if w.batch = v.batch ∧ w.kind = v.kind ∧ w.addr + w.bytes.length = v.addr ∧ v.addr % 128 ≠ 0
        then { w with bytes := w.bytes ++ v.bytes } :: vs else w :: v :: vs

/-- Writes in the order of their batches, and within a batch in the order given: out0, out1, reduction results. -/
def byBatch (n : Nat) (ws : List StreamWrite) : List StreamWrite :=
  (List.range n).flatMap (fun k => joinWrites (ws.filter (fun w => w.batch == k)))

/-- Results of one stream with the index at which each stands, in the order in which R110 ranks them. -/
abbrev Placed := List (Nat × OutRes)

/-- Stream status record (R110). -/
def streamStatus (rs : Placed) (cvt : Nat) : BitVec 64 :=
  let bits := rs.foldl (fun a x => a ||| x.2.status) cvt
  let hit := rs.filterMap (fun x => x.2.kind.map (fun k => (x.1, k)))
  let f := match hit with
    | [] => 0
    | h :: t =>
      let i := t.foldl (fun a x => min a x.1) h.1
      let k := ((hit.find? (fun x => x.1 == i)).map (fun x => x.2)).getD 0
      putb true 63 + put k 3 60 + put i 32 12
  BitVec.ofNat 64 (f + put (min (hit.map (fun x => x.1)).eraseDups.length 0xFFFF) 16 44 + (bits &&& 0x17))

end Sys2Proof.Machine
end

