-- ==== Sys2Proof/Machine/Stream.lean ====
section
/-!
DEFINITION. The Stream Engine (R94-R126): issue of streams, fills and flushes with their checks, the row-vector loader, the passes of a
stream, its completion, and faults at execution.
-/

namespace Sys2Proof.Machine

/-! ### Issue (R95-R100, R115) -/

/-- DH_STREAM: the descriptor and its Sprigs are read and checked, the stream is queued and its ticket returned (R95-R100, R103-R107).  A
ticket that comes round while its last bearer is still outstanding is given again (log 93). -/
def stepDhStream (c : BitVec 7) (g : BitVec 6) (s : State) : State :=
  s.laneStep c.toNat g.toNat (· == .stream) (fun s i =>
    let u := s.cluster i.c
    let gr := s.group i.c i.g
    let size := i.k.lsBytes
    match i.collective gr [iRs1 i.w] with
    | some r => s.fault i 3 (0x12 + r)
    | none =>
      let off := (gr.getX 0 (iRs1 i.w)).toNat
      if off % 64 ≠ 0 then s.fault i 3 0x10
      else if size < off + 64 then s.fault i 3 0x11
      else if rangeBad u.lsBad off 64 then s.laneUncorrectable i 2 i.lanes none
      else
        let d := BitVec.ofNat 512 (readLe u.ls off 64)
        let p1 := readSprig u.ls u.lsBad size (Strm.sprig1 d)
        let p2 := if Strm.twoPass d then readSprig u.ls u.lsBad size (Strm.sprig2 d) else .ok {}
        let own := fun (p : Except (Option Nat) Sprig) => match p with | .error (some r) => [r] | _ => []
        let unread := match p1, p2 with
          | .error none, _ => true
          | _, .error none => true
          | _, _ => false
        let rules := fun (last : Bool) (off : Nat) (p : Except (Option Nat) Sprig) => match p, sprigPart u.ls u.lsBad size off with
          | .ok a, _ => reasonIf (sprigRulesBad d i.k.sideCfg last a) 0x10
          | _, some a => reasonIf (sprigRulesBad d i.k.sideCfg last a false) 0x10
          | _, none => []
        match lowest (streamFaults size d ++ own p1 ++ own p2 ++ rules (!Strm.twoPass d) (Strm.sprig1 d) p1 ++
            (if Strm.twoPass d then rules true (Strm.sprig2 d) p2 else [])) with
        | some r => s.fault i 3 r
        | none =>
          if unread then s.laneUncorrectable i 2 i.lanes none
          else match p1, p2 with
            | .ok a, .ok b =>
              if 8 ≤ u.stream.ops.length then s
              else
                let t := u.stream.nextTicket
                let o : StreamOp := { ticket := t, group := BitVec.ofNat 6 i.g, desc := d, s1 := a, s2 := b }
                (s.modStream i.c (fun e => { e with ops := e.ops ++ [o], nextTicket := t + 1 })).finish i
                  (fun k => k.setAll i.lanes (iRd i.w) (fun _ => t.zeroExtend 64))
            | _, _ => s)
def execDhStream (c : BitVec 7) (g : BitVec 6) (s : State) : Host.Outcome State Fault Refusal := .next (stepDhStream c g s)

/-- Issue of a fill or a flush (R99, R115): rs1 the virtual address, rs2 the offset, rs3 the length; tickets as for streams (log 93). -/
def State.fillIssue (s : State) (i : LC) (flush : Bool) : State :=
  let u := s.cluster i.c
  let gr := s.group i.c i.g
  match i.collective gr [iRs1 i.w, iRs2 i.w, iRs3 i.w] with
  | some r => s.fault i 3 (0x12 + r)
  | none =>
    let va := gr.getX 0 (iRs1 i.w)
    let off := (gr.getX 0 (iRs2 i.w)).toNat
    let n := (gr.getX 0 (iRs3 i.w)).toNat
    if n % 256 ≠ 0 ∨ n = 0 ∨ ocBytes < n ∨ va.toNat % 256 ≠ 0 ∨ off % 256 ≠ 0 then s.fault i 3 0x10
    else if ocBytes < off + n then s.fault i 3 0x11
    else if 4 ≤ u.stream.fills.length then s
    else
      let t := u.stream.nextTicket
      let o : FillOp := { ticket := t, group := BitVec.ofNat 6 i.g, flush := flush, va := va, off := BitVec.ofNat 18 off,
                          len := BitVec.ofNat 19 n }
      (s.modStream i.c (fun e => { e with fills := e.fills ++ [o], nextTicket := t + 1 })).finish i
        (fun k => k.setAll i.lanes (iRd i.w) (fun _ => t.zeroExtend 64))

/-- DH_OCFILL (R115). -/
def execDhOcfill (c : BitVec 7) (g : BitVec 6) (s : State) : Host.Outcome State Fault Refusal :=
  .next (s.laneStep c.toNat g.toNat (· == .ocfill) (fun s i => s.fillIssue i false))
/-- DH_OCFLUSH (R115). -/
def execDhOcflush (c : BitVec 7) (g : BitVec 6) (s : State) : Host.Outcome State Fault Refusal :=
  .next (s.laneStep c.toNat g.toNat (· == .ocflush) (fun s i => s.fillIssue i true))

/-! ### Completion and faults -/

/-- A stream, fill or flush ends well: its ticket ends, its token is signalled (R102, R115). -/
def State.streamDone (s : State) (c : Nat) (ticket : BitVec 8) (tok : Option Nat) : State :=
  s.modCluster c (fun u =>
    let e := u.stream
    let u := { u with stream := { e with ops := e.ops.filter (fun o => o.ticket != ticket),
                                         fills := e.fills.filter (fun o => o.ticket != ticket),
                                         ended := tput false e.ended ticket.toNat false } }
    match tok with
    | some t => u.addToken t 1
    | none => u.rewait)

/-- A fault at execution (R125): the stream or fill stops, the group's queued streams, fills and flushes are cancelled, the group parks;
uncorrectable data in a replayable kernel leads to its replay instead. -/
def State.streamFault (s : State) (c : Nat) (ticket : BitVec 8) (group : BitVec 6) (reason : Nat) : State :=
  match (s.cluster c).kernel with
  | none => s
  | some kn =>
    if reason = 0x16 ∧ s.mayReplay kn then s.withdrawForReplay kn
    else
      let s := s.modStream c (fun e =>
        let dead := ticket :: (e.ops.filter (fun o => o.group == group && o.phase == .queued)).map (fun o => o.ticket) ++
          (e.fills.filter (fun o => o.group == group && o.phase == .queued)).map (fun o => o.ticket)
        { e with ops := e.ops.filter (fun o => !dead.contains o.ticket),
                 fills := e.fills.filter (fun o => !dead.contains o.ticket),
                 ended := dead.foldl (fun t k => tput false t k.toNat true) e.ended })
      (((s.ungather c ownStream).ungather c ownFill).modCluster c Cluster.rewait).unitFault c group.toNat 3 reason ticket.toNat

/-! ### Reads of a stream -/

/-- Where a stream reads its elements: local store, operand cache, finished tile, and the fill that is writing the operand cache, whose new
bytes a read of a block may or may not see (R116, log 9). -/
structure StreamSrc where
  ls : Tbl Byte
  oc : Tbl Byte
  tile : Tbl Byte
  fill : Option FillOp
  free : Nat
deriving DecidableEq, Repr

/-- One byte of the operand cache in the `n`-th read: of each block of 256 bytes that a fill is writing, every byte old or every byte new. -/
def StreamSrc.ocByte (x : StreamSrc) (n a : Nat) : Byte :=
  match x.fill with
  | none => tget 0 x.oc a
  | some o =>
    if o.off.toNat ≤ a ∧ a < o.off.toNat + o.len.toNat ∧ Config.freeBit (x.free + n * 1024 + a / 256) then o.data.getD (a - o.off.toNat) 0
    else tget 0 x.oc a

/-- `w` bytes at an address of the local store or the operand cache in the `n`-th read. -/
def StreamSrc.read (x : StreamSrc) (n kind a w : Nat) : Nat :=
  if kind = 1 then readLe x.ls a w else leNat ((List.range w).map (fun j => x.ocByte n (a + j)))

/-- Bits of element (r, c) of an input in a batch. -/
def StreamSrc.elem (x : StreamSrc) (d : BitVec 512) (batch i : Nat) (f : BitVec 45) (r c : Nat) : Nat :=
  let w := widthOf (SIn.fmt f)
  if SIn.kind f = 3 then readLe x.tile ((r * Strm.rowLen d + c) * w) w
  else x.read (batch * 3 + i) (SIn.kind f) (SIn.addr f + r * SIn.pitch f (Strm.rowLen d) + c * w) w

/-- What the streams of a cluster read now, with the bytes of a finished tile. -/
def State.streamSrc (s : State) (c : Nat) (tile : Tbl Byte) : StreamSrc :=
  let u := s.cluster c
  { ls := u.ls, oc := u.stream.oc, tile := tile, fill := u.stream.fills.find? (fun f => !f.flush && f.phase == .executing), free := s.free }

/-! ### The row-vector loader (R114) -/

/-- Row-vector inputs of a stream. -/
def rowVecs (d : BitVec 512) : List (Nat × BitVec 45) :=
  ((List.range 3).map (fun i => (i, Strm.inp d i))).filter (fun f => SIn.kind f.2 != 0 && SIn.rowVec f.2)

/-- ROW_VECTOR_LOAD: the first stream in queue order whose row vectors are not loaded reads the values present (R114, R116). -/
def stepRowVectorLoad (c : BitVec 7) (s : State) : State :=
  let u := s.cluster c.toNat
  if !u.resident || u.clock != .running then s
  else match u.stream.ops.find? (fun o => o.phase == .queued && o.rows.isNone && rowVecs o.desc != []) with
    | none => s
    | some o =>
      let x := s.streamSrc c.toNat []
      let cells := (rowVecs o.desc).flatMap (fun (i, f) => (List.range (Strm.rows o.desc)).map (fun r =>
        (i * 128 + r, SIn.kind f, SIn.addr f + r * SIn.pitch f (Strm.rowLen o.desc), widthOf (SIn.fmt f))))
      let t : Tbl Word := cells.foldl (fun t (k, kind, a, w) => tput 0 t k (BitVec.ofNat 64 (x.read 0 kind a w))) []
      let bad := cells.any (fun (_, kind, a, w) => rangeBad (if kind = 1 then u.lsBad else u.stream.ocBad) a w)
      let s := s.modStream c.toNat (fun e => { e with ops := e.ops.map (fun x =>
        if x.ticket = o.ticket then { x with rows := some t, rowsBad := bad } else x) })
      { s with free := s.free + if x.fill.isSome then 1024 else 0 }
def execRowVectorLoad (c : BitVec 7) (s : State) : Host.Outcome State Fault Refusal := .next (stepRowVectorLoad c s)

/-! ### The passes of a stream -/

/-- Batches of 256 elements of a pass (R113). -/
def Strm.batches (d : BitVec 512) : Nat := (Strm.elems d + 255) / 256

/-- The first batch, counted through the passes, that reads a failing codeword (R125, R249). -/
def firstBadBatch (d : BitVec 512) (p1 p2 : Sprig) (lsBad ocBad : List Nat) : Option Nat :=
  if lsBad = [] ∧ ocBad = [] then none else
  let hit := fun (p : Sprig) (e : Nat) => (List.range 3).any (fun i =>
    let f := Strm.inp d i
    p.readsSel (0x10 + i) && !SIn.rowVec f && (SIn.kind f == 1 || SIn.kind f == 2) &&
      rangeBad (if SIn.kind f = 1 then lsBad else ocBad)
        (SIn.addr f + e / Strm.rowLen d * SIn.pitch f (Strm.rowLen d) + e % Strm.rowLen d * widthOf (SIn.fmt f))
        (widthOf (SIn.fmt f)))
  let first := fun (p : Sprig) => ((List.range (Strm.elems d)).find? (hit p)).map (fun e => e / 256)
  match first p1 with
  | some b => some b
  | none => if Strm.twoPass d then (first p2).map (fun b => Strm.batches d + b) else none

/-- What running a stream gives: the side reducer, the writes, the placed results, status bits of cvt, the row records. -/
structure StreamOut where
  side : Side
  writes : List StreamWrite
  placed : Placed
  cvt : Nat
  records : List Byte
deriving DecidableEq, Repr

/-- Elements of a pass that run before a stream stops at a batch (counted through the passes). -/
def passLimit (d : BitVec 512) (stop : Option Nat) (pass : Nat) : Nat :=
  match stop with
  | none => Strm.elems d
  | some b => min (Strm.elems d) (256 * (b - pass * Strm.batches d))

/-- Run a stream up to the batch at which it stops, if it stops (R94-R124). -/
def StreamOp.run (o : StreamOp) (flag : Bool) (cfg : BitVec 16) (x : StreamSrc) (side : Side) (stop : Option Nat) : StreamOut :=
  let d := o.desc
  let len := Strm.rowLen d
  let rows := o.rows.getD []
  let inputs := fun (p : Sprig) (pass r c : Nat) => (List.range 3).map (fun i =>
    let f := Strm.inp d i
    if !p.readsSel (0x10 + i) || SIn.kind f == 0 then FVal.fin false 0 0
    else if SIn.rowVec f then valOf (SIn.fmt f) (tget 0 rows (i * 128 + r)).toNat
    else valOf (SIn.fmt f) (x.elem d (pass * Strm.batches d + (r * len + c) / 256) i f r c))
  let l1 := passLimit d stop 0
  let (side, e1) := runRows flag cfg o.s1 len l1 side (inputs o.s1 0) (Strm.rows d) 0 side []
  let last := if Strm.twoPass d then o.s2 else o.s1
  let lim := if Strm.twoPass d then passLimit d stop 1 else l1
  let (side, es) := if Strm.twoPass d
    then runRows flag cfg o.s2 len lim side (inputs o.s2 1) (Strm.rows d) 0 side [] else (side, e1)
  let nans := if Strm.twoPass d then (e1.zip es).map (fun (a, b) => a.nan || b.nan) else es.map (fun e => e.nan)
  let cvt := e1.foldl (fun a e => a ||| e.status) (es.foldl (fun a e => a ||| e.status) 0)
  -- outputs
  let placedOf := fun (j : Nat) => ((es.zip nans).zipIdx.filterMap (fun ((e, n), idx) =>
    (e.outs.find? (fun w => w.1 == j)).map (fun w => (idx, outElem flag (SOut.fmt (Strm.out d j)) n w.2))) : Placed)
  let outs := (List.range 2).map placedOf
  let outWrites := ((List.range 2).zip outs).flatMap (fun (j, ps) =>
    let f := Strm.out d j
    let w := widthOf (SOut.fmt f)
    ps.map (fun (idx, v) =>
      let a := SOut.addr f + idx / len * SOut.pitch f len + idx % len * w
      ({ batch := idx / 256, kind := SOut.kind f, addr := a, bytes := leBytes w v.bits } : StreamWrite)))
  -- reductions
  let wide := (last.ins.find? (fun w => SI.tap w == 1)).any SI.wide
  let vals := es.map (fun e => (e.tree.map (fun t => t.1)).getD (.fin false 0 0))
  let red : Placed := if Strm.rOp d = 0 then [] else
    ((List.range (Strm.segs d)).filterMap (fun i =>
      let a := i * Strm.segLen d
      let b := min (a + Strm.segLen d) (Strm.elems d)
      if lim < b then none
      else some (b - 1, outElem flag (Strm.rFmt d) ((nans.drop a).take (b - a)).or
        (segReduce (Strm.rOp d) wide ((vals.drop a).take (b - a))))))
  let redWrites := if Strm.rKind d = 0 then [] else red.zipIdx.map (fun (r, i) =>
    let w := widthOf (Strm.rFmt d)
    ({ batch := r.1 / 256, kind := Strm.rKind d, addr := Strm.rAddr d + i * w, bytes := leBytes w r.2.bits } : StreamWrite))
  -- row records
  let recs := if Strm.publish d && stop.isNone then (List.range (Strm.rows d)).map (fun r =>
      let org := ((nans.drop (r * len)).take len).or
      let ops := side.rowOps cfg r
      let at_ := fun (k : Nat) (fmt : Nat) => outElem flag fmt org (ops.getD k (.fin false 0 0))
      let val := fun (ch : Nat) => if sideKind cfg ch = 0 then ({ bits := 0 } : OutRes)
        else at_ ch (if (sideFmt cfg ch).eb = 11 then 7 else 6)
      (r * len + len - 1, [val 0, val 1, at_ 2 6])) else []
  let placed : Placed := outs.flatten ++ red ++ recs.flatMap (fun (i, vs) => vs.map (fun v => (i, v)))
  let records := recs.flatMap (fun (_, vs) => vs.flatMap (fun v => leBytes 8 v.bits) ++ leBytes 8 0)
  { side := side, writes := byBatch (Strm.batches d) (outWrites ++ redWrites), placed := placed, cvt := cvt, records := records }

/-- What the writes of a stream lead to: wait for the cluster's own fills, a fault at a batch of the last pass with the writes before it in
place, or the state. -/
inductive Wrote where
  | wait
  | fault (s : State) (batch reason : Nat)
  | ok (s : State)

/-- Perform the writes of a stream in order: local ones at once, virtual ones at the Quire (R102, R125, R249, R298).  Where one write of a
batch fails, those of the batch before it stay (log 94). -/
def State.streamWrites (c : Nat) (k : Kernel) (ticket : BitVec 8) : List StreamWrite → State → Wrote
  | [], s => .ok s
  | w :: ws, s =>
    let u := s.cluster c
    if w.kind = 1 then
      (if writeBadly u.lsBad w.addr w.bytes.length then .fault s w.batch 0x16
       else State.streamWrites c k ticket ws (s.modCluster c (fun u => u.lsWrite w.addr w.bytes)))
    else if w.kind = 2 then
      (if writeBadly u.stream.ocBad w.addr w.bytes.length then .fault s w.batch 0x16
       else
        -- a flush in progress sends each byte as it was or as it becomes (R116, log 9)
        let patch := fun (o : FillOp) => if o.flush && o.phase == .executing then
            { o with data := (List.range o.data.length).map (fun j =>
                let a := o.off.toNat + j
                if w.addr ≤ a ∧ a < w.addr + w.bytes.length ∧ Config.freeBit (s.free + a) then w.bytes.getD (a - w.addr) 0
                else o.data.getD j 0) } else o
        let s1 := s.modStream c (fun e =>
          { e with oc := writeBytes e.oc w.addr w.bytes, ocBad := cureBad e.ocBad w.addr w.bytes.length,
                   fills := e.fills.map patch })
        State.streamWrites c k ticket ws { s1 with free := s.free + ocBytes })
    else match s.virtWrite c ownStream k w.addr w.bytes (.stream ticket) with
      | .wait _ => .wait
      | .fault s unc => .fault s w.batch (if unc then 0x16 else 0x15)
      | .ok s _ => State.streamWrites c k ticket ws s

/-- The finished-tile input of a stream, if it has one. -/
def tileInput (d : BitVec 512) : Option (BitVec 45) := ((List.range 3).map (Strm.inp d)).find? (fun f => SIn.kind f == 3)

/-- Release a slot to the Press: its credit is on its way (R85, R124). -/
def Press.release (p : Press) (slot : BitVec 2) : Press :=
  { p with slots := modAt p.slots slot.toNat (fun _ => {}), creditsComing := p.creditsComing + 1 }

/-- STREAM_FIRST_READ: the next stream in queue order runs, once the finished tile that it takes is visible (R101): resets, passes,
side-channel commits, writes, release of the slot (R94-R124).  `bad` names a batch, counted through the passes, whose slot or
side-reducer state fails its code check (R91, R125, log 14).  Every read of the stream is made before its first write, and a row vector that
met uncorrectable data stops the stream at batch 0 (log 94). -/
def stepStreamFirstRead (c : BitVec 7) (bad : Option Nat) (s : State) : State :=
  let u := s.cluster c.toNat
  match u.kernel, u.stream.ops.find? (fun o => o.phase == .queued) with
  | some k, some o =>
    let d := o.desc
    let tile := tileInput d
    if !u.resident || u.clock != .running || (o.rows.isNone && rowVecs d != []) then s
    else if tile.isSome && u.press.order.isEmpty then s
    else
      let slot := u.press.order.headD 0
      let entry := if tile.isSome then u.press.slots.getD slot.toNat {} else {}
      let leave := fun (s : State) => if tile.isSome then s.modPress c.toNat (fun p => p.release slot) else s
      let s0 := if tile.isSome then s.modPress c.toNat (fun p => { p with order := p.order.drop 1 }) else s
      let match_ := match tile with
        | none => true
        | some f => fld entry.hdr 39 36 == SIn.fmt f && fld entry.hdr 35 29 + 1 == Strm.rows d &&
            fld entry.hdr 28 22 + 1 == Strm.rowLen d
      if !match_ then (leave s0).streamFault c.toNat o.ticket o.group 0x14
      else
        let cfg := k.sideCfg
        let s1 := if Strm.reset0 d then s0.modStream c.toNat (fun e => e.resetSide cfg 0) else s0
        let s1 := if Strm.reset1 d then s1.modStream c.toNat (fun e => e.resetSide cfg 1) else s1
        let e := (s1.cluster c.toNat).stream
        let stops := [if o.rowsBad then some 0 else none, bad, firstBadBatch d o.s1 o.s2 u.lsBad e.ocBad].filterMap id
        let stop := stops.foldl (fun a b => match a with | none => some b | some v => some (min v b)) none
        let run := o.run (!bit (s.ctx k.ctx.toNat).num 8) cfg (s.streamSrc c.toNat entry.bytes)
          { v0 := e.side0, v1 := e.side1, rowf := e.rowf }
        let r := run stop
        -- translations that the writes want are gathered before the first is made
        let vas := r.writes.flatMap (fun w => if w.kind = 1 ∨ w.kind = 2 then [] else sectorsOf w.addr w.bytes.length)
        let commits := fun (s : State) (side : Side) =>
          s.modStream c.toNat (fun e => { e with side0 := side.v0, side1 := side.v1, rowf := side.rowf })
        if s.misses c.toNat ownStream k.ctx.toNat vas ≠ [] then s.gather c.toNat ownStream k.ctx.toNat vas
        else
        let s2 := commits s1 r.side
        let s2 := { s2 with free := s.free + (2 * Strm.batches d) * 3072 }
        match State.streamWrites c.toNat k o.ticket r.writes s2 with
        | .wait => s
        | .fault s b why =>
          -- the stream stops at that batch: rows of later ones do not commit (R125)
          let cut := (run (some ((if Strm.twoPass d then Strm.batches d else 0) + b))).side
          (leave (commits (s.ungather c.toNat ownStream) cut)).streamFault c.toNat o.ticket o.group why
        | .ok s =>
          let s := s.ungather c.toNat ownStream
          if stop.isSome then (leave s).streamFault c.toNat o.ticket o.group 0x16
          else (leave s).modStream c.toNat (fun e => { e with ops := e.ops.map (fun y =>
            if y.ticket = o.ticket then { y with phase := .writing, status := streamStatus r.placed r.cvt, records := r.records }
            else y) })
  | _, _ => s
def execStreamFirstRead (c : BitVec 7) (bad : Option Nat) (s : State) : Host.Outcome State Fault Refusal :=
  .next (stepStreamFirstRead c bad s)

/-- STREAM_COMPLETE: the first stream whose writes have all been performed writes its row records, enters the numerics state and ends
(R102, R110, R123). -/
def stepStreamComplete (c : BitVec 7) (s : State) : State :=
  let u := s.cluster c.toNat
  match u.kernel, u.stream.ops.find? (fun o => o.phase == .writing &&
      !s.sh.reqs.any (fun r => r.msg.src.toNat == c.toNat && r.why == .stream o.ticket)) with
  | some k, some o =>
    let s := s.modCluster c.toNat (fun u => u.lsWrite (Strm.rowOut o.desc) o.records)
    (s.numerics c.toNat k true o.status (Strm.utag o.desc)).streamDone c.toNat o.ticket
      (if Strm.tokEn o.desc then some (Strm.tokNum o.desc) else none)
  | _, _ => s
def execStreamComplete (c : BitVec 7) (s : State) : Host.Outcome State Fault Refusal := .next (stepStreamComplete c s)

/-! ### Fills and flushes (R115, R116) -/

/-- Note what a fill or flush has read. -/
def State.fillRuns (s : State) (c : Nat) (ticket : BitVec 8) (data : List Byte) : State :=
  s.modStream c (fun e => { e with fills := e.fills.map (fun o =>
    if o.ticket = ticket then { o with phase := .executing, data := data } else o) })

/-- Codewords of the operand cache that a flush meets and that fail: those marked, and where its read meets one now (`bad`), one of its range,
which stays marked; which one is free (R249, log 14). -/
def State.flushBad (s : State) (c : Nat) (o : FillOp) (bad : Bool) : List Nat :=
  let u := s.cluster c
  let w := o.off.toNat / 32 + (Config.freeWord s.free).toNat % (o.len.toNat / 32)
  if bad && !u.stream.ocBad.contains w then u.stream.ocBad ++ [w] else u.stream.ocBad

/-- Where a flush stops: the first block of 256 bytes that holds a failing codeword or meets a page it may not write, with the reason; of both in
one block the uncorrectable data (R116, R125, R148). -/
def State.flushStop (s : State) (c : Nat) (k : Kernel) (o : FillOp) (ocBad : List Nat) : Option (Nat × Nat) :=
  let first := (List.range (o.len.toNat / 256)).find? (fun b => rangeBad ocBad (o.off.toNat + 256 * b) 256)
  match first, s.virtStop c ownFill k .write (sectorsOf o.va.toNat o.len.toNat) with
  | none, none => none
  | some b, none => some (b, 0x16)
  | none, some (i, unc) => some (i / 2, if unc then 0x16 else 0x15)
  | some b, some (i, unc) => if b ≤ i / 2 then some (b, 0x16) else some (i / 2, if unc then 0x16 else 0x15)

/-- FILL_START: the first fill or flush of the queue begins and reads its data (R115).  `bad` says that the read meets data that fails its
code check (log 14).  A flush that stops at a block has sent the blocks below it (R116, R125); a fill that meets an error writes nothing
(log 94). -/
def stepFillStart (c : BitVec 7) (bad : Bool) (s : State) : State :=
  let u := s.cluster c.toNat
  match u.kernel, u.stream.fills with
  | some k, o :: _ =>
    let n := o.len.toNat
    if !u.resident || u.clock != .running || o.phase != .queued then s
    else if o.flush then
      (let vas := sectorsOf o.va.toNat n
       let ocBad := s.flushBad c.toNat o bad
       if s.misses c.toNat ownFill k.ctx.toNat vas ≠ [] then s.gather c.toNat ownFill k.ctx.toNat vas
       else match s.flushStop c.toNat k o ocBad with
        | some (b, why) =>
          (match s.virtWrite c.toNat ownFill k o.va.toNat (readBytes u.stream.oc o.off.toNat (256 * b)) (.stream o.ticket) with
           | .ok t _ =>
             let t := ({ t with free := s.free + 1 }.ungather c.toNat ownFill).modStream c.toNat (fun e => { e with ocBad := ocBad })
             t.streamFault c.toNat o.ticket o.group why
           | .wait t => t
           | .fault t _ => t)
        | none => match s.virtPas c.toNat ownFill k .write vas with
          | .ok s _ => s.fillRuns c.toNat o.ticket (readBytes u.stream.oc o.off.toNat n)
          | .wait s => s
          | .fault s _ => s)
    else match s.virtRead c.toNat ownFill k o.va.toNat n with
      | .wait s => s
      | .fault s unc => s.streamFault c.toNat o.ticket o.group (if unc then 0x16 else 0x15)
      | .ok s bs => if bad then s.streamFault c.toNat o.ticket o.group 0x16 else s.fillRuns c.toNat o.ticket bs
  | _, _ => s
def execFillStart (c : BitVec 7) (bad : Bool) (s : State) : Host.Outcome State Fault Refusal := .next (stepFillStart c bad s)

/-- FILL_COMPLETE: a fill's bytes stand in the operand cache and it ends; a flush sends its writes and ends once they are performed
(R115). -/
def stepFillComplete (c : BitVec 7) (s : State) : State :=
  let u := s.cluster c.toNat
  match u.kernel, u.stream.fills with
  | some k, o :: _ =>
    let unsettled := fun (s : State) => s.sh.reqs.any (fun r => r.msg.src.toNat == c.toNat && r.why == .stream o.ticket)
    if o.phase = .queued then s
    else if !o.flush then
      (s.modStream c.toNat (fun e => { e with oc := writeBytes e.oc o.off.toNat o.data,
                                              ocBad := cureBad e.ocBad o.off.toNat o.data.length })).streamDone c.toNat o.ticket none
    else if o.phase = .executing then
      match s.virtWrite c.toNat ownFill k o.va.toNat o.data (.stream o.ticket) with
      | .wait s => s
      | .fault s unc => s.streamFault c.toNat o.ticket o.group (if unc then 0x16 else 0x15)
      | .ok s _ =>
        if unsettled s then s.modStream c.toNat (fun e => { e with fills := e.fills.map (fun x =>
          if x.ticket = o.ticket then { x with phase := .writing, data := [] } else x) })
        else s.streamDone c.toNat o.ticket none
    else if unsettled s then s
    else s.streamDone c.toNat o.ticket none
  | _, _ => s
def execFillComplete (c : BitVec 7) (s : State) : Host.Outcome State Fault Refusal := .next (stepFillComplete c s)

end Sys2Proof.Machine
end

