-- ==== Sys2Proof/Machine/Kernels.lean ====
section
/-!
DEFINITION. Kernel launch, dispatch, start and replay (R130, R138-R140, R192, R317, R325, R326, R342, R343, R399).
-/

namespace Sys2Proof.Machine

/-! ### Launch (R317, R342) -/

/-- Whether a group configuration word is one that the table lists (R138). -/
def groupCfgOk (g : Nat) : Bool := fld (BitVec.ofNat 64 g) 31 16 == 0 && fld (BitVec.ofNat 64 g) 4 0 == 0 &&
  fld (BitVec.ofNat 64 g) 9 7 != 0

/-- Groups a cluster can hold under a configuration (R140). -/
def groupCap (k : Kernel) : Nat := min 64 (4 * ((4096 - k.lsBytes / 1024 - 256) / (4 * (k.frameBytes / 1024))))

/-- Whether every page of a range of a context is mapped by local leaves that are pinned and writable (fuel: pages). -/
def State.rangePinned (s : State) (x : Nat) : Nat → Nat → Nat → Bool
  | 0, va, last => decide (last ≤ va)
  | f + 1, va, last =>
    if last ≤ va then true
    else match s.walk x va with
      | .ok t => !t.remote && t.pin && t.w && s.rangePinned x f (t.lo.toNat + 2 ^ t.lg.toNat) last
      | .error _ => false

/-- What the walks of such a check do beside translating. -/
def State.notePinned (x : Nat) : Nat → State → Nat → Nat → State
  | 0, s, _, _ => s
  | f + 1, s, va, last =>
    if last ≤ va then s
    else match s.walk x va with
      | .ok t => State.notePinned x f (s.noteWalk x va) (t.lo.toNat + 2 ^ t.lg.toNat) last
      | .error _ => s.noteWalk x va

/-- The launch token of a kernel launch. -/
def State.tokenOf (s : State) (q : Nat) (e : BitVec 512) : Kernel :=
  let x := (s.queue q).ctx
  { queue := BitVec.ofNat 14 q, id := BitVec.ofNat 32 (q * 65536 + Ent.stamp e), ctx := BitVec.ofNat 12 x,
    gen := BitVec.ofNat 4 (s.genOf x), entry := BitVec.ofNat 48 (Ent.pc e), arg := BitVec.ofNat 64 (Ent.arg e),
    groupCfg := BitVec.ofNat 64 (Ent.groupCfg e), sideCfg := BitVec.ofNat 16 (Ent.sideCfg e), rep := Ent.rep e }

/-- Reason of a rejected launch (R317, R319); the reasons are tried in the order of their codes. -/
def State.launchFault (s : State) (q : Nat) (e : BitVec 512) : Option Nat :=
  let k := s.tokenOf q e
  let (a, b) := launchRange e
  let qu := s.queue q
  let frames := 128 * k.groups * k.frameBytes
  if !groupCfgOk (Ent.groupCfg e) then some 1
  else if groupCap k < k.groups then some 2
  else if 2 ^ 48 < k.frameVA + frames || !s.rangePinned k.ctx.toNat (frames / 4096) k.frameVA (k.frameVA + frames) then some 3
  else if !sideCfgOk k.sideCfg then some 4
  else if 128 < b || (qu.type == 2 && (a / 8 != qu.bind || (b - 1) / 8 != qu.bind)) then some 5
  else none

/-- KERNEL_LAUNCH: checked, and rejected with status 0x07 or recorded (R317, R325, R342). -/
def stepKernelLaunch (q : BitVec 14) (s : State) : State :=
  s.runEntry q.toNat 1 (fun s e =>
    let t := s.tokenOf q.toNat e
    let frames := 128 * t.groups * t.frameBytes
    let fault := s.launchFault q.toNat e
    let s := if fault = some 1 ∨ fault = some 2 ∨ 2 ^ 48 < t.frameVA + frames then s
      else State.notePinned t.ctx.toNat (frames / 4096) s t.frameVA (t.frameVA + frames)
    match fault with
    | some info => s.complete q.toNat 7 info
    | none =>
      let k := s.tokenOf q.toNat e
      let r : LaunchRec := { entry := e, id := k.id, ctx := k.ctx, gen := k.gen }
      (s.modQueue q.toNat (fun u => { u with launch := r })).storeLaunch q.toNat)
def execKernelLaunch (q : BitVec 14) (s : State) : Host.Outcome State Fault Refusal := .next (stepKernelLaunch q s)

/-- Logical clusters of a queue's launch. -/
def State.launchClusters (s : State) (q : Nat) : List Nat :=
  let (a, b) := launchRange (s.queue q).launch.entry
  (List.range b).filter (fun c => decide (a ≤ c))

/-- Whether the running entry of a queue is the kernel its launch record names. -/
def Queue.launching (k : Queue) (q : Nat) : Bool :=
  k.running.any (fun e => Ent.op e == 1 && k.launch.id.toNat == q * 65536 + Ent.stamp e)

/-- KERNEL_DISPATCH: tokens enter every run list in one step.  A global launch that finds one full waits in the holding buffer of 64, a direct
one in its own fetcher; with the holding buffer full global dispatch waits (R325, R326, R328).  A queue that has stopped fetching for an
error of its own fetching still dispatches what it runs (log 88).  No kernel is dispatched while the module sleeps (R400). -/
def stepKernelDispatch (q : BitVec 14) (s : State) : State :=
  let k := s.queue q.toNat
  let cs := s.launchClusters q.toNat
  let waits := k.type != 2 && !s.holding.contains q
  if !k.launching q.toNat || k.dispatched || k.halted || (s.ctx k.ctx).resetting || s.refuseWork || s.powerState != 1 then s
  else if waits && decide (64 ≤ s.holding.length) then s
  else if cs.any (fun c => decide (16 ≤ (s.cluster c).runList.length)) then
    (if waits then { s with holding := s.holding ++ [q] } else s)
  else
    let t := s.tokenOf q.toNat k.launch.entry
    cs.foldl (fun s c => s.modCluster c (fun u => { u with runList := u.runList ++ [t] }))
      ({ s with holding := s.holding.filter (· != q) }.modQueue q.toNat (fun u => { u with dispatched := true }))
def execKernelDispatch (q : BitVec 14) (s : State) : Host.Outcome State Fault Refusal := .next (stepKernelDispatch q s)

/-! ### Start (R192, R326) -/

/-- CLUSTER_READY: the head of the run list may start, once the previous kernel has completed; a gated cluster is clocked again (R326,
R398). -/
def stepClusterReady (c : BitVec 7) (s : State) : State :=
  let u := s.cluster c.toNat
  if u.runList = [] || u.kernel.isSome || s.powerState != 1 then s
  else s.modCluster c.toNat (fun u => { u with ready := true, clock := .running })
def execClusterReady (c : BitVec 7) (s : State) : Host.Outcome State Fault Refusal := .next (stepClusterReady c s)

/-- Whether a cluster runs a given kernel. -/
def Cluster.has (u : Cluster) (t : Kernel) : Bool := u.kernel.any (fun k => k.queue == t.queue && k.id == t.id)

/-- A group at its start (R130). -/
def newGroup (k : Kernel) (c g : Nat) : Group :=
  let slice := k.frameBytes / 32
  let base := k.frameBase c + g * k.frameBytes
  let e : Entry := { pc := k.entry, mask := BitVec.allOnes 32, st := .ready }
  let sp := fun (l : Nat) => BitVec.ofNat 64 (base + (l + 1) * slice)
  { ((({ } : Group).setAll (List.range 32) 2 sp).setAll (List.range 32) 10 (fun _ => k.arg)) with status := .running, stack := [e] }

/-- Whether a cluster holds its site as a kernel starts on it: of a shared site the host has it first in each kernel, unless its guest still
works on another; the guest keeps it only where the host neither has it nor runs the kernel (R35, R37).  The mark of an idle guest means
nothing while its host holds the site. -/
def State.residentAtStart (s : State) (c : Nat) (t : Kernel) : Bool :=
  let u := s.cluster c
  if c % 32 < 4 then
    u.resident || (bit (s.mapEntry (c + 28)) 21 && (s.cluster (c + 28)).kernel.all (fun k => k.queue == t.queue && k.id == t.id))
  else if bit (s.mapEntry c) 21 then
    u.resident && !(s.cluster (c - 28)).resident && !(s.launchClusters t.queue.toNat).contains (c - 28)
  else u.resident

/-- A cluster at kernel start, which holds its site or not (R37, R85, R116, R120, R130, R181, R192, R399). -/
def Cluster.begin_ (u : Cluster) (c : Nat) (t : Kernel) (here : Bool) : Cluster :=
  let w := u.withdraw true
  let gs := (List.range t.groups).foldl (fun m g => tput {} m g (newGroup t c g)) ([] : Tbl Group)
  { w with runList := u.runList.drop 1, kernel := some t, started := true, groups := gs, stream := w.stream.kernelStart t.sideCfg,
           accBad := false, nextGroup := 0, cycle := 0, resident := here }

/-- START: every cluster of the kernel has reported ready; this one performs the kernel start and acknowledges (R326, R342). -/
def stepStart (c : BitVec 7) (s : State) : State :=
  let u := s.cluster c.toNat
  match u.runList with
  | [] => s
  | t :: _ =>
    let q := t.queue.toNat
    let ok := fun (d : Nat) => let v := s.cluster d; v.has t || (v.ready && v.runList.head?.any (fun k => k.queue == t.queue && k.id == t.id))
    if !u.ready || u.kernel.isSome || s.powerState != 1 || (s.power.withhold && !(s.queue q).started) || !(s.launchClusters q).all ok then s
    else
      let first := !(s.queue q).started
      let stopped := (s.queue q).halted
      let s := (s.modCluster c.toNat (fun u => u.begin_ c.toNat t (s.residentAtStart c.toNat t))).clearFails c.toNat
      -- of a kernel that has begun to start in a context stopped since, the groups are stopped (R338, log 101)
      let s := if stopped then s.modCluster c.toNat (fun u => { u with groups := tmap {} u.groups (fun _ g => g.stop) }) else s
      -- a sector fetched in an earlier kernel leaves nothing valid in this one (R192)
      let s := s.orphanFills c.toNat (fun _ => true)
      let s := s.modQueue q (fun k =>
        let r := { k.launch with state := 1, lastStart := if first then s.launchCounter else k.launch.lastStart,
                                 firstStart := if first && k.launch.replays == 0 then s.launchCounter else k.launch.firstStart }
        { k with started := true, launch := r })
      s.storeLaunch q
def execStart (c : BitVec 7) (s : State) : Host.Outcome State Fault Refusal := .next (stepStart c s)

/-- GO: every cluster of the kernel has acknowledged Start; the groups of this one become ready (R130, R326). -/
def stepGo (c : BitVec 7) (s : State) : State :=
  match (s.cluster c.toNat).kernel with
  | none => s
  | some t =>
    if (s.launchClusters t.queue.toNat).all (fun d => (s.cluster d).has t || (s.queue t.queue.toNat).launch.complete.getLsbD d) then
      s.modCluster c.toNat (fun u => { u with acked := true })
    else s
def execGo (c : BitVec 7) (s : State) : Host.Outcome State Fault Refusal := .next (stepGo c s)

/-! ### Replay (R343, R436) -/

/-- Put a replayed kernel's token into a run list: ahead of the kernels that wait, but behind one that has begun to start elsewhere, which
could not go on before it (R326, R343). -/
def State.replayInto (s : State) (t : Kernel) (l : List Kernel) : List Kernel :=
  l.takeWhile (fun k => (s.queue k.queue.toNat).started) ++ t :: l.dropWhile (fun k => (s.queue k.queue.toNat).started)

/-- KERNEL_REPLAY: once every write of the withdrawn kernel is performed and its run lists have room it starts again from its launch record; not
while its queue is stopped or its context is being reset (R326, R338, R340, R436). -/
def stepKernelReplay (q : BitVec 14) (s : State) : State :=
  let k := s.queue q.toNat
  let r := k.launch
  let cs := s.launchClusters q.toNat
  if !r.withdrawn || k.running.isNone || k.halted || (s.ctx k.ctx).resetting ||
     cs.any (fun c => decide (16 ≤ (s.cluster c).runList.length)) ||
     s.sh.reqs.any (fun x => cs.contains x.msg.src.toNat && x.msg.ctx == r.ctx && !isRdSec x.msg) then s
  else
    let t := { s.tokenOf q.toNat r.entry with gen := r.gen }
    let s := s.modQueue q.toNat (fun k =>
      { k with started := false, launch := { r with replays := r.replays + 1, withdrawn := false, state := 2, complete := 0,
                                                    num := 0, discarded := false } })
    (cs.foldl (fun s c => s.modCluster c (fun u =>
      let l := s.replayInto t u.runList
      { u with runList := l, ready := u.ready && l.head? == u.runList.head? })) s).storeLaunch q.toNat
where
  /-- A read of a sector. -/
  isRdSec (m : MemMsg) : Bool := m.vc == 0 && m.op == 1
def execKernelReplay (q : BitVec 14) (s : State) : Host.Outcome State Fault Refusal := .next (stepKernelReplay q s)

end Sys2Proof.Machine
end

