-- ==== Sys2Proof/Machine/Admin.lean ====
section
/-!
DEFINITION. The admin commands of contexts, queues, groups and registers (R331, R338-R341, R153-R156).
-/

namespace Sys2Proof.Machine

/-! ### Contexts (R331, R340, R351) -/

def State.ctxState (s : State) (x : Nat) : Nat := fld (s.ctx x).status 29 28

/-- Run a context command, waiting while the next generation still has an answer outstanding (R341). -/
def State.ctxCommand (s : State) (aq : Bool) (op : Nat) (f : State → Nat → BitVec 512 → State) : State :=
  match s.readyEntry (if aq then 1 else 0) with
  | none => s
  | some e => if s.genBusy (Ent.ctx e) then s else s.admin aq op f

/-- CONTEXT_OPEN (R59, R290, R331, R351). -/
def stepContextOpen (aq : Bool) (s : State) : State :=
  s.ctxCommand aq 0x40 (fun s q e =>
    let x := Ent.ctx e
    let purpose := fld e 467 466
    let cls := fld e 465 464
    if x = 0 then s.reject q 3
    else if purpose = 3 ∨ cls = 3 ∨ 256 < fld e 388 380 then s.reject q 1
    else if s.ctxState x ≠ 0 then s.reject q 2
    else
      let prop := if cls = 0 then purpose == 2 else cls == 2
      let s := s.advanceGen x
      (s.modCtx x (fun k =>
        { k with xlat := BitVec.ofNat 128 (put (fld e 424 389) 36 84 + put (fld e 388 380) 9 75 + put (fld k.xlat 63 60) 4 60 +
                   put (fld e 460 425) 36 12 + 1),
                 status := BitVec.ofNat 64 (put 1 2 28 + put purpose 2 6 + putb (bit e 461) 5 + putb (bit e 462) 4 + putb (bit e 463) 3),
                 num := BitVec.ofNat 64 (putb prop 8) })).adminDone q)
def execContextOpen (aq : Bool) (s : State) : Host.Outcome State Fault Refusal := .next (stepContextOpen aq s)

/-- CONTEXT_CLOSE (R331, R351). -/
def stepContextClose (aq : Bool) (s : State) : State :=
  s.ctxCommand aq 0x41 (fun s q e =>
    let x := Ent.ctx e
    if x = 0 then s.reject q 3
    else if s.ctxState x ≠ 1 ∧ s.ctxState x ≠ 2 then s.reject q 2
    else if s.queuesOf x ≠ [] then s.reject q 3
    else ((s.advanceGen x).modCtx x (fun k =>
      { k with xlat := setB k.xlat 0 false, status := setF k.status 29 28 0 })).adminDone q)
def execContextClose (aq : Bool) (s : State) : Host.Outcome State Fault Refusal := .next (stepContextClose aq s)

/-- CONTEXT_RESET: begins the reset; the command completes with the reset (R331, R340, R351). -/
def stepContextReset (aq : Bool) (s : State) : State :=
  s.admin aq 0x42 (fun s q e =>
    let x := Ent.ctx e
    if x = 0 then s.reject q 3
    else if s.ctxState x ≠ 1 ∧ s.ctxState x ≠ 2 then s.reject q 2
    else s.beginReset x)
def execContextReset (aq : Bool) (s : State) : Host.Outcome State Fault Refusal := .next (stepContextReset aq s)

/-- Discard what a queue has not completed of the entries that stood in it as the reset began, with one completion record; where Tail has moved
since, the queue fetches (R340 step 7, log 100). -/
def State.discardEntries (s : State) (q : Nat) : State :=
  let k := s.queue q
  let last := (k.resetTail.map (·.toNat)).getD k.tail
  let n := stampDiff last (k.done % 65536)
  let done := (k.done + n) % 2 ^ 64
  let s := s.modQueue q (fun k =>
    let k1 : Queue := (k.setDone done).setHead last
    let k2 : Queue := { k1 with fetched := [], inFetch := 0, running := none, dispatched := false }
    let l : LaunchRec := { k.launch with withdrawn := false }
    let k3 : Queue := { k2 with started := false, stampAt := none, launch := l }
    ((k3.setSt (if k.tail = last then 1 else 2)).setErr 0).setArmed (k.tail == last))
  if n = 0 then s else s.writeCpl q (q * 65536 + (done + 65535) % 65536) 5 0 n 0 false

/-- Whether a transfer or a request of a context is still outstanding. -/
def State.ctxBusy (s : State) (x : Nat) : Bool :=
  s.sh.reqs.any (fun r => r.msg.ctx.toNat == x) || s.fabric.winReqs.any (fun r => r.ctx.toNat == x) ||
  s.engines.any (fun p => p.2.queue.any (fun q => (s.queue q.toNat).ctx == x))

/-- CONTEXT_RESET_COMPLETE: a reset that waits for the answers of the generation to come goes on once they have come (R341); once the context's
writes are performed and its transfers have ended, its queues discard their entries and it reopens; an admin command that asked for
the reset completes (R340). -/
def stepContextResetComplete (x : BitVec 12) (s : State) : State :=
  let c := x.toNat
  if !(s.ctx c).resetting then s
  else if (s.ctx c).waitGen then (if s.genBusy c then s else (s.modCtx c (fun k => { k with waitGen := false })).resetContext c)
  else if s.ctxBusy c then s
  else
    let s := s.modCtx c (fun k => { k with status := setF k.status 29 28 1, resetting := false })
    let s := (s.queuesOf c).foldl (fun s q => s.discardEntries q) s
    [0, 1].foldl (fun s q => match (s.queue q).running with
      | some e => if Ent.op e = 0x42 ∧ Ent.ctx e = c then s.adminDone q else s
      | none => s) s
def execContextResetComplete (x : BitVec 12) (s : State) : Host.Outcome State Fault Refusal :=
  .next (stepContextResetComplete x s)

/-! ### Queues (R331) -/

/-- QUEUE_CREATE (R312, R331). -/
def stepQueueCreate (aq : Bool) (s : State) : State :=
  s.admin aq 0x43 (fun s q e =>
    let n := Ent.queue e
    let ty := fld e 465 464
    let x := fld e 463 452
    let lg := fld e 451 448
    let ring := fld e 447 400
    let cpl := fld e 399 336
    let clg := fld e 334 331
    let bind := fld e 330 325
    let pages := (2 ^ lg * 64 + 4095) / 4096
    let s1 := (List.range pages).foldl (fun s i => s.noteWalk x (ring + i * 4096)) s
    if n < 2 ∨ ty = 0 ∨ lg < 4 ∨ 12 < lg ∨ clg < 4 ∨ ring % (2 ^ lg * 64) ≠ 0 ∨ cpl % (2 ^ clg * 32) ≠ 0 ∨ (ty = 1 ∧ bind ≠ 0) ∨
       (ty = 2 ∧ 15 < bind) then s.reject q 1
    else if (s.queue n).st ≠ 0 ∨ s.ctxState x ≠ 1 then s.reject q 2
    else if !(List.range pages).all (fun i => match s.walk x (ring + i * 4096) with
        | .ok t => !t.remote && t.pin && t.r
        | .error _ => false) then s1.reject q 1
    else
      let k : Queue :=
        { reg := BitVec.ofNat 128 (put 1 4 28 + put ty 2 22 + put x 12 10 + put bind 6 4 + putb (bit e 324) 3 + 1),
          ring := BitVec.ofNat 48 ring, ringLog2 := BitVec.ofNat 4 lg, cpl := BitVec.ofNat 64 cpl, cplHost := bit e 335,
          cplLog2 := BitVec.ofNat 4 clg }
      (s1.modQueue n (fun _ => k)).adminDone q)
def execQueueCreate (aq : Bool) (s : State) : Host.Outcome State Fault Refusal := .next (stepQueueCreate aq s)

/-- Whether a fence wait names a queue (R331). -/
def State.fenceNames (s : State) (n : Nat) : Bool :=
  s.queues.any (fun p => p.2.running.any (fun e => Ent.op e == 3 && Ent.target e == n))

/-- QUEUE_DESTROY (R331). -/
def stepQueueDestroy (aq : Bool) (s : State) : State :=
  s.admin aq 0x44 (fun s q e =>
    let n := Ent.queue e
    let k := s.queue n
    if k.st ≠ 1 ∧ k.st ≠ 7 then s.reject q 2
    else if n < 2 ∨ s.fenceNames n ∨ k.running.isSome then s.reject q 3
    else (s.modQueue n (fun _ => {})).adminDone q)
def execQueueDestroy (aq : Bool) (s : State) : Host.Outcome State Fault Refusal := .next (stepQueueDestroy aq s)

/-- QUEUE_RESET: the queue fetches again from Head; an entry it was running goes on, and the detector walks from a fence wait that blocks the
queue again (R322, R331, R335, R339). -/
def stepQueueReset (aq : Bool) (s : State) : State :=
  s.admin aq 0x45 (fun s q e =>
    let n := Ent.queue e
    let k := s.queue n
    if k.st ≠ 7 then s.reject q 2
    else
      let s := s.modQueue n (fun k => { (k.setErr 0).setSt 5 with stampAt := none }.settle)
      let s : State := if (s.queue n).st = 4 then { s with walkPending := s.walkPending ++ [BitVec.ofNat 14 n] } else s
      s.adminDone q)
def execQueueReset (aq : Bool) (s : State) : Host.Outcome State Fault Refusal := .next (stepQueueReset aq s)

/-! ### Groups (R153-R156, R331) -/

/-- Whether a context owns the kernel on a cluster. -/
def State.owns (s : State) (x c : Nat) : Bool := (s.cluster c).kernel.any (fun k => k.ctx.toNat == x)

/-- Group access of a direction: checks, then the access. -/
def State.groupAccess (s : State) (aq : Bool) (write : Bool) (f : State → Nat → BitVec 512 → State) : State :=
  match s.readyEntry (if aq then 1 else 0) with
  | none => s
  | some e0 =>
    if bit e0 454 ≠ write then s
    else s.admin aq 0x4B (fun s q e =>
      let c := fld e 467 461
      let size := if bit e 453 then ((s.cluster c).kernel.map Kernel.frameBytes).getD 0 else 16384
      let n := fld e 435 422 * 8
      if !s.owns (Ent.ctx e) c then s.reject q 2
      else if n = 0 ∨ fld e 452 436 % 8 ≠ 0 ∨ size < fld e 452 436 + n ∨ (write ∧ bit e 357) ∨
          ((s.cluster c).kernel.map Kernel.groups).getD 0 ≤ fld e 460 455 then s.reject q 1
      else if bit e 453 && (s.group c (fld e 460 455)).status != .parked then s.reject q 2
      else f s q e)

/-- Frame-area offset of a group's frame (R139, R206). -/
def State.frameAt (s : State) (c g : Nat) : Nat := g * ((s.cluster c).kernel.map Kernel.frameBytes).getD 0

/-- GROUP_ACCESS_READ (R153, R331). -/
def stepGroupAccessRead (aq : Bool) (s : State) : State :=
  s.groupAccess aq false (fun s q e =>
    let c := fld e 467 461
    let g := fld e 460 455
    let o := fld e 452 436
    let n := fld e 435 422 * 8
    let bs := if bit e 453 then readBytes (s.cluster c).frame (s.frameAt c g + o) n
      else (List.range n).map (fun i => (s.group c g).imageByte (o + i))
    (s.writeBuf (bit e 357) (fld e 421 358) bs).adminDone q)
def execGroupAccessRead (aq : Bool) (s : State) : Host.Outcome State Fault Refusal := .next (stepGroupAccessRead aq s)

/-- GROUP_ACCESS_WRITE (R154, R331). -/
def stepGroupAccessWrite (aq : Bool) (s : State) : State :=
  if s.adminTracked aq 0x4B (fun e => fld e 421 358) (fun e => fld e 435 422 * 8) then s
  else s.groupAccess aq true (fun s q e =>
    let c := fld e 467 461
    let g := fld e 460 455
    let o := fld e 452 436
    let got := s.readVA 0 (fld e 421 358) (fld e 435 422 * 8)
    let s := s.noteVA 0 (fld e 421 358) (fld e 435 422 * 8)
    match got with
    | none => s.reject q 1
    | some bs =>
      if bit e 453 then (s.modCluster c (fun u => { u with frame := writeBytes u.frame (s.frameAt c g + o) bs })).adminDone q
      else match s.imageWrite c g o bs with
        | none => s.reject q 2
        | some s => s.adminDone q)
def execGroupAccessWrite (aq : Bool) (s : State) : Host.Outcome State Fault Refusal := .next (stepGroupAccessWrite aq s)

/-- The parked entry issues the instruction at its PC again, whatever it waited for (R155). -/
def Group.replay (g : Group) : Group :=
  g.modEntry (BitVec.ofNat 48 (fld g.park 143 96)) (fun e => { e with st := .ready, wait := .nothing, walking := false })

/-- A parked group goes on; a pending cause parks it again before it issues anything (R148, R156). -/
def Group.resume (g : Group) : Group :=
  { g with status := .running, park := 0, parking := g.causes.head?, causes := g.causes.drop 1 }

/-- The parked entry moves past its instruction (R155). -/
def Group.skip (g : Group) : Group :=
  let pc := BitVec.ofNat 48 (fld g.park 143 96)
  match g.stack.find? (fun e => e.pc == pc) with
  | none => g
  | some e => g.moveLanes { e with st := .ready } [(e.pc + 4, e.mask)]

/-- Whether Skip is allowed for the recorded cause (R155). -/
def Group.maySkip (g : Group) : Bool :=
  let c := fld g.park 255 248
  g.mayResume && ((decide (4 ≤ c ∧ c ≤ 7) || c == 9 || c == 0xA) || ((c == 2 || c == 3) && !bit g.park 231))

/-- A parked group retires as discarded: its queued work that has not started is cancelled and its buffers are released (R92, R125,
R155). -/
def State.discardGroup (s : State) (c g : Nat) : State :=
  let gb := BitVec.ofNat 6 g
  let s := s.modCluster c (fun u =>
    let p := u.press
    let p := p.cancel (p.ops.filter (fun o => o.group == gb && !o.started))
    let free := fun (p : Press) (i : Nat) => if (bufAt (p.buf0, p.buf1) i).owner = some gb then p.dropBuf i else p
    let press := free (free { p with ops := p.ops.map (fun o => if o.group = gb then { o with orphan := true } else o) } 0) 1
    let st := u.stream
    let ds := (st.ops.filter (fun o => o.group == gb && o.phase == .queued)).map (fun o => o.ticket) ++
      (st.fills.filter (fun o => o.group == gb && o.phase == .queued)).map (fun o => o.ticket)
    let stream : StreamEngine := { st with
      ops := st.ops.filter (fun o => !ds.contains o.ticket), fills := st.fills.filter (fun o => !ds.contains o.ticket),
      ended := ds.foldl (fun t k => tput false t k.toNat true) st.ended }
    { u with press := press, stream := stream, discarded := true })
  let s := [ownArray, ownFinish, ownStream, ownFill].foldl (fun s o => s.ungather c o) s
  (s.modGroup c g (fun k => { k with status := .discarded, stack := [], park := 0, parking := none, causes := [] })).modCluster c
    Cluster.rewait

/-- Group resume with an action: rejected where the group is not parked or the action is not allowed (R155). -/
def State.groupResume (s : State) (aq : Bool) (action : Nat) (ok : Group → Bool) (f : State → Nat → Nat → State) : State :=
  match s.readyEntry (if aq then 1 else 0) with
  | none => s
  | some e0 =>
    if fld e0 454 453 ≠ action ∧ fld e0 454 453 ≠ 3 then s
    else s.admin aq 0x4C (fun s q e =>
      let c := fld e 467 461
      let g := fld e 460 455
      if fld e 454 453 = 3 then s.reject q 1
      else if !s.owns (Ent.ctx e) c || (s.group c g).status != .parked || !ok (s.group c g) then s.reject q 2
      else (f s c g).adminDone q)

/-- GROUP_RESUME_REPLAY (R155, R156). -/
def stepGroupResumeReplay (aq : Bool) (s : State) : State :=
  s.groupResume aq 0 Group.mayResume (fun s c g => s.modGroup c g (fun k => k.replay.resume))
def execGroupResumeReplay (aq : Bool) (s : State) : Host.Outcome State Fault Refusal := .next (stepGroupResumeReplay aq s)

/-- GROUP_RESUME_SKIP (R155, R156). -/
def stepGroupResumeSkip (aq : Bool) (s : State) : State :=
  s.groupResume aq 1 Group.maySkip (fun s c g => s.modGroup c g (fun k => k.skip.resume))
def execGroupResumeSkip (aq : Bool) (s : State) : Host.Outcome State Fault Refusal := .next (stepGroupResumeSkip aq s)

/-- GROUP_RESUME_DISCARD (R155). -/
def stepGroupResumeDiscard (aq : Bool) (s : State) : State :=
  s.groupResume aq 2 (fun _ => true) (fun s c g => s.discardGroup c g)
def execGroupResumeDiscard (aq : Bool) (s : State) : Host.Outcome State Fault Refusal := .next (stepGroupResumeDiscard aq s)

/-- GROUP_STOP (R145, R148, R331): a running group parks with cause 0x0B, at once or, while an access of it is outstanding, with the GROUP_PARK
that records it; the command completes then. -/
def stepGroupStop (aq : Bool) (s : State) : State :=
  s.admin aq 0x4D (fun s q e =>
    let c := fld e 467 461
    let g := fld e 460 455
    let k := s.group c g
    if !s.owns (Ent.ctx e) c || (k.status != .running && k.status != .parked) then s.reject q 2
    else if k.status = .parked then
      (s.modGroup c g (fun k => { k with causes := k.causes ++ [{ cause := 0x0B, notify := false }] })).adminDone q
    else ((s.modGroup c g Group.stop).recordPark c g).endStops c g)
def execGroupStop (aq : Bool) (s : State) : Host.Outcome State Fault Refusal := .next (stepGroupStop aq s)

/-! ### Registers (R331, R333) -/

/-- Read consecutive registers: their bytes, and what the reads leave. -/
def State.readWords : Nat → Nat → State → List Byte × State
  | 0, _, s => ([], s)
  | n + 1, off, s =>
    let (bs, s1) := State.readWords n (off + 8) (s.apertureRead off)
    (leBytes 8 (s.apertureValue off).toNat ++ bs, s1)

/-- REGISTER_READ (R331). -/
def stepRegisterRead (aq : Bool) (s : State) : State :=
  s.admin aq 0x4E (fun s q e =>
    if fld e 479 456 % 8 ≠ 0 then s.reject q 1
    else
      let (bs, s) := State.readWords (fld e 455 448 + 1) (fld e 479 456) s
      (s.writeBuf (bit e 383) (fld e 447 384) bs).adminDone q)
def execRegisterRead (aq : Bool) (s : State) : Host.Outcome State Fault Refusal := .next (stepRegisterRead aq s)

/-- REGISTER_WRITE (R331). -/
def stepRegisterWrite (aq : Bool) (s : State) : State :=
  s.admin aq 0x4F (fun s q e =>
    if fld e 479 456 % 8 ≠ 0 then s.reject q 1
    else match s.apertureStore (fld e 479 456) (BitVec.ofNat 64 (fld e 455 392)) with
      | none => s.reject q 1
      | some s => s.adminDone q)
def execRegisterWrite (aq : Bool) (s : State) : Host.Outcome State Fault Refusal := .next (stepRegisterWrite aq s)

end Sys2Proof.Machine
end

