-- ==== Sys2Proof/Machine/Answers.lean ====
section
/-!
DEFINITION. Answers at their requesters (R196, R207, R217, R218, R224-R226, R232, R238, R243, R287, R341), and the resending of refused
requests (R235, R238).
-/

namespace Sys2Proof.Machine

/-! ### Lane accesses -/

/-- An access of an entry has all its answers: it completes, or faults with the lanes that failed (R151, R205, R215, R256).  The lanes of
a write or atomic at the Quire that were performed leave the entry as if it had completed for them (R146); those of a dh.spinacq that found
their lock held, and lanes that have joined the PC, stand in the entry that parks (log 95). -/
def State.endAccess (s : State) (i : LC) (a : LaneAcc) : State :=
  if a.wait ≠ [] then s.modGroup i.c i.g (fun k => k.modEntry i.e.pc (fun e => { e with out := some a }))
  else
    let i := { i with e := { i.e with mask := a.mask, out := none } }
    let done := fun (s : State) (i : LC) => match a.kind with
      | .load => s.commitLoad i a
      | .atomic => s.endAtomic i a.vals
      | _ => s.finish i id
    let s := s.modGroup i.c i.g (fun k => k.modEntry i.e.pc (fun e => { e with out := none }))
    let unc := a.fails.filter (fun f => f.2.2 == 1)
    let lanes := fun (fs : List (BitVec 5 × BitVec 48 × BitVec 12)) => fs.map (fun f => f.1.toNat)
    -- the address of the lowest lane, whichever failed first (R147)
    let addr := fun (fs : List (BitVec 5 × BitVec 48 × BitVec 12)) =>
      ((List.range 32).findSome? (fun l => fs.find? (fun f => f.1.toNat == l))).map (fun f => f.2.1.toNat)
    if a.fails = [] then done s i
    else if unc ≠ [] ∧ s.mayReplay i.k then s.withdrawForReplay i.k
    else
      let bad := maskOf (lanes a.fails)
      let good := i.e.mask &&& ~~~bad
      let split := decide (a.kind ≠ .load) && good != 0
      let s := if split then
          done s { i with e := { i.e with mask := good } }
        else s
      let i := if split then { i with e := { i.e with mask := bad } } else i
      if unc ≠ [] then s.laneUncorrectable i (if a.kind = .load then 2 else 3) (lanes unc) (addr unc)
      else s.fault i 6 0 (lanes a.fails) (addr a.fails)

/-- Change the outstanding accesses of a group, and end those that have all their answers. -/
def State.accessAnswer (s : State) (c g : Nat) (f : LaneAcc → Option LaneAcc) : State :=
  match (s.cluster c).kernel with
  | none => s
  | some k =>
    (s.group c g).stack.foldl (fun s e =>
      match e.out with
      | none => s
      | some a => match f a with
        | none => s
        | some a => s.endAccess { c := c, g := g, e := e, k := k, w := a.insn } a) s

/-- One lane of an access is answered: a value, or an error. -/
def LaneAcc.answer (a : LaneAcc) (p : BitVec 5 × BitVec 48 × BitVec 48 → Bool) (code : BitVec 12)
    (val : BitVec 5 × BitVec 48 × BitVec 48 → Option Word) : Option LaneAcc :=
  let mine := a.wait.filter p
  if mine = [] then none
  else
    let vals := if code = 0 then mine.foldl (fun t w => match val w with | some v => tins t w.1.toNat v | none => t) a.vals else a.vals
    let fails := if code = 0 then a.fails else a.fails ++ mine.map (fun w => (w.1, w.2.1, code))
    some { a with wait := a.wait.filter (fun w => !p w), vals := vals, fails := fails }

/-- A cluster's sector fill is answered: the line takes the data but for its dirty bytes (R207), and every load that waits for the sector
is answered from it.  A fill whose line has been invalidated meanwhile (`keep` false) makes nothing valid (R192, R198). -/
def State.fillAnswer (s : State) (c : Nat) (pa : Nat) (keep : Bool) (d : Option Sector) (code : BitVec 12) : State :=
  let i := sectorOf pa
  let k := s.cluster c
  let whole : Sector := match d, k.cline pa with
    | some d, some l => mergeSector d (tget 0 l.data i) (tget 0 l.dirty i)
    | some d, none => d
    | none, _ => 0
  let s := s.modCluster c (fun k =>
    let k := k.modCline pa (fun l =>
      let l := { l with filling := setB l.filling i false }
      if keep && d.isSome then { l with valid := setB l.valid i true, data := tput 0 l.data i whole } else l)
    { k with cache := k.cache.filter (fun l => !(l.line.toNat == lineOf pa && l.filling == 0 && l.valid == 0 && l.dirty = [])) })
  (List.range 64).foldl (fun s g => s.accessAnswer c g (fun a =>
    if a.kind ≠ .load then none
    else a.answer (fun w => w.2.2.toNat / 128 == pa / 128) code
      (fun w => some (BitVec.ofNat 64 (sectorNum whole w.2.2.toNat (loadForm a.insn).bytes))))) s

/-- One lane's own request is answered. -/
def State.laneAnswer (s : State) (c : Nat) (g : BitVec 6) (lane : BitVec 5) (kind : AccKind) (code : BitVec 12) (v : Word) : State :=
  s.accessAnswer c g.toNat (fun a => if a.kind ≠ kind then none else a.answer (fun w => w.1 == lane) code (fun _ => some v))

/-- A Dead is answered at its cluster (R240). -/
def State.deadAnswer (s : State) (c : Nat) (g : BitVec 6) (pa : Nat) (code : BitVec 12) : State :=
  s.accessAnswer c g.toNat (fun a =>
    if a.kind ≠ .dead then none else a.answer (fun w => lineOf w.2.2.toNat == lineOf pa) code (fun _ => none))

/-! ### The frame of an answer -/

/-- A window access notes an answer (R371). -/
def State.winNote (s : State) (win : BitVec 12) (f : HeldAccess → HeldAccess) : State :=
  (s.modFabric (fun b => { b with held := b.held.map (fun a => if a.win = win ∧ a.pa.isSome then f a else a) })).winGo win

/-- The answer of a request under a generation that has passed is dropped: its tag is free (R341).  A window access that waited for it
is answered as one whose window is stale; a copy engine does its piece anew, unless a write of it has been performed. -/
def State.staleAnswer (s : State) (r : Req) (performed : Bool) : State :=
  match r.why with
  | .copyRead n => s.copyStale (r.msg.src.toNat - 0x200) n false
  | .copyWrite n => s.copyStale (r.msg.src.toNat - 0x200) n performed
  | .window win => s.winNote win (fun a => { a with code := 0xFFF })
  | .walk x page n => match s.walkOf r.msg.src x page n with
    | some w => (s.dropWalk w).walkEnded w.src.toNat
    | none => s
  | _ => s

/-- An answer reaches the source of a request: the tag is free, and what the request was for goes on. -/
def State.answered (s : State) (m : MemMsg) (f : State → Req → State) : State :=
  match s.reqOf m.src m.tag with
  | none => s
  | some r =>
    let s := s.dropReq m.src m.tag
    let core := decide (0x100 ≤ m.src.toNat ∧ m.src.toNat < 0x140)
    if !core && r.msg.gen.toNat != s.genOf r.msg.ctx.toNat then s.staleAnswer r (m.op == 2 || m.vc == 3) else f s r

/-- The core and the coherent request that an answer on VC1 belongs to. -/
def State.coreReqOf (s : State) (m : MemMsg) : Option (Nat × CoreReq) :=
  if 0x100 ≤ m.src.toNat ∧ m.src.toNat < 0x140 then
    ((s.core (m.src.toNat - 0x100)).reqs.find? (fun r => r.tag == m.tag)).map (fun r => (m.src.toNat - 0x100, r))
  else none

/-- A core's uncached access is answered: one at most is on its way (R270). -/
def State.coreAnswer (s : State) (n : Nat) (code : BitVec 12) (d : Sector) : State :=
  s.modCore n (fun k => { k with unc := k.unc.map (fun u => if u.answer.isNone then { u with answer := some (code, d) } else u) })

/-! ### The answers -/

/-- What an error does to the source of a request (R91, R125, R151, R215, R225, R243, R293, R300, R318, R482). -/
def State.errAnswer (s : State) (r : Req) (code : BitVec 12) : State :=
  let c := r.msg.src.toNat
  match r.why with
  | .fill => s.fillAnswer c r.msg.pa.toNat true none code
  | .fillOnce => s.fillAnswer c r.msg.pa.toNat false none code
  | .laneStore g l => s.laneAnswer c g l .store code 0
  | .laneAtomic g l => s.laneAnswer c g l .atomic code 0
  | .laneDead g => s.deadAnswer c g r.msg.pa.toNat code
  | .writeBack => s
  | .press t =>
    match (s.cluster c).press.ops.find? (fun o => o.ticket == t) with
    | some o => s.pressFault c o (if code = 1 then 0x0B else 0x0C)
    | none => s
  | .stream t =>
    let k := (s.cluster c).stream
    match (k.ops.find? (fun o => o.ticket == t)).map (fun o => o.group), (k.fills.find? (fun o => o.ticket == t)).map (fun o => o.group) with
    | some g, _ => s.streamFault c t g (if code = 1 then 0x16 else 0x15)
    | none, some g => s.streamFault c t g (if code = 1 then 0x16 else 0x15)
    | none, none => s
  | .walk x page n => match s.walkOf r.msg.src x page n with
    | some w => s.walkErr w code.toNat
    | none => s
  | .copyRead _ => s.copyErr (c - 0x200) false code.toNat
  | .copyWrite _ => s.copyErr (c - 0x200) true code.toNat
  | .window win => s.winNote win (fun a => { a with code := if a.code = 0 then code else a.code })
  | .coreAccess => s.coreAnswer (c - 0x100) code 0

/-- A copy engine whose fourth read of a sector fails its check on the way leaves a memory error record (R318). -/
def State.rereadRecord (s : State) (r : Req) : State :=
  match r.why with
  | .copyRead _ =>
    if (s.engine (r.msg.src.toNat - 0x200)).rereads = 3 then
      s.memError 2 (s.placeOf r.msg.pa.toNat).1 (pa := some r.msg.pa.toNat) (x := some r.msg.ctx.toNat)
    else s
  | _ => s

/-- DATA (R207, R218, R278, R294, R318, R371).  `bad` says that the data fails its code check on the way: a core's access faults (R287), a copy
engine reads again (R318), any other source takes it as uncorrectable (log 14). -/
def stepData (m : MemMsg) (bad : Bool) (s : State) : State :=
  if m.vc ≠ 1 ∨ m.op ≠ 1 then s
  else
    let s := s.arrive (.mem m)
    match s.coreReqOf m with
    | some (n, r) => s.noteReq n r.tag (fun r => { r with data := some m.data, bad := bad })
    | none => s.answered m (fun s r =>
      let src := m.src.toNat
      if bad then (s.rereadRecord r).errAnswer r 1 else
      match r.why with
      | .fill => s.fillAnswer src r.msg.pa.toNat true (some m.data) 0
      | .fillOnce => s.fillAnswer src r.msg.pa.toNat false (some m.data) 0
      | .walk x page n => match s.walkOf m.src x page n with
        | some w => s.walkData w m.data
        | none => s
      | .copyRead n =>
        let e := src - 0x200
        let k := s.engine e
        let a := Ent.src k.entry + k.done.toNat
        s.copyGot e (leBytes n (sectorNum m.data a n))
      | .window win =>
        s.winNote win (fun a => { a with got := writeBytes a.got r.msg.pa.toNat (sectorBytes m.data) })
      | .coreAccess => s.coreAnswer (src - 0x100) 0 m.data
      | _ => s)
def execData (x : DataIn) (s : State) : Host.Outcome State Fault Refusal := .next (stepData x.m x.bad s)

/-- DONE (R77, R102, R196, R221, R240, R318). -/
def stepDone (m : MemMsg) (s : State) : State :=
  if m.vc ≠ 1 ∨ m.op ≠ 2 then s
  else (s.arrive (.mem m)).answered m (fun s r =>
    let c := m.src.toNat
    match r.why with
    | .laneStore g l => s.laneAnswer c g l .store 0 0
    | .laneDead g => s.deadAnswer c g r.msg.pa.toNat 0
    | .press t =>
      match (s.cluster c).press.ops.find? (fun o => o.ticket == t && o.phase == .writing) with
      | some o => if s.sh.reqs.any (fun x => x.msg.src.toNat == c && x.why == .press t) then s else s.pressDone c o
      | none => s
    | .copyWrite n => s.copyPerformed (c - 0x200) n
    | .window win => s.winNote win id
    | .coreAccess => s.coreAnswer (c - 0x100) 0 0
    | _ => s)
def execDone (m : MemMsg) (s : State) : Host.Outcome State Fault Refusal := .next (stepDone m s)

/-- ATOMRES (R177, R178, R232). -/
def stepAtomRes (m : MemMsg) (s : State) : State :=
  if m.vc ≠ 1 ∨ m.op ≠ 3 then s
  else (s.arrive (.mem m)).answered m (fun s r => match r.why with
    | .laneAtomic g l => s.laneAnswer m.src.toNat g l .atomic 0 (BitVec.ofNat 64 (fld m.ctl 63 0))
    | _ => s)
def execAtomRes (m : MemMsg) (s : State) : Host.Outcome State Fault Refusal := .next (stepAtomRes m s)

/-- ERR (R91, R125, R151, R215, R225, R243, R287, R293, R300, R318, R482). -/
def stepErr (m : MemMsg) (s : State) : State :=
  if m.vc ≠ 1 ∨ m.op ≠ 4 then s
  else
    let s := s.arrive (.mem m)
    let code := m.attr
    match s.coreReqOf m with
    | some (n, r) => s.modCore n (fun k =>
        { k with reqs := k.reqs.filter (fun x => x.tag != r.tag), failed := k.failed ++ [r.pa] })
    | none => s.answered m (fun s r => s.errAnswer r code)
def execErr (m : MemMsg) (s : State) : Host.Outcome State Fault Refusal := .next (stepErr m s)

/-- RETRY: the source keeps the request and will send it again (R235, R238, R280). -/
def stepRetry (m : MemMsg) (s : State) : State :=
  if m.vc ≠ 1 ∨ m.op ≠ 5 then s
  else
    let s := s.arrive (.mem m)
    let core := decide (0x100 ≤ m.src.toNat ∧ m.src.toNat < 0x140)
    match s.reqOf m.src m.tag with
    | some r =>
      if !core && r.msg.gen.toNat != s.genOf r.msg.ctx.toNat then s.answered m (fun s _ => s)
      else s.modShared (fun h => { h with reqs := h.reqs.map (fun x => if x = r then { x with again := true } else x) })
    | none => if core then s.coreRetried (m.src.toNat - 0x100) m.tag else s
def execRetry (m : MemMsg) (s : State) : Host.Outcome State Fault Refusal := .next (stepRetry m s)

/-- REDDONE (R234, R318, R371). -/
def stepRedDone (m : MemMsg) (s : State) : State :=
  if m.vc ≠ 3 ∨ m.op ≠ 3 then s
  else (s.arrive (.mem m)).answered m (fun s r => match r.why with
    | .copyWrite n => s.copyPerformed (m.src.toNat - 0x200) n
    | .window win => s.winNote win id
    | _ => s)
def execRedDone (m : MemMsg) (s : State) : Host.Outcome State Fault Refusal := .next (stepRedDone m s)

/-- MAINTDONE: the second report of an admin command completes it, with the lines not locked as Info (R217, R331). -/
def stepMaintDone (m : MemMsg) (s : State) : State :=
  if m.vc ≠ 1 ∨ m.op ≠ 6 then s
  else
    let s := s.arrive (.mem m)
    let n : BitVec 32 := BitVec.ofNat 32 (fld m.ctl 31 0)
    if m.src.toNat < 0xFFE then s
    else match s.sh.maintGot.find? (fun g => g.1 == m.src) with
      | none => s.modShared (fun h => { h with maintGot := h.maintGot ++ [(m.src, n)] })
      | some g =>
        (s.modShared (fun h => { h with maintGot := h.maintGot.filter (fun o => o.1 != m.src) })).adminDone
          (m.src.toNat - 0xFFE) (g.2 + n).toNat
def execMaintDone (m : MemMsg) (s : State) : Host.Outcome State Fault Refusal := .next (stepMaintDone m s)

/-! ### Resending -/

/-- Send a refused request again. -/
def State.resend (s : State) (src : BitVec 12) (tag : BitVec 16) (p : MemMsg → Bool) : State :=
  match s.sh.reqs.find? (fun r => r.again && r.msg.src == src && r.msg.tag == tag && p r.msg) with
  | none => s
  | some r =>
    (s.modShared (fun h => { h with reqs := h.reqs.map (fun x => if x = r then { x with again := false } else x) })).sendMem r.msg

/-- QUIRE_RETRY_RESEND (R238). -/
def stepQuireRetryResend (src : BitVec 12) (tag : BitVec 16) (s : State) : State := s.resend src tag (fun m => !isRedOrd m)
def execQuireRetryResend (src : BitVec 12) (tag : BitVec 16) (s : State) : Host.Outcome State Fault Refusal :=
  .next (stepQuireRetryResend src tag s)

/-- REDORD_RESEND (R235, R371). -/
def stepRedordResend (src : BitVec 12) (tag : BitVec 16) (s : State) : State := s.resend src tag isRedOrd
def execRedordResend (src : BitVec 12) (tag : BitVec 16) (s : State) : Host.Outcome State Fault Refusal :=
  .next (stepRedordResend src tag s)

end Sys2Proof.Machine
end

