-- ==== Sys2Proof/Machine/Jobs.lean ====
section
/-!
DEFINITION. Job gates (R390-R394), and the step of a transit module, which takes up whatever message is delivered here (R376).
-/

namespace Sys2Proof.Machine

/-- Queues of a gate. -/
def Gate.queues (g : Gate) : List Nat := (List.range (g.countM1.toNat + 1)).map (fun i => g.queue.toNat + i)

/-- The queues of a gate leave State 6 (R391, R394); those of a held context stay. -/
def State.releaseQueues (s : State) (g : Gate) : State :=
  if fld (s.ctx g.ctx.toNat).status 29 28 ≠ 1 then s
  else g.queues.foldl (fun s q => s.modQueue q (fun k => if k.st = 6 then (k.setSt 5).settle else k)) s

/-- JOB_GATE_SET (R391). -/
def stepJobGateSet (aq : Bool) (s : State) : State :=
  s.admin aq 0x58 (fun s q e =>
    let g := fld e 479 476
    let x := fld e 443 432
    let k : Gate := { reg := BitVec.ofNat 64 (put 1 4 60 + put (fld e 475 444) 32 0), ctx := BitVec.ofNat 12 x,
                      queue := BitVec.ofNat 14 (fld e 431 418), countM1 := BitVec.ofNat 8 (fld e 417 410) }
    if 16384 < fld e 431 418 + fld e 417 410 + 1 then s.reject q 1
    else if fld (s.gate g).reg 63 60 ≠ 0 then s.reject q 2
    else if !k.queues.all (fun n => let u := s.queue n; u.st == 1 && u.ctx == x && u.type != 0) then s.reject q 2
    else
      let s := k.queues.foldl (fun s n => s.modQueue n (fun u => u.setSt 6)) s
      (s.modGate g (fun _ => k)).adminDone q)
def execJobGateSet (aq : Bool) (s : State) : Host.Outcome State Fault Refusal := .next (stepJobGateSet aq s)

/-- Bcast ports of the module. -/
def State.bcastPorts (s : State) : List Nat := (List.range 12).filter (fun i => bit (s.port i).record 26)

/-- Forward a JobArm (R392): every Bcast port but the one it came by; a port that is down, which a sleeping one is not (R403), is reported to the
root. -/
def State.forwardArm (s : State) (job root guard start : Nat) (from_ : Option Nat) : State :=
  let ports := s.bcastPorts.filter (fun i => from_ != some i)
  let up := ports.filter (fun i => (s.port i).takes)
  let down := ports.filter (fun i => !(s.port i).takes)
  let s := s.broadcastJob 0x13 (jobUnits job root 0 guard start) from_
  let j : JobForward := { job := BitVec.ofNat 32 job, root := BitVec.ofNat 24 root, s := BitVec.ofNat 64 start,
                          ports := up.map (BitVec.ofNat 4) }
  let s := s.modFabric (fun f => { f with forwards := f.forwards ++ [j] })
  down.foldl (fun s i => s.armNack job root (fld (s.port i).record 23 0) 3 start) s

/-- The root confirms once every listed member has acknowledged (R393). -/
def State.tryConfirm (s : State) (g : Nat) : State :=
  let k := s.gate g
  if fld k.reg 63 60 = 2 ∧ k.root ∧ k.members.all (fun n => k.acks.contains n) then
    let job := fld k.reg 31 0
    let s := s.modGate g (fun k => k.setState 3 0 0)
    let s := s.modFabric (fun f => { f with forwards := f.forwards.filter (fun j => j.job.toNat != job) })
    (s.broadcastJob 0x16 (jobUnits job 0 0 0 k.s.toNat) none).reportJob g
  else s

/-- JOB_START (R391, R393). -/
def stepJobStart (aq : Bool) (s : State) : State :=
  if s.adminTracked aq 0x59 (fun e => fld e 379 332) (fun e => 4 * fld e 331 308) then s
  else s.admin aq 0x59 (fun s q e =>
    let g := fld e 479 476
    let start := fld e 475 412
    let guard := fld e 411 380
    let n := fld e 331 308
    if !bit s.fabric.node 31 || fld (s.gate g).reg 63 60 != 1 then s.reject q 2
    else
      let got := s.readVA 0 (fld e 379 332) (4 * n)
      let s := s.noteVA 0 (fld e 379 332) (4 * n)
      match got with
      | none => s.reject q 1
      | some bs =>
        let members := (List.range n).map (fun i => BitVec.ofNat 24 (leNat ((bs.drop (4 * i)).take 4)))
        let job := fld (s.gate g).reg 31 0
        if start < guard ∨ start - guard ≤ s.launchCounter.toNat then
          ((s.modGate g (fun k => k.setState 5 4 0)).reportJob g).adminDone q
        else
          let own := BitVec.ofNat 24 s.ownNode
          let s := s.modGate g (fun k =>
            { k with s := BitVec.ofNat 64 start, guard := BitVec.ofNat 32 guard, members := members, acks := [own], root := true }.setState
              2 0 0)
          ((s.forwardArm job s.ownNode guard start none).tryConfirm g).adminDone q)
def execJobStart (aq : Bool) (s : State) : Host.Outcome State Fault Refusal := .next (stepJobStart aq s)

/-- JOB_GATE_CLEAR (R391). -/
def stepJobGateClear (aq : Bool) (s : State) : State :=
  s.admin aq 0x5A (fun s q e =>
    let g := fld e 479 476
    let k := s.gate g
    if fld k.reg 63 60 = 2 ∨ fld k.reg 63 60 = 3 then s.reject q 2
    else
      let s := if fld k.reg 63 60 = 0 ∨ fld k.reg 63 60 = 4 then s else s.releaseQueues k
      (s.modGate g (fun _ => {})).adminDone q)
def execJobGateClear (aq : Bool) (s : State) : Host.Outcome State Fault Refusal := .next (stepJobGateClear aq s)

/-! ### Job messages (R392-R394) -/

/-- JobArm at a module (R392). -/
def State.takeJobArm (s : State) (p : BitVec 4) (m : EMsg) : State :=
  let b := jobBody m
  let job := fld b 255 224
  let root := fld b 223 200
  let start := fld b 127 64
  let s := s.forwardArm job root (fld b 195 164) start (some p.toNat)
  match s.gateOf job [1] with
  | none => s
  | some g =>
    if !bit s.fabric.node 30 && !bit s.fabric.node 31 then s.armNack job root s.ownNode 2 start
    else if start ≤ s.launchCounter.toNat then s.armNack job root s.ownNode 5 start
    else
      (s.modGate g (fun k => { k with s := BitVec.ofNat 64 start, guard := BitVec.ofNat 32 (fld b 195 164) }.setState 2 0 0)).sendEtmos
        { vc := 2, len := 6, op := 0x14, dst := BitVec.ofNat 24 root, src := 0, units := jobUnits job s.ownNode 0 0 start }

/-- ArmAck at the root (R393). -/
def State.takeArmAck (s : State) (m : EMsg) : State :=
  let b := jobBody m
  match s.gateOf (fld b 255 224) [2] with
  | none => s
  | some g =>
    if !(s.gate g).root then s
    else (s.modGate g (fun k => { k with acks := k.acks ++ [BitVec.ofNat 24 (fld b 223 200)] })).tryConfirm g

/-- ArmNack at the root (R393). -/
def State.takeArmNack (s : State) (m : EMsg) : State :=
  let b := jobBody m
  s.rootAbort (fld b 255 224) (fld b 199 196) (fld b 223 200)

/-- A job is settled at this module: the message goes on over the broadcast tree. -/
def State.settleJob (s : State) (p : BitVec 4) (op : Nat) (m : EMsg) : State :=
  let job := fld (jobBody m) 255 224
  (s.modFabric (fun f => { f with forwards := f.forwards.filter (fun j => j.job.toNat != job) })).broadcastJob op m.units (some p.toNat)

/-- JobConfirm at a member (R394). -/
def State.takeJobConfirm (s : State) (p : BitVec 4) (m : EMsg) : State :=
  let s := s.settleJob p 0x16 m
  match s.gateOf (fld (jobBody m) 255 224) [2] with
  | none => s
  | some g => if s.launchCounter.toNat < (s.gate g).s.toNat then s.modGate g (fun k => k.setState 3 0 0) else s

/-- JobAbort at a member (R394). -/
def State.takeJobAbort (s : State) (p : BitVec 4) (m : EMsg) : State :=
  let b := jobBody m
  let s := s.settleJob p 0x17 m
  match s.gateOf (fld b 255 224) [1, 2] with
  | none => s
  | some g => s.modGate g (fun k => k.setState 5 (fld b 199 196) (fld b 223 200))

/-- JOBARM (R392). -/
def stepJobArm (p : BitVec 4) (m : EMsg) (s : State) : State := s.onMsg p m 2 0x13 (fun s m => s.takeJobArm p m)
def execJobArm (p : BitVec 4) (m : EMsg) (s : State) : Host.Outcome State Fault Refusal := .next (stepJobArm p m s)
/-- ARMACK (R393). -/
def stepArmAck (p : BitVec 4) (m : EMsg) (s : State) : State := s.onMsg p m 2 0x14 (fun s m => s.takeArmAck m)
def execArmAck (p : BitVec 4) (m : EMsg) (s : State) : Host.Outcome State Fault Refusal := .next (stepArmAck p m s)
/-- ARMNACK (R393). -/
def stepArmNack (p : BitVec 4) (m : EMsg) (s : State) : State := s.onMsg p m 2 0x15 (fun s m => s.takeArmNack m)
def execArmNack (p : BitVec 4) (m : EMsg) (s : State) : Host.Outcome State Fault Refusal := .next (stepArmNack p m s)
/-- JOBCONFIRM (R394). -/
def stepJobConfirm (p : BitVec 4) (m : EMsg) (s : State) : State := s.onMsg p m 2 0x16 (fun s m => s.takeJobConfirm p m)
def execJobConfirm (p : BitVec 4) (m : EMsg) (s : State) : Host.Outcome State Fault Refusal := .next (stepJobConfirm p m s)
/-- JOBABORT (R394). -/
def stepJobAbort (p : BitVec 4) (m : EMsg) (s : State) : State := s.onMsg p m 2 0x17 (fun s m => s.takeJobAbort p m)
def execJobAbort (p : BitVec 4) (m : EMsg) (s : State) : Host.Outcome State Fault Refusal := .next (stepJobAbort p m s)

/-- JOB_GUARD_EXPIRY: the counter has reached S − G at the root, which aborts naming the lowest-numbered silent member (R390, R393). -/
def stepJobGuardExpiry (gate : BitVec 4) (s : State) : State :=
  let k := s.gate gate.toNat
  if fld k.reg 63 60 ≠ 2 ∨ !k.root ∨ s.launchCounter.toNat < k.s.toNat - k.guard.toNat then s
  else
    let silent := (k.members.filter (fun n => !k.acks.contains n)).map BitVec.toNat
    s.rootAbort (fld k.reg 31 0) 1 (silent.foldl min 0xFFFFFF)
def execJobGuardExpiry (gate : BitVec 4) (s : State) : Host.Outcome State Fault Refusal := .next (stepJobGuardExpiry gate s)

/-- JOB_START_COUNT: the counter has reached S; a confirmed gate starts, an armed one is missed (R394). -/
def stepJobStartCount (gate : BitVec 4) (s : State) : State :=
  let g := gate.toNat
  let k := s.gate g
  if s.launchCounter.toNat < k.s.toNat then s
  else if fld k.reg 63 60 = 3 then (s.modGate g (fun k => k.setState 4 0 0)).releaseQueues k
  else if fld k.reg 63 60 = 2 then s.modGate g (fun k => k.setState 6 0 0)
  else s
def execJobStartCount (gate : BitVec 4) (s : State) : Host.Outcome State Fault Refusal := .next (stepJobStartCount gate s)

/-! ### Any message at a transit module (R376) -/

/-- A message that is delivered here reaches the unit that its opcode names (R370). -/
def State.deliver (s : State) (p : BitVec 4) (m : EMsg) : State :=
  match m.vc.toNat, m.op.toNat with
  | 0, 1 => s.takeAccess p 1 m
  | 0, 2 => s.takeAccess p 0 m
  | 0, 3 => s.takeAccess p 2 m
  | 0, 4 => s.takeAccess p 2 m
  | 1, 1 => s.takeWinData m
  | 1, 2 => s.takeWinRedDone m
  | 1, 3 => s.takeWinErr m
  | 2, 0x10 => s.takeMgmt m
  | 2, 0x12 => s.takePtp p m
  | 2, 0x13 => s.takeJobArm p m
  | 2, 0x14 => s.takeArmAck m
  | 2, 0x15 => s.takeArmNack m
  | 2, 0x16 => s.takeJobConfirm p m
  | 2, 0x17 => s.takeJobAbort p m
  | 3, 0x20 => s.takeCounterSync p m
  | 3, 0x21 => s.takeDelayProbe p m
  | 3, 0x22 => s.takeDelayReply p m
  | _, _ => s

/-- ETMOS_FORWARD (R376). -/
def stepEtmosForward (p : BitVec 4) (m : EMsg) (s : State) : State := s.receiveEtmos p m (fun s m => s.deliver p m)
def execEtmosForward (p : BitVec 4) (m : EMsg) (s : State) : Host.Outcome State Fault Refusal := .next (stepEtmosForward p m s)

end Sys2Proof.Machine
end

