-- ==== Sys2Proof/Machine/Sites.lean ====
section
/-!
DEFINITION. Shared sites (R35-R39): when a site may switch, what the outgoing logical cluster writes back and spills, and SITE_SWITCH.
-/

namespace Sys2Proof.Machine

/-- Whether an entry waits for a token that is not yet signalled. -/
def Entry.waitsToken (e : Entry) : Bool :=
  e.st == .waiting && (match e.wait with | .tokens _ => true | _ => false)

/-- Whether a cluster may leave its site (R37, R93, R126): no kernel work left, or every group ended, parked or waiting on a token; no array
phase, stream or fill in progress; and what it has sent has been answered (log 62). -/
def State.mayLeave (s : State) (c : Nat) : Bool :=
  let u := s.cluster c
  let still := fun (g : Group) => g.status != .running || (g.stack != [] && g.stack.all Entry.waitsToken)
  (match u.kernel with
   | none => true
   | some k => (List.range k.groups).all (fun g => still (u.group g))) &&
  u.press.ops.all (fun o => o.phase != .array) && u.stream.ops.all (fun o => o.phase == .queued) &&
  u.stream.fills.all (fun o => o.phase == .queued) &&
  !s.sh.reqs.any (fun r => r.msg.src.toNat == c)

/-! ### Spill slots (R38, R39) -/

/-- Number of the spill slot of a logical cluster that shares a site: the hosts and guests of the four dies in ascending order (R38). -/
def spillSlot (c : Nat) : Nat := 8 * (c / 32) + (if c % 32 < 28 then c % 32 else 4 + (c % 32 - 28))

/-- Address of the spill slot of a cluster (R38). -/
def State.slotBase (s : State) (c : Nat) : Nat := s.reservedBase + spillSlot c * 5242880

/-- The accumulator store of a cluster as bytes: twelve for each element, buffer 0 first (R39, log 79). -/
def Press.accBytes (p : Press) : List Byte := (List.range 32768).flatMap (fun i => leBytes 12 (tget {} p.acc i).val.toNat)

/-- The class tags and NaN origins of both buffers, three bits for each element (R39, R49, R50, log 79). -/
def Press.tagBytes (p : Press) : List Byte :=
  (List.range 4096).flatMap (fun i =>
    leBytes 3 ((List.range 8).foldl (fun a j =>
      let e := tget {} p.acc (8 * i + j)
      a + put e.tag.toNat 2 (3 * j) + putb e.org (3 * j + 2)) 0))

/-- An array of 128 by 128 entries of 16 bits as bytes. -/
def arrayBytes (t : Tbl (BitVec 16)) : List Byte := (List.range 16384).flatMap (fun i => leBytes 2 (tget 0 t i).toNat)

/-- The tile bytes of a finished-tile slot. -/
def Slot.image (s : Slot) : List Byte := readBytes s.bytes 0 65536

/-- State of a finished-tile slot, its header and its status record (R84, log 79). -/
def Slot.head (s : Slot) : List Byte :=
  leBytes 8 s.hdr.toNat ++ leBytes 8 s.status.toNat ++
    leBytes 8 (match s.st with | .free => 0 | .filling => 1 | .visible => 2 | .taken => 3)

/-- A queued Press operation: descriptor, ticket, group, phases and slot (log 79). -/
def PressOp.image (o : PressOp) : List Byte :=
  leBytes 32 o.desc.toNat ++ leBytes 8 (put o.ticket.toNat 8 0 + put o.group.toNat 6 8 + put o.slot.toNat 2 14 + putb o.orphan 16 +
    put (match o.phase with | .queued => 0 | .array => 1 | .arrayDone => 2 | .finishing => 3 | .writing => 4) 3 17 +
    put (match o.exp with | .unneeded => 0 | .needed => 1 | .running => 2 | .staged => 3) 2 20)

/-- A Sprig record: its constants and its instruction words (R103). -/
def Sprig.image (s : Sprig) : List Byte :=
  s.ks.flatMap (fun k => leBytes 8 k.toNat) ++ leBytes 8 s.ins.length ++ s.ins.flatMap (fun w => leBytes 4 w.toNat)

/-- A queued stream: descriptor, ticket and group, Sprig records (log 79). -/
def StreamOp.image (o : StreamOp) : List Byte :=
  leBytes 64 o.desc.toNat ++ leBytes 8 (put o.ticket.toNat 8 0 + put o.group.toNat 6 8) ++ o.s1.image ++ o.s2.image

/-- A queued fill or flush (log 79). -/
def FillOp.image (o : FillOp) : List Byte :=
  leBytes 8 o.va.toNat ++ leBytes 8 (put o.len.toNat 19 0 + put o.off.toNat 18 19 + put o.ticket.toNat 8 37 + put o.group.toNat 6 45 +
    putb o.flush 51)

/-- The state of one channel of the side reducer, by row (R119, log 79). -/
def sideBytes (t : Tbl Word) : List Byte := (List.range 128).flatMap (fun i => leBytes 8 (tget 0 t i).toNat)

/-- The last item of a spill slot: finished-tile slots, credits and tickets; token counts; side reducer and row factors; the three queues; cut
or filled with zeros to its 16 KiB (R39, R93, R126, R181, log 79). -/
def Cluster.controlImage (u : Cluster) : List Byte :=
  let p := u.press
  let e := u.stream
  let bs := p.slots.flatMap Slot.head ++
    leBytes 8 (put p.credits.toNat 3 0 + put p.creditsComing.toNat 3 3 + put p.nextSlot.toNat 2 6 + put p.nextTicket.toNat 8 8 +
      put e.nextTicket.toNat 8 16 + put p.ops.length 16 24 + put e.ops.length 12 40 + put e.fills.length 12 52) ++
    leBytes 8 (p.order.zipIdx.foldl (fun a (k, i) => a + put k.toNat 2 (2 * i)) 0) ++
    (List.range 64).flatMap (fun i => leBytes 2 (tget 0 u.tokens i).toNat) ++
    sideBytes e.side0 ++ sideBytes e.side1 ++ sideBytes e.pend0 ++ sideBytes e.pend1 ++
    (List.range 128).flatMap (fun i => leBytes 4 (tget 0 e.rowf i).toNat) ++
    p.ops.flatMap PressOp.image ++ e.ops.flatMap StreamOp.image ++ e.fills.flatMap FillOp.image
  bs.take 16384 ++ List.replicate (16384 - bs.length) 0

/-- What the spill slot of a cluster holds, in the order of the table of R39 (log 79). -/
def Cluster.spillImage (u : Cluster) (k : Kernel) : List Byte :=
  readBytes u.ls 0 k.lsBytes ++ (List.range k.groups).flatMap (fun g => (List.range 16384).map (u.group g).stateByte) ++
  u.press.accBytes ++ u.press.tagBytes ++ arrayBytes u.press.anchor ++ arrayBytes u.press.staging ++ readBytes u.stream.oc 0 262144 ++
  u.press.slots.flatMap Slot.image ++ u.controlImage

/-- Bytes of the spill slot that a cluster uses (R39). -/
def Kernel.spillBytes (k : Kernel) : Nat := k.lsBytes + 16384 * k.groups + 1011712

/-- Spill a cluster that has a kernel to its slot (R37, R38). -/
def State.spill (s : State) (c : Nat) : State :=
  match (s.cluster c).kernel with
  | none => s
  | some k =>
    (s.reservedWrite (spillSlot c * 5242880) ((s.cluster c).spillImage k)).modCluster c (fun u => { u with spilled := true })

/-! ### Filling a cluster from its slot (R37) -/

/-- A number of `n` bytes within an image. -/
def imageNat (img : List Byte) (off n : Nat) : Nat := leNat (sub_ img off n)

/-- A group takes its registers from its state image; what the image does not show stays with it. -/
def Group.fromImage (g : Group) (img : List Byte) : Group :=
  { g with x := tblOf 0 1024 (fun i => if i % 32 = 0 then 0 else BitVec.ofNat 64 (imageNat img (0x400 + 8 * i) 8)),
           f := tblOf 0 1024 (fun i => BitVec.ofNat 32 (imageNat img (0x2400 + 4 * i) 4)),
           fcsr := tblOf 0 32 (fun i => BitVec.ofNat 32 (imageNat img (0x3400 + 4 * i) 4)) }

/-- The Press takes its accumulator store with tags and origins, its arrays and the finished tiles from the items of a slot. -/
def Press.fromImage (p : Press) (img : List Byte) : Press :=
  { p with
    acc := tblOf {} 32768 (fun i =>
      let t := imageNat img (393216 + 3 * (i / 8)) 3 / 8 ^ (i % 8)
      { val := BitVec.ofNat 96 (imageNat img (12 * i) 12), tag := BitVec.ofNat 2 t, org := t.testBit 2 : AccEl }),
    anchor := tblOf 0 16384 (fun i => BitVec.ofNat 16 (imageNat img (405504 + 2 * i) 2)),
    staging := tblOf 0 16384 (fun i => BitVec.ofNat 16 (imageNat img (438272 + 2 * i) 2)),
    slots := p.slots.zipIdx.map (fun (k, i) => { k with bytes := writeBytes [] 0 (sub_ img (733184 + 65536 * i) 65536) }) }

/-- Codewords of 32 bytes within `n` bytes of an image from `off` on that lie in sectors that do not read. -/
def unreadable (bad : List Nat) (off n : Nat) : List Nat := (List.range (n / 32)).filter (fun w => bad.contains ((off + 32 * w) / 128))

/-- A cluster takes its state from the bytes of its slot, in which the sectors `bad` do not read: they leave marked codewords, and a marked
accumulator store (log 79).  What the last item holds stays with the cluster, which no one else can change (log 21). -/
def Cluster.fromImage (u : Cluster) (k : Kernel) (img : List Byte) (bad : List Nat) : Cluster :=
  let p := k.lsBytes + 16384 * k.groups
  { u with
    ls := writeBytes [] 0 (sub_ img 0 k.lsBytes), lsBad := unreadable bad 0 k.lsBytes,
    groups := tmap {} u.groups (fun g v => if g < k.groups then v.fromImage (sub_ img (k.lsBytes + 16384 * g) 16384) else v),
    press := u.press.fromImage (img.drop p),
    accBad := u.accBad || bad.any (fun i => decide (p ≤ 128 * i ∧ (128 * i < p + 471040 ∨ p + 733184 ≤ 128 * i))),
    stream := { u.stream with oc := writeBytes [] 0 (sub_ img (p + 471040) 262144), ocBad := unreadable bad (p + 471040) 262144 } }

/-- A group whose image does not read meets uncorrectable data in its registers: its kernel is replayed, or it parks with Reason 0x01 and
without resumption (R145, R147, R151). -/
def State.imageLost (s : State) (c g : Nat) (k : Kernel) : State :=
  if (s.group c g).status != .running then s
  else if s.mayReplay k then s.withdrawForReplay k
  else s.park c g { cause := 8, reason := 1, rs := false }

/-- The frame lines of a cluster are filled from its frame region (R37, R139, log 74). -/
def State.fillFrames (s : State) (c : Nat) (k : Kernel) : State :=
  let secs := s.frameSectors c k
  (secs.foldl (fun s p => s.noteRead p.2 (some k.ctx.toNat)) (s.noteFrames c k)).modCluster c (fun u =>
    { u with frame := secs.foldl (fun t p => writeBytes t p.1 (sectorBytes (s.viewSector p.2))) u.frame })

/-- Fill a cluster from its slot and its frame region, if it has been spilled for its kernel (R37). -/
def State.fillSite (s : State) (c : Nat) : State :=
  match (s.cluster c).kernel with
  | none => s
  | some k =>
    if !(s.cluster c).spilled then s
    else
      let base := s.slotBase c
      let n := k.spillBytes / 128
      let bad := (List.range n).filter (fun i => s.readErr (base + 128 * i) != 0)
      let img := s.viewBytes base k.spillBytes
      let s := ((List.range n).foldl (fun s i => s.noteRead (base + 128 * i) none) s).modCluster c (fun u => u.fromImage k img bad)
      let lost := fun (g : Nat) => bad.any (fun i => k.lsBytes ≤ 128 * i && (128 * i - k.lsBytes) / 16384 == g)
      ((List.range k.groups).filter lost).foldl (fun s g => s.imageLost c g k) (s.fillFrames c k)

/-! ### The switch -/

/-- The outgoing cluster's cache part, its frame lines with it, is written back and invalidated, and its state spilled (R37, R139). -/
def State.leaveSite (s : State) (c : Nat) : State :=
  let u := s.cluster c
  let s := match u.kernel with
    | some kn => u.cache.foldl (fun (s : State) l => s.writeBackLine c kn l) (s.writeBackFrames c kn)
    | none => s
  (s.spill c).modCluster c (fun u => { u with cache := [], resident := false })

/-- A site passes from one logical cluster to the other (R37). -/
def State.siteSwitch (s : State) (out in_ : Nat) : State :=
  ((s.leaveSite out).fillSite in_).modCluster in_ (fun u => { u with resident := true })

/-- Host and guest of shared site `k` of the die of logical clusters 32d to 32d + 31 (R35). -/
def siteHost (d k : Nat) : Nat := 32 * d + k
def siteGuest (d k : Nat) : Nat := 32 * d + 28 + k

/-- SITE_SWITCH (R37).  Die 3 + d holds clusters 32d to 32d + 31; the guest at offset 28 + k shares the site of the host at offset k.  The
incoming one waits until what it wrote back as it left has been performed. -/
def stepSiteSwitch (die : BitVec 3) (k : BitVec 2) (s : State) : State :=
  let host := siteHost (die.toNat - 3) k.toNat
  let guest := siteGuest (die.toNat - 3) k.toNat
  if die.toNat < 3 ∨ die = 7 ∨ !bit (s.mapEntry guest) 21 then s
  else
    let (out, in_) := if (s.cluster host).resident then (host, guest) else (guest, host)
    if s.mayLeave out && !s.sh.reqs.any (fun r => r.msg.src.toNat == in_) then s.siteSwitch out in_ else s
def execSiteSwitch (die : BitVec 3) (k : BitVec 2) (s : State) : Host.Outcome State Fault Refusal := .next (stepSiteSwitch die k s)

end Sys2Proof.Machine
end

