-- ==== Sys2Proof/Machine/Start.lean ====
section
/-!
DEFINITION. Cold start (R452-R456, R472) with its failures (R454), the start-up objects (R455), loss of input and MOD_EN (R472), and the end
of flash programming with the recovery loader's restart (R464, R465).
-/

namespace Sys2Proof.Machine

/-! ### Power (R472) -/

/-- What the next cold start knows of a channel: the positions flagged since its last training, and that it had failed (R254, R258, log 90). -/
def Channel.carried (k : Channel) : Channel := { flagged := k.flagged, failed := k.failed || chState k == 6 }

/-- The module with its rails off: only the flash, what a cold start knows of the channels and the sideband input last, and the commands that
wait. -/
def State.powerOff (s : State) : State :=
  let sec : Security := { flash := s.sec.flash, modEn := s.sec.modEn }
  { State.reset with pending := s.pending, free := s.free, sec := sec, channels := tmap {} s.channels (fun _ k => k.carried) }

/-- A cold start begins at a step that has just ended (R452).  The Cloche keeps an alert that has not been read, and a ModState that falls to 0
raises one (R470). -/
def State.startFrom (s : State) (step : Nat) : State :=
  let t := s.powerOff
  let changed := decide (s.modState ≠ 0)
  { t with coldStep := BitVec.ofNat 4 step, starting := true,
           sec := { t.sec with modEn := true, railsUp := [0xD], alertLow := s.sec.alertLow || changed,
                               alert := s.sec.alert ||| (if changed then 1 else 0) } }

/-- COLD_START: the input has stayed above 41 V for 20 ms while MOD_EN is high (R472). -/
def stepColdStart (s : State) : State := if s.coldStep = 0 ∧ s.sec.modEn then s.startFrom 1 else s
def execColdStart (s : State) : Host.Outcome State Fault Refusal := .next (stepColdStart s)

/-- INPUT_LOSS: every rail turns off, with no write-back (R472). -/
def stepInputLoss (s : State) : State := s.powerOff
def execInputLoss (s : State) : Host.Outcome State Fault Refusal := .next (stepInputLoss s)

/-- MOD_EN_FALL: every context stops, dirty Quire lines go to memory, and the rails but VAO turn off; a cold start under way ends, and memory
and the event log in it are lost (R472). -/
def stepModEnFall (s : State) : State :=
  if !s.sec.modEn then s
  else if s.coldStep = 0 then s.modSec (fun k => { k with modEn := false })
  else
    let s := ((s.stopAll.drainWrites).halfOff false).halfOff true
    ({ s with refuseWork := true, starting := false, mem := [], events := {} }).modSec (fun k => { k with modEn := false, modPg := false, shutting := true, railsUp := [0xD] })
def execModEnFall (s : State) : Host.Outcome State Fault Refusal := .next (stepModEnFall s)

/-- MOD_EN_RISE: while rails are turning off, the module completes the shutdown and starts again from step 1 (R472). -/
def stepModEnRise (s : State) : State :=
  if s.sec.shutting then s.startFrom 1 else s.modSec (fun k => { k with modEn := true })
def execModEnRise (s : State) : Host.Outcome State Fault Refusal := .next (stepModEnRise s)

/-! ### Failures (R454) -/

/-- Self-test results of some dies reach the identity record; a failure makes the module not serviceable (R454, R456, R459). -/
def State.selfTests (s : State) (r : ColdFindings) (dies : List Nat) : State :=
  dies.foldl (fun s d =>
    if bit r.selfTestFail d then (s.modSec (fun k => { k with selfTest := setB k.selfTest d true })).startFails d else s) s

def State.railsOn (s : State) (rs : List (BitVec 4)) : State := s.modSec (fun k => { k with railsUp := k.railsUp ++ rs })

/-! ### Steps 3 to 6 -/

/-- Step 3: PUF captured, ROM digest computed, Spine self-test and loop-back of its ports (R33, R452, R456, R460); an unlock challenge is drawn
(R467). -/
def State.coldSpine (s : State) (r : ColdFindings) : State :=
  let ch := BitVec.ofNat 256 (Config.random s.free).toNat
  let s : State := { s with free := s.free + 1 }
  let s := (s.railsOn [0xC]).modSec (fun k =>
    { k with puf := r.puf, meas := tput 0 k.meas 0 Config.romDigest, challenge := ch, selfTest := setB k.selfTest 0 (bit r.selfTestFail 0) })
  (if bit r.selfTestFail 0 then (s.deviceError 5 (die := 0)).setModState 2 else s).loopBacks r.loopBack [(1, false), (2, false)]

/-- Step 4: base dies powered and tested; West has eight ways of scratchpad, and leads unless it failed self-test (R215, R415, R452, R456). -/
def State.coldBases (s : State) (r : ColdFindings) : State :=
  let s := s.railsOn [0x8, 0x9]
  let s := (s.selfTests r [1, 2]).loopBacks r.loopBack [(0, false), (0, true), (1, true), (2, true), (3, false), (4, false), (5, false), (6, false)]
  let s := s.modSec (fun k => { k with agentFail := r.agentFail })
  let s := s.modHalf false (fun k => { k with part := BitVec.ofNat 64 (put 8 4 8) })
  let westFails := bit r.selfTestFail 1 || bit r.agentFail 0
  s.modPower (fun p => { p with status := setB p.status 59 westFails })

/-- Step 5: the image is read from flash into the West scratchpad, as far as ImageLen; of a bad header nothing is read (R443, R444). -/
def State.coldRead (s : State) : State :=
  if !headerOk (flashBytes s.sec.flash 0 4096) 5 then s
  else
    let len := leNat (flashBytes s.sec.flash 8 4)
    let fill := fun (t : Tbl Sector) (i : Nat) => tput 0 t i (ofSectorBytes (flashBytes s.sec.flash (128 * i) (min 128 (len - 128 * i))))
    let scratch := (List.range ((len + 127) / 128)).foldl fill s.west.scratch
    (s.modHalf false (fun k => { k with scratch := scratch })).modSec (fun k => { k with imageLen := len })

/-- Whether an Identity gathering is this module's (R454, R457, R458): its certificate verifies with Role 0x2 and agrees with the grade and
steppings, and the PUF key matches it (R446, R457). -/
def State.identityOk (s : State) (g : Gathering) : Bool :=
  let cert := g.last 2
  let helper := g.last 1
  leAt cert 0 4 == 0xA5C30418 && leAt cert 4 2 == 1 && verifySigned (sub_ cert 0 0xA0) (sub_ cert 0xA0 sigLen) 2 &&
  sub_ cert 0x20 8 == g.last 3 && s.keyMatches helper cert

/-- The Identity gathering is committed: identity record, certificate, ModuleId and identity key (R452, R457-R460). -/
def State.takeIdentity (s : State) (bs : List Byte) (g : Gathering) : State :=
  let s := (s.modSec (fun k =>
    { k with gathers := tput [] k.gathers 1 bs, verified := true, idKey := some (identityKey (g.last 1)) })).commitClass 1
  let id : Word := BitVec.ofNat 64 (digestNum (g.last 2)).toNat
  s.modHost (fun h => { h with moduleId := id })

/-- The recovery loader runs with every gathering that verified (R454, R465). -/
def State.recover (s : State) : State := (s.deviceError 5).setModState 3

/-- Bytes of the image that step 5 left in the West scratchpad. -/
def State.imageBytes (s : State) (off n : Nat) : List Byte :=
  (((List.range ((off % 128 + n + 127) / 128)).flatMap (fun i => sectorBytes (tget 0 s.west.scratch (off / 128 + i)))).drop (off % 128)).take n

/-- Step 6: every gathering of the image read is verified; with a bad header, which leaves none there, the Identity gathering is read from the
flash (R443-R449, R454). -/
def State.coldVerify (s : State) : State :=
  let slots := if headerOk (s.imageBytes 0 4096) 5 then imageSlots s.imageBytes else [(1, identityAt s.sec.flash)]
  match verifiedSlot 0 slots 1 with
  | none => s.startFails 7
  | some bs =>
    match signedGathering 0 bs with
    | none => s.startFails 7
    | some g =>
      if !s.identityOk g then s.startFails 7
      else
        let s := s.takeIdentity bs g
        let grade := s.sec.grade.toNat
        let kept := [2, 3, 4, 5].filterMap (fun c => (verifiedSlot grade slots c).map (fun b => (c, b)))
        let s := s.modSec (fun k => { k with gathers := kept.foldl (fun t p => tput [] t p.1 p.2) k.gathers })
        if kept.length = 4 ∧ slots.length = 5 then s else s.recover

/-! ### Steps 7 to 13 -/

/-- Step 7: Silicon is committed; the map's entries read Valid = 0 until step 10, and a guest's site runs its host first (R36, R37,
R452). -/
def State.coldSilicon (s : State) : State :=
  let s := s.commitClass 2
  let guests := (List.range 128).filter (fun c => bit (s.mapEntry c) 21)
  let clusters := guests.foldl (fun t c => tmod {} t c (fun u : Cluster => { u with resident := false })) s.clusters
  { s with clusterMap := tmap 0x70000000 s.clusterMap (fun _ e => setB e 31 false), clusters := clusters }

/-- Step 8 begins: every channel trains (R253, R452). -/
def State.coldChannels (s : State) : State :=
  (List.range 256).foldl (fun s c => s.modChannel c (fun k => k.setState 1)) (s.railsOn [0xA, 0xB])

/-- The records held enter the event log in order, each with the Time, context and generation of its event, under the next Seq
(R357, R452). -/
def State.flushHeld (s : State) : State :=
  let held := s.sec.heldEvents
  let s := s.modSec (fun k => { k with heldEvents := [] })
  held.foldl (fun s r => s.raise (setF r 479 416 s.events.next.toNat) (fld r 511 504)) s

/-- The firmware segments of a gathering, one after another as its records stand (R38, log 21). -/
def Gathering.segments (g : Gathering) : List Byte := (g.recs.filter (fun r => r.1 == 0x20)).flatMap (fun r => r.2.drop 16)

/-- Step 9: with more than 16 channels out the module is not serviceable (R257, R454); firmware segments are copied to their targets and to
the device-reserved region, which takes the verified copies of Identity and Silicon too (R38), and West's scratchpad is given back. -/
def State.coldFirmware (s : State) : State :=
  let s := if 16 < s.mOut then ({ s.deviceError 5 with refuseWork := true }).setModState 2 else s
  let s := match gatheringOf s.sec.grade.toNat (tget [] s.sec.gathers 3) with
    | some g => (s.applyGathering g).reservedWrite 0x0E000000 g.segments
    | none => s
  ((s.keepCopy 1).keepCopy 2).modHalf false (fun k => { k with part := 0, scratch := [], bad := [] })

/-- Step 10: compute dies powered and tested, the map valid, Firmware committed (R36, R452, R456). -/
def State.coldCompute (s : State) (r : ColdFindings) : State :=
  let s := s.railsOn [0x4, 0x5, 0x6, 0x7, 0x0, 0x1, 0x2, 0x3]
  let s := (s.selfTests r [3, 4, 5, 6]).loopBacks r.loopBack [(3, true), (4, true), (5, true), (6, true)]
  let bs := tget [] s.sec.gathers 3
  let s := s.modSec (fun k =>
    { k with modPg := true, fwSecVer := BitVec.ofNat 32 (leAt bs 0x0C 4), meas := tput 0 k.meas 3 (gatheringD bs) })
  { s with clusterMap := tmap 0x70000000 s.clusterMap (fun _ e => setB e 31 true) }

/-- CSR numbers of the first physical memory protection registers. -/
def csrPmpCfg0 : Nat := 0x3A0
def csrPmpAddr0 : Nat := 0x3B0

/-- Base of the device register aperture (R270). -/
def apertureBase : Nat := 0x070000000000

/-- The address of a naturally aligned region of a power of two bytes as a PMP address register spells it. -/
def napot (base size : Nat) : Word := BitVec.ofNat 64 (base / 4 + size / 8 - 1)

/-- Step 11: each core starts the runtime in M-mode with the PMP entries of R455; the runtime's entry address is a free value. -/
def State.coldCores (s : State) : State :=
  (List.range 64).foldl (fun s n =>
    let (pc, s) := s.fresh
    s.modCore n (fun k =>
      let c := tput 0 k.csr csrPmpCfg0 0x9898
      let c := tput 0 c csrPmpAddr0 (napot s.reservedBase (512 * 2 ^ 20))
      let c := tput 0 c (csrPmpAddr0 + 1) (napot (apertureBase + 0x93000) 0x1000)
      { k with pc := pc, csr := c, mode := 3 })) s

/-- Offset in the device-reserved region at which the model places the page tables of context 0 (log 45). -/
def ctx0Tables : Nat := 0x14000000

/-- A leaf of context 0: readable, writable, executable and pinned (log 45). -/
def ctx0Leaf (pa : Nat) : Nat := 2 ^ 56 + pa + 0x3B

/-- Entry `i` of table `t` of context 0: table 0 is the root, then the tables of 1 GiB leaves, and last one of 2 MiB leaves for the part of
1 GiB below the device-reserved region (R455). -/
def ctx0Entry (base reserved t i : Nat) : Nat :=
  let gib := reserved / 2 ^ 30
  let n := (gib + 512) / 512
  if t = 0 then (if i < n then base + 4096 * (i + 1) + 1 else 0)
  else if t ≤ n then
    let g := 512 * (t - 1) + i
    if g < gib then ctx0Leaf (g * 2 ^ 30) else if g = gib then base + 4096 * (n + 1) + 1 else 0
  else
    let a := gib * 2 ^ 30 + i * 2 ^ 21
    if a < reserved then ctx0Leaf a else 0

/-- The page tables of context 0 map the present stacked memory outside the device-reserved region onto itself (R455). -/
def State.ctx0Maps (s : State) : State :=
  let reserved := s.reservedBase
  let base := reserved + ctx0Tables
  let tables := (reserved / 2 ^ 30 + 512) / 512 + 2
  (List.range (32 * tables)).foldl (fun s k =>
    let es := (List.range 16).flatMap (fun j => leBytes 8 (ctx0Entry base reserved (k / 32) (16 * (k % 32) + j)))
    s.pokeSector (base + 128 * k) (ofSectorBytes es)) s

/-- Step 12: Power and then Trellis are committed; context 0, queues 0 and 1 and window 0 are set up (R351, R452, R455). -/
def State.coldObjects (s : State) : State :=
  let s := (s.commitClass 5).commitClass 4
  let s := (s.ctx0Maps).advanceGen 0
  let root := (s.reservedBase + ctx0Tables) / 4096
  let s := s.modCtx 0 (fun k =>
    { k with xlat := BitVec.ofNat 128 (put (fld k.xlat 63 60) 4 60 + put root 36 12 + 1),
             status := BitVec.ofNat 64 (put 1 2 28 + put 2 2 6 + putb true 5 + putb true 3), num := BitVec.ofNat 64 (putb true 8) })
  let q : Queue := { reg := BitVec.ofNat 128 (put 1 4 28 + 1), ringLog2 := 8 }
  let q0 : Queue := { q with cplHost := true, cplLog2 := 4 }
  let q1 : Queue := { q with ring := 0x200000, cpl := 0x220000, cplLog2 := 12 }
  let w0 : BitVec 128 := BitVec.ofNat 128 (putb true 127 + put 1 2 125 + putb true 124 + put (s.genOf 0) 4 106 + put 256 28 5)
  { s with queues := tput {} (tput {} s.queues 0 q0) 1 q1, windows := tput 0 s.windows 0 w0 }

/-- Step 13: the module is serviceable unless a failure says otherwise; the sequence has passed (R452, R470). -/
def State.coldDone (s : State) : State :=
  let s : State := { s with starting := false, coldStep := 15 }
  if s.modState = 0 then s.setModState 1 else s

/-- Whether links are up or have failed. -/
def State.linksSettled (s : State) (ls : List Nat) : Bool :=
  ls.all (fun l => let st := fld (s.linkEnd (2 * l)).status 7 4; st == 2 || st == 3)

/-- Whether the step in progress has ended and another may follow (R452, R454). -/
def State.coldStepEnded (s : State) : Bool :=
  match s.coldStep.toNat with
  | 1 => true
  | 2 => bit s.power.status 57
  | 3 => s.modState != 2
  | 4 => s.linksSettled [0, 1, 2]
  | 5 => true
  | 6 => s.sec.verified && s.modState != 3
  | 7 => true
  | 8 => s.channels.all (fun p => fld p.2.status 7 4 != 1)
  | 9 => true
  | 10 => s.linksSettled [3, 4, 5, 6]
  | 11 => true
  | 12 => true
  | _ => false

/-- The action of a cold-start step (R452). -/
def State.coldAction (s : State) (r : ColdFindings) (step : Nat) : State :=
  match step with
  | 3 => s.coldSpine r
  | 4 => s.coldBases r
  | 5 => s.coldRead
  | 6 => s.coldVerify
  | 7 => s.coldSilicon
  | 8 => s.coldChannels
  | 9 => (s.flushHeld).coldFirmware
  | 10 => s.coldCompute r
  | 11 => s.coldCores
  | 12 => s.coldObjects
  | 13 => s.coldDone
  | _ => s

/-- COLD_START_STEP: the next step begins once the one before it has ended (R452). -/
def stepColdStartStep (r : ColdFindings) (s : State) : State :=
  if !s.starting || !s.coldStepEnded then s
  else
    let n := s.coldStep.toNat + 1
    ({ s with coldStep := BitVec.ofNat 4 n }).coldAction r n
def execColdStartStep (r : ColdFindings) (s : State) : Host.Outcome State Fault Refusal := .next (stepColdStartStep r s)

/-! ### The end of programming (R464, R465) -/

/-- A cold start from step 3: flow and inlet are as sampled (R465). -/
def State.restartAtSpine (s : State) : State :=
  let p := s.power
  let t := s.startFrom 2
  { t with power := { t.power with status := setF (setF (setB 0 57 (bit p.status 57)) 27 20 (fld p.status 27 20)) 19 11 (fld p.status 19 11),
                                   flowSince := p.flowSince } }

/-- ENDPAPER_PROGRAMMING_DONE: the flash holds the image, or keeps a blank header; the recovery loader then starts again (R464, R465). -/
def stepEndpaperProgrammingDone (r : ProgrammingResult) (s : State) : State :=
  if s.sec.update ≠ 3 then s
  else match r with
    | .written =>
      let s := s.modSec (fun k =>
        { k with update := 4, detail := 0, flash := programmed k.flash k.imageLen k.full, imageLen := k.full.length, full := [] })
      if s.modState = 3 then s.restartAtSpine else s
    | .programError => s.modSec (fun k => { k with update := 6, detail := 6, full := [] })
    | .readBackMismatch => s.modSec (fun k => { k with update := 6, detail := 7, full := [] })
def execEndpaperProgrammingDone (r : ProgrammingResult) (s : State) : Host.Outcome State Fault Refusal :=
  .next (stepEndpaperProgrammingDone r s)

end Sys2Proof.Machine
end

