-- ==== Sys2Proof/Machine/Timed.lean ====
section
/-!
DEFINITION. Timed mode (R428-R432) and the digest engine (R439-R442).
-/

namespace Sys2Proof.Machine

/-! ### Timed mode (R428-R432) -/

/-- Why Timed mode with Enable = 1 is rejected (R428). -/
def State.timedBarred (s : State) : Bool :=
  decide (s.capInForce < 280) || s.split || !bit s.power.status 57 || decide (45 < fld s.power.status 27 20)

/-- The timed status register armed: On and Intact set, FirstBreach and LastKind cleared, the counters kept (R432). -/
def armTimed (v : BitVec 128) : BitVec 128 := setB (setB (setF (setF v 127 64 0) 61 58 0) 63 true) 62 true

/-- A cluster with no kernel in its run list is clock-gated (R398). -/
def Cluster.gateIdle (u : Cluster) : Cluster :=
  if u.clock == .running && u.runList.isEmpty && u.kernel.isNone then { u with clock := .clockGated } else u

/-- TIMED_MODE: every cluster's clock runs while the mode is on; once it ends, a cluster with no kernel in its run list is clock-gated again
(R398, R428, R429). -/
def stepTimedMode (aq : Bool) (s : State) : State :=
  s.admin aq 0x61 (fun s q e =>
    if bit e 479 then
      (if s.timedBarred then s.reject q 2
       else (({ s with timed := armTimed s.timed }.modPower (fun p => { p with timedMax := 16, timedCore := 8 })).runForTimed).adminDone q)
    else
      let s : State := { s with timed := setB s.timed 63 false }
      let s : State := { s with clusters := tmap {} s.clusters (fun _ u => u.gateIdle) }
      s.adminDone q)
def execTimedMode (aq : Bool) (s : State) : Host.Outcome State Fault Refusal := .next (stepTimedMode aq s)

/-! ### The digest engine (R439-R442) -/

namespace Dig
def ctx (e : BitVec 512) : Nat := fld e 479 468
def va (e : BitVec 512) : Nat := fld e 467 420
def len (e : BitVec 512) : Nat := fld e 419 380
def chunkLog (e : BitVec 512) : Nat := fld e 379 375
def rcd (e : BitVec 512) : Nat := fld e 374 327
def list (e : BitVec 512) : Nat := fld e 326 279
def listEn (e : BitVec 512) : Bool := bit e 278
def id (e : BitVec 512) : Nat := fld e 277 246
def recHost (e : BitVec 512) : Bool := bit e 245
/-- Chunks of the region (R440). -/
def chunks (e : BitVec 512) : Nat := (len e + 2 ^ chunkLog e - 1) / 2 ^ chunkLog e
end Dig

/-- Field checks of a Region digest (R439). -/
def digestOk (e : BitVec 512) : Bool :=
  Dig.va e % 4096 == 0 && Dig.len e % 4096 == 0 && decide (4096 ≤ Dig.len e) && decide (20 ≤ Dig.chunkLog e ∧ Dig.chunkLog e ≤ 30) &&
  Dig.rcd e % 64 == 0 && (!Dig.listEn e || Dig.list e % 64 == 0)

/-- REGION_DIGEST: the engine accepts the job; eight at most wait or run (R439). -/
def stepRegionDigest (aq : Bool) (s : State) : State :=
  s.admin aq 0x64 (fun s q e =>
    if !digestOk e then s.reject q 1
    else if fld (s.ctx (Dig.ctx e)).status 29 28 ≠ 1 then s.reject q 2
    else if 8 ≤ s.digests.length then s.reject q 3
    else
      let j : DigestJob := { cmd := e, gen := BitVec.ofNat 4 (s.genOf (Dig.ctx e)), next := 0, digests := [] }
      ({ s with digests := s.digests ++ [j] }).adminDone q)
def execRegionDigest (aq : Bool) (s : State) : Host.Outcome State Fault Refusal := .next (stepRegionDigest aq s)

/-- The line of a sector read with the evict-first hint holds it afterwards (R208, R212, R442); where no way is free at once the Quire keeps what it
has (log 15). -/
def State.fillRead (s : State) (pa : Nat) : State :=
  let h := homeEast pa
  let i := sectorOf pa
  let d := s.belowSector (sectorBase pa)
  let hold := fun (s : State) (w : Nat) => s.modHalf h (fun k => k.modWay (quireSet pa) w (fun l =>
    { l with data := tput 0 l.data i d, valid := setB l.valid i true }))
  if isScratch pa then s
  else match (s.half h).lineAt pa with
    | some (w, l) => if l.valid.getLsbD i || l.filling.getLsbD i || l.lost.getLsbD i then s else hold s w
    | none => match s.allocLine pa 2 with
      | .ok (s, w) => hold s w
      | .error _ => s

/-- What the engine reads of a sector, with the evict-first hint: its bytes, or the status with which the job ends (R442); a line absent from the Quire that deadhead
dropped counts DeadRead. -/
def State.digestSector (s : State) (x va : Nat) : Except Nat (List Byte × State) :=
  match s.walk x va with
  | .error _ => .error 2
  | .ok t =>
    let pa := t.addr va
    if t.remote || !t.pin || !t.r then .error 2
    else if s.readErr pa = 1 then .error 3
    else if s.readErr pa ≠ 0 then .error 2
    else .ok (sectorBytes (s.viewSector pa), ((s.noteWalk x va).noteRead pa (some x) (hint := 2)).fillRead pa)

/-- What a read that ends the job does beside (R249, R442). -/
def State.digestNote (s : State) (x va : Nat) : State :=
  let t := s.noteWalk x va
  match s.walk x va with
  | .ok e => if s.readErr (e.addr va) = 1 then t.noteRead (e.addr va) (some x) (hint := 2) else t
  | .error _ => t

/-- Read sectors in address order: their bytes, or the status and the first failing address. -/
def State.digestRead (x : Nat) : Nat → Nat → State → Except (Nat × Nat) (List Byte) × State
  | 0, _, s => (.ok [], s)
  | n + 1, va, s =>
    match s.digestSector x va with
    | .error st => (.error (st, va), s.digestNote x va)
    | .ok (bs, s) =>
      match State.digestRead x n (va + 128) s with
      | (.ok t, s) => (.ok (bs ++ t), s)
      | (.error e, s) => (.error e, s)

/-- The root digest of a region (R440). -/
def rootDigest (len chunkLog : Nat) (ds : List (List Byte)) : List Byte :=
  sha384 (leBytes 8 len ++ [BitVec.ofNat 8 chunkLog] ++ List.replicate 7 0 ++ ds.flatten)

/-- The digest record (R441). -/
def digestRecord (e : BitVec 512) (status fault root : Nat) : List Byte :=
  leBytes 64 (put status 8 504 + put (Dig.id e) 32 464 + put (Dig.chunks e) 32 432 + put fault 48 384 + put root 384 0)

/-- The job at the front ends with its record (R441, R442). -/
def State.endDigest (s : State) (e : BitVec 512) (status fault root : Nat) : State :=
  let s : State := { s with digests := s.digests.drop 1 }
  let r := digestRecord e status fault root
  if Dig.recHost e then s.hostSend { addr := BitVec.ofNat 64 (Dig.rcd e), bytes := r } else s.writeVA (Dig.ctx e) (Dig.rcd e) r

/-- DIGEST_CHUNK_DONE: the next chunk of the running job has been hashed; its digest goes to the list if one is asked for, and the last
ends the job (R440-R442). -/
def stepDigestChunkDone (s : State) : State :=
  match s.digests with
  | [] => s
  | j :: rest =>
    let e := j.cmd
    let x := Dig.ctx e
    let at_ := Dig.va e + j.next * 2 ^ Dig.chunkLog e
    let n := min (2 ^ Dig.chunkLog e) (Dig.len e - j.next * 2 ^ Dig.chunkLog e)
    if s.tracksVA x at_ n then s
    else match State.digestRead x (n / 128) at_ s with
    | (.error (st, va), s) => s.endDigest e st va 0
    | (.ok bs, s) =>
      let d := sha384 bs
      let s := if Dig.listEn e then s.writeVA x (Dig.list e + 48 * j.next) d else s
      let ds := j.digests ++ [d]
      if j.next + 1 < Dig.chunks e then { s with digests := { j with next := j.next + 1, digests := ds } :: rest }
      else s.endDigest e 1 0 (leNat (rootDigest (Dig.len e) (Dig.chunkLog e) ds))
def execDigestChunkDone (s : State) : Host.Outcome State Fault Refusal := .next (stepDigestChunkDone s)

end Sys2Proof.Machine
end

