-- ==== Sys2Proof/Machine/ZVec.lean ====
section
/-!
DEFINITION. The vector unit of a Zawick core (R268: VLEN 256, ELEN 64): the settings of vtype, register groups, and the arithmetic
instructions of the V extension with Zvbb and Zvfhmin, floating point rounded to nearest even (R45).  What they compute is taken from the
RISC-V specifications, which R268 names and the spec does not repeat (log 30).
-/

namespace Sys2Proof.Machine

/-! ### Settings and register groups -/

/-- VLMAX of a vtype: none where the setting is not supported. -/
def vlMax (vtype : Nat) : Option Nat :=
  let sew := 8 * 2 ^ (vtype / 8 % 8)
  let m := vtype % 8
  if vtype / 256 ≠ 0 ∨ 64 < sew ∨ m = 4 then none
  else
    let n := if m < 4 then 256 * 2 ^ m / sew else 256 / 2 ^ (8 - m) / sew
    if 4 < m ∧ 64 / 2 ^ (8 - m) < sew then none else some n

/-- Vector state has been written: VS is dirty. -/
def ZCore.vsDirty (k : ZCore) : ZCore :=
  let dirty := fun (k : ZCore) (n : Nat) => k.putCsr n (setF (k.getCsr n) 10 9 3)
  let k := dirty k Csr.mstatus
  if k.virt then dirty k Csr.vsstatus else k

/-- vsetvli, vsetivli and vsetvl. -/
def ZCore.vset (k : ZCore) (w : BitVec 32) : ZCore :=
  let vtype := if !bit w 31 then fld w 30 20 else if bit w 30 then fld w 29 20 else (k.getX (iRs2 w)).toNat
  let imm := bit w 31 && bit w 30
  let avl : Option Nat := if imm then some (iRs1 w) else if iRs1 w ≠ 0 then some (k.getX (iRs1 w)).toNat
    else if iRd w ≠ 0 then some (2 ^ 64) else none
  let k := (k.putCsr Csr.vstart 0).vsDirty
  match vlMax vtype with
  | none => ((k.putCsr Csr.vtype (1#64 <<< 63)).putCsr Csr.vl 0).setX (iRd w) 0
  | some mx =>
    let vl := min mx (avl.getD (k.getCsr Csr.vl).toNat)
    ((k.putCsr Csr.vtype (BitVec.ofNat 64 vtype)).putCsr Csr.vl (BitVec.ofNat 64 vl)).setX (iRd w) (BitVec.ofNat 64 vl)

/-- Element `j` of `b` bytes of a vector register group. -/
def ZCore.velem (k : ZCore) (r b j : Nat) : Nat :=
  let o := j * b
  leNat (((leBytes 32 (tget 0 k.v (r + o / 32)).toNat).drop (o % 32)).take b)
def ZCore.setVelem (k : ZCore) (r b j x : Nat) : ZCore :=
  let o := j * b
  { k with v := tmod 0 k.v (r + o / 32) (fun v => setF v (8 * (o % 32 + b) - 1) (8 * (o % 32)) x) }
/-- Bit `j` of a mask register. -/
def ZCore.vbit (k : ZCore) (r j : Nat) : Bool := (tget 0 k.v r).getLsbD j
def ZCore.setVbit (k : ZCore) (r j : Nat) (b : Bool) : ZCore := { k with v := tmod 0 k.v r (fun v => setB v j b) }

/-- What an arithmetic instruction works under: SEW in bits, LMUL in eighths, vl, vstart, the agnostic bits and the fixed-point rounding
mode. -/
structure VSet where
  sew : Nat
  mul : Nat
  vl : Nat
  start : Nat
  ta : Bool
  ma : Bool
  rm : Nat
deriving DecidableEq, Repr

def ZCore.vsettings (k : ZCore) : VSet :=
  let t := (k.getCsr Csr.vtype).toNat
  { sew := 8 * 2 ^ (t / 8 % 8), mul := if t % 8 < 4 then 8 * 2 ^ (t % 8) else 2 ^ (t % 8) / 32, vl := (k.getCsr Csr.vl).toNat,
    start := (k.getCsr Csr.vstart).toNat, ta := t.testBit 6, ma := t.testBit 7, rm := (k.getCsr 0x00F).toNat / 2 % 4 }

/-- Elements a register group of LMUL holds. -/
def VSet.vlmax (c : VSet) : Nat := 32 * c.mul / c.sew

/-- LMUL in eighths of an operand of another element width; a mask takes one register. -/
def VSet.emul (c : VSet) (e : Nat) : Nat := if e = 1 then 8 else c.mul * e / c.sew
/-- Registers of such an operand. -/
def VSet.regs (c : VSet) (e : Nat) : Nat := max 1 (c.emul e / 8)

/-- Whether an operand of an element width may start at a register. -/
def VSet.operandOk (c : VSet) (e r : Nat) : Bool :=
  e == 1 || (decide (8 ≤ e ∧ e ≤ 64 ∧ c.sew ≤ c.mul * e ∧ c.emul e ≤ 64) && r % c.regs e == 0)

/-- Whether a destination may overlap a source: apart, of equal width, in the lowest part of a wider source, or in the highest part of the
destination for a narrower source of at least one register. -/
def VSet.overlapOk (c : VSet) (ed rd es rs : Nat) : Bool :=
  let nd := c.regs ed
  let ns := c.regs es
  decide (rd + nd ≤ rs ∨ rs + ns ≤ rd) || ed == es || (decide (ed < es) && rd == rs) ||
  (decide (es < ed) && decide (8 ≤ c.emul es) && rd + nd == rs + ns)

/-- Whether a destination is apart from a source. -/
def VSet.apart (c : VSet) (ed rd es rs : Nat) : Bool := decide (rd + c.regs ed ≤ rs ∨ rs + c.regs es ≤ rd)

/-! ### Operations on one element: the old destination, the operand of vs2, the second operand and the mask bit give the result, the
floating-point flags and the saturation -/

/-- An operation on elements: widths in bits of the destination (1 for a mask), of vs2 and of vs1; whether the mask is an operand, and the
operation. -/
structure VForm where
  ed : Nat
  e2 : Nat
  e1 : Nat
  carry : Bool := false
  f : Nat → Nat → Nat → Bool → Nat × Nat × Bool

/-- An integer operation at SEW. -/
def vsame (w : Nat) (f : Nat → Nat → Nat) : Option VForm := some { ed := w, e2 := w, e1 := w, f := fun _ a b _ => (f a b, 0, false) }
/-- A comparison into a mask. -/
def vcmp (w : Nat) (f : Nat → Nat → Bool) : Option VForm :=
  some { ed := 1, e2 := w, e1 := w, f := fun _ a b _ => (if f a b then 1 else 0, 0, false) }

/-- Fixed-point rounding of a value by `d` bits (vxrm: nearest up, nearest even, down, odd). -/
def vround (rm : Nat) (v : Int) (d : Nat) : Int :=
  let q := v / (2 ^ d : Nat)
  let r := (v % (2 ^ d : Nat)).toNat
  let half := 2 ^ d / 2
  let up := match rm with
    | 0 => decide (d ≠ 0 ∧ half ≤ r)
    | 1 => decide (d ≠ 0 ∧ (half < r ∨ (r = half ∧ q % 2 = 1)))
    | 2 => false
    | _ => decide (q % 2 = 0 ∧ r ≠ 0)
  if up then q + 1 else q

/-- A value held to the range of `w` bits, and whether it had to be. -/
def vclip (w : Nat) (signed : Bool) (v : Int) : Nat × Nat × Bool :=
  let lo : Int := if signed then -((2 ^ (w - 1) : Nat) : Int) else 0
  let hi : Int := if signed then (2 ^ (w - 1) : Nat) - 1 else (2 ^ w : Nat) - 1
  if v < lo then (unsint w lo, 0, true) else if hi < v then (unsint w hi, 0, true) else (unsint w v, 0, false)

/-- Integer, fixed-point and bit operations of OPIVV, OPIVX and OPIVI. -/
def opiForm (w : BitVec 32) (c : VSet) : Option VForm :=
  let f3 := iF3 w
  let vv := f3 == 0
  let vi := f3 == 3
  let n := c.sew
  let s := sint n
  let when_ := fun (b : Bool) (r : Option VForm) => if b then r else none
  let sf := fun (signed : Bool) (f : Int → Int → Int) (_ a b : Nat) (_ : Bool) => vclip n signed (if signed then f (s a) (s b) else f a b)
  let sat := fun (signed : Bool) (f : Int → Int → Int) => some ({ ed := n, e2 := n, e1 := n, f := sf signed f } : VForm)
  let narrow := fun (f : Nat → Nat → Nat × Nat × Bool) => some ({ ed := n, e2 := 2 * n, e1 := n, f := fun _ a b _ => f a (b % (2 * n)) } : VForm)
  let cf := fun (mask : Bool) (f : Nat → Nat → Nat → Int) (_ a b : Nat) (m : Bool) =>
    let r := f a b (if m && !bit w 25 then 1 else 0)
    ((if mask then (if r < 0 ∨ (2 ^ n : Nat) ≤ r then 1 else 0) else unsint n r, 0, false) : Nat × Nat × Bool)
  let addc := fun (mask : Bool) (f : Nat → Nat → Nat → Int) =>
    when_ (mask || !bit w 25) (some ({ ed := if mask then 1 else n, e2 := n, e1 := n, carry := true, f := cf mask f } : VForm))
  match fld w 31 26 with
  | 0x00 => vsame n (fun a b => (a + b) % 2 ^ n)
  | 0x01 => when_ (!vi) (vsame n (fun a b => a &&& (2 ^ n - 1 - b)))
  | 0x02 => when_ (!vi) (vsame n (fun a b => (a + 2 ^ n - b) % 2 ^ n))
  | 0x03 => when_ (!vv) (vsame n (fun a b => (b + 2 ^ n - a) % 2 ^ n))
  | 0x04 => when_ (!vi) (vsame n min)
  | 0x05 => when_ (!vi) (vsame n (fun a b => if s a < s b then a else b))
  | 0x06 => when_ (!vi) (vsame n max)
  | 0x07 => when_ (!vi) (vsame n (fun a b => if s a < s b then b else a))
  | 0x09 => vsame n (fun a b => a &&& b)
  | 0x0A => vsame n (fun a b => a ||| b)
  | 0x0B => vsame n (fun a b => a ^^^ b)
  | 0x10 => addc false (fun a b m => ((a + b + m : Nat) : Int))
  | 0x11 => addc true (fun a b m => ((a + b + m : Nat) : Int))
  | 0x12 => when_ (!vi) (addc false (fun a b m => (a : Int) - b - m))
  | 0x13 => when_ (!vi) (addc true (fun a b m => (a : Int) - b - m))
  | 0x14 => vsame n (fun a b => rotl n a ((n - (if vi then iRs1 w else b) % n) % n))
  | 0x15 => if vi then vsame n (fun a _ => rotl n a ((n - (32 + iRs1 w) % n) % n)) else vsame n (fun a b => rotl n a (b % n))
  | 0x17 =>
    if bit w 25 then when_ (iRs2 w == 0) (vsame n (fun _ b => b))
    else some { ed := n, e2 := n, e1 := n, carry := true, f := fun _ a b m => (if m then b else a, 0, false) }
  | 0x18 => vcmp n (fun a b => a == b)
  | 0x19 => vcmp n (fun a b => a != b)
  | 0x1A => when_ (!vi) (vcmp n (fun a b => decide (a < b)))
  | 0x1B => when_ (!vi) (vcmp n (fun a b => decide (s a < s b)))
  | 0x1C => vcmp n (fun a b => decide (a ≤ b))
  | 0x1D => vcmp n (fun a b => decide (s a ≤ s b))
  | 0x1E => when_ (!vv) (vcmp n (fun a b => decide (b < a)))
  | 0x1F => when_ (!vv) (vcmp n (fun a b => decide (s b < s a)))
  | 0x20 => sat false (fun a b => a + b)
  | 0x21 => sat true (fun a b => a + b)
  | 0x22 => when_ (!vi) (sat false (fun a b => a - b))
  | 0x23 => when_ (!vi) (sat true (fun a b => a - b))
  | 0x25 => vsame n (fun a b => a * 2 ^ (b % n) % 2 ^ n)
  | 0x27 => when_ (!vi) (some { ed := n, e2 := n, e1 := n, f := fun _ a b _ => vclip n true (vround c.rm (s a * s b) (n - 1)) })
  | 0x28 => vsame n (fun a b => a / 2 ^ (b % n))
  | 0x29 => vsame n (fun a b => unsint n (s a / (2 ^ (b % n) : Nat)))
  | 0x2A => vsame n (fun a b => unsint n (vround c.rm a (b % n)))
  | 0x2B => vsame n (fun a b => unsint n (vround c.rm (s a) (b % n)))
  | 0x2C => narrow (fun a b => (a / 2 ^ b % 2 ^ n, 0, false))
  | 0x2D => narrow (fun a b => (unsint n (sint (2 * n) a / (2 ^ b : Nat)), 0, false))
  | 0x2E => narrow (fun a b => vclip n false (vround c.rm a b))
  | 0x2F => narrow (fun a b => vclip n true (vround c.rm (sint (2 * n) a) b))
  | 0x35 => some { ed := 2 * n, e2 := n, e1 := n, f := fun _ a b _ => (a * 2 ^ (b % (2 * n)) % 2 ^ (2 * n), 0, false) }
  | _ => none

/-- Unary operations of OPMVV: extensions, reversals and counts. -/
def vunary (w : BitVec 32) (n : Nat) : Option VForm :=
  let ext := fun (d : Nat) (signed : Bool) => some ({ ed := n, e2 := n / d, e1 := 1, f := fun _ a _ _ =>
    (if signed then unsint n (sint (n / d) a) else a, 0, false) } : VForm)
  let one := fun (f : Nat → Nat) => some ({ ed := n, e2 := n, e1 := 1, f := fun _ a _ _ => (f a, 0, false) } : VForm)
  let rev := fun (k a : Nat) => (List.range k).foldl (fun r i => if a.testBit i then r + 2 ^ (k - 1 - i) else r) 0
  match iRs1 w with
  | 2 => ext 8 false
  | 3 => ext 8 true
  | 4 => ext 4 false
  | 5 => ext 4 true
  | 6 => ext 2 false
  | 7 => ext 2 true
  | 8 => one (fun a => leNat ((leBytes (n / 8) a).map (fun b => BitVec.ofNat 8 (rev 8 b.toNat))))
  | 9 => one (fun a => beNat (leBytes (n / 8) a))
  | 10 => one (rev n)
  | 12 => one (clzN n)
  | 13 => one (ctzN n)
  | 14 => one (cpopN n)
  | _ => none

/-- Multiplications, divisions, averages and widening operations of OPMVV and OPMVX. -/
def opmForm (w : BitVec 32) (c : VSet) : Option VForm :=
  let vv := iF3 w == 2
  let n := c.sew
  let s := sint n
  let u := fun (a : Nat) => (a : Int)
  let avg := fun (f : Nat → Nat → Int) => vsame n (fun a b => unsint n (vround c.rm (f a b) 1))
  let high := fun (f : Nat → Nat → Int) => vsame n (fun a b => unsint n (f a b / (2 ^ n : Nat)))
  let acc := fun (f : Int → Int → Int → Int) => some ({ ed := n, e2 := n, e1 := n, f := fun d a b _ => (unsint n (f d a b), 0, false) } : VForm)
  let wide := fun (e2 : Nat) (f : Int → Nat → Nat → Int) => some ({ ed := 2 * n, e2 := e2, e1 := n, f := fun d a b _ =>
    (unsint (2 * n) (f d a b), 0, false) } : VForm)
  let s2 := sint (2 * n)
  match fld w 31 26 with
  | 0x08 => avg (fun a b => u a + u b)
  | 0x09 => avg (fun a b => s a + s b)
  | 0x0A => avg (fun a b => u a - u b)
  | 0x0B => avg (fun a b => s a - s b)
  | 0x12 => if vv then vunary w n else none
  | 0x20 => vsame n (fun a b => if b = 0 then 2 ^ n - 1 else a / b)
  | 0x21 => vsame n (fun a b => if b = 0 then 2 ^ n - 1 else unsint n (Int.tdiv (s a) (s b)))
  | 0x22 => vsame n (fun a b => if b = 0 then a else a % b)
  | 0x23 => vsame n (fun a b => if b = 0 then a else unsint n (Int.tmod (s a) (s b)))
  | 0x24 => high (fun a b => u a * u b)
  | 0x25 => vsame n (fun a b => a * b % 2 ^ n)
  | 0x26 => high (fun a b => s a * u b)
  | 0x27 => high (fun a b => s a * s b)
  | 0x29 => acc (fun d a b => d * b + a)
  | 0x2B => acc (fun d a b => a - d * b)
  | 0x2D => acc (fun d a b => d + a * b)
  | 0x2F => acc (fun d a b => d - a * b)
  | 0x30 => wide n (fun _ a b => u a + u b)
  | 0x31 => wide n (fun _ a b => s a + s b)
  | 0x32 => wide n (fun _ a b => u a - u b)
  | 0x33 => wide n (fun _ a b => s a - s b)
  | 0x34 => wide (2 * n) (fun _ a b => u a + u b)
  | 0x35 => wide (2 * n) (fun _ a b => s2 a + s b)
  | 0x36 => wide (2 * n) (fun _ a b => u a - u b)
  | 0x37 => wide (2 * n) (fun _ a b => s2 a - s b)
  | 0x38 => wide n (fun _ a b => u a * u b)
  | 0x3A => wide n (fun _ a b => s a * u b)
  | 0x3B => wide n (fun _ a b => s a * s b)
  | 0x3C => wide n (fun d a b => d + u a * u b)
  | 0x3D => wide n (fun d a b => d + s a * s b)
  | 0x3E => if vv then none else wide n (fun d a b => d + s a * u b)
  | 0x3F => wide n (fun d a b => d + u a * s b)
  | _ => none

/-! ### Floating point -/

/-- The format of an element width. -/
def vfmt (n : Nat) : Option FloatFmt := match n with | 16 => some fp16 | 32 => some fp32 | 64 => some fp64 | _ => none

/-- A float to an integer of `n` bits, rounded to nearest even or truncated. -/
def vtoInt (f : FloatFmt) (n : Nat) (signed trunc : Bool) (a : Nat) : Nat × Nat × Bool :=
  let top : Int := if signed then (2 ^ (n - 1) : Nat) - 1 else (2 ^ n : Nat) - 1
  let lo : Int := if signed then -((2 ^ (n - 1) : Nat) : Int) else 0
  let r : Int × Nat := match f.decode a with
    | .fin neg m e =>
      if !trunc then f.toIntOut n signed top a
      else
        let q := if 0 ≤ e then m <<< e.toNat else m >>> (-e).toNat
        let v : Int := if neg then -(q : Int) else q
        if v < lo then (lo, flNV) else if top < v then (top, flNV)
        else (v, if e < 0 ∧ m % 2 ^ (-e).toNat ≠ 0 then flNX else 0)
    | _ => f.toIntOut n signed top a
  (unsint n r.1, r.2, false)

/-- A float narrowed with rounding to odd. -/
def vroundOdd (src dst : FloatFmt) (a : Nat) : Nat × Nat × Bool :=
  match src.decode a with
  | .fin neg m e =>
    if m = 0 then (dst.pack neg { mant := 0, q := 0, overflow := false, inexact := false, tiny := false }, 0, false)
    else
      let top : Int := e + (m.log2 : Int)
      let q : Int := max (top - dst.fb) (dst.emin - dst.fb)
      let lost := decide (e < q) && decide (m % 2 ^ (q - e).toNat ≠ 0)
      let t := if q ≤ e then m <<< (e - q).toNat else m >>> (q - e).toNat
      if dst.emax < top then (dst.maxBits neg, flOF + flNX, false)
      else (dst.pack neg { mant := if lost then t ||| 1 else t, q := q, overflow := false, inexact := lost, tiny := false },
            (if lost then flNX else 0) + (if lost ∧ top < dst.emin then flUF else 0), false)
  | _ => let r := src.convOut dst a; (r.bits, r.flags, false)

/-- The fraction and exponent of a positive finite value other than zero: its exponent field, lower by one for each place that a subnormal one is
moved, and the fraction below its leading one. -/
def normFrac (f : FloatFmt) (a : Nat) : Int × Nat :=
  let ex := a / 2 ^ f.fb % 2 ^ f.eb
  let fr := a % 2 ^ f.fb
  if ex ≠ 0 then (ex, fr)
  else
    let up := f.fb - fr.log2
    (1 - (up : Int), fr * 2 ^ up % 2 ^ f.fb)

/-- Seven bits of the reciprocal of 1 + (i + 1/2)/128. -/
def rec7 (i : Nat) : Nat := (131072 - 255 * (257 + 2 * i)) / (2 * (257 + 2 * i))
/-- Seven bits of the reciprocal square root at the midpoint that an index names. -/
def rsqrt7 (i : Nat) : Nat :=
  (FVal.isqrt (if i < 64 then 16777216 / (129 + 2 * i) else 33554432 / (1 + 2 * i)) + 1) / 2 - 128

/-- vfrec7. -/
def vfrec7 (f : FloatFmt) (a : Nat) : Nat × Nat × Bool :=
  let neg := a.testBit (f.eb + f.fb)
  let sign := if neg then 2 ^ (f.eb + f.fb) else 0
  match f.decode a with
  | .nan => (f.canonNaN, if f.isSNaN a then flNV else 0, false)
  | .inf _ => (sign, 0, false)
  | .fin _ 0 _ => (f.infBits neg, flDZ, false)
  | _ =>
    let (ex, fr) := normFrac f a
    if ex < -1 then (f.infBits neg, flOF + flNX, false)
    else
      let sig := rec7 (fr / 2 ^ (f.fb - 7)) * 2 ^ (f.fb - 7)
      let out : Int := 2 * f.bias - 1 - ex
      if 0 < out then (sign + out.toNat * 2 ^ f.fb + sig, 0, false)
      else if out = 0 then (sign + sig / 2 + 2 ^ (f.fb - 1), 0, false)
      else (sign + (sig / 2 + 2 ^ (f.fb - 1)) / 2, 0, false)

/-- vfrsqrt7. -/
def vfrsqrt7 (f : FloatFmt) (a : Nat) : Nat × Nat × Bool :=
  match f.decode a with
  | .nan => (f.canonNaN, if f.isSNaN a then flNV else 0, false)
  | .fin n 0 _ => (f.infBits n, flDZ, false)
  | .inf n => if n then (f.canonNaN, flNV, false) else (0, 0, false)
  | .fin true _ _ => (f.canonNaN, flNV, false)
  | _ =>
    let (ex, fr) := normFrac f a
    let i := (if ex % 2 = 0 then 0 else 64) + fr / 2 ^ (f.fb - 6)
    let out : Int := (3 * f.bias - 1 - ex) / 2
    (out.toNat * 2 ^ f.fb + rsqrt7 i * 2 ^ (f.fb - 7), 0, false)

/-- Conversions (VFUNARY0) and the operations of VFUNARY1. -/
def vfunary (w : BitVec 32) (n : Nat) : Option VForm :=
  let un := fun (ed e2 : Nat) (f : Nat → Nat × Nat × Bool) => some ({ ed := ed, e2 := e2, e1 := 1, f := fun _ a _ _ => f a } : VForm)
  let out := fun (r : FOut) => (r.bits, r.flags, false)
  let k := iRs1 w
  let conv := fun (ed e2 : Nat) (k : Nat) =>
    match k, vfmt ed, vfmt e2 with
    | 0, _, some f => un ed e2 (vtoInt f ed false false)
    | 1, _, some f => un ed e2 (vtoInt f ed true false)
    | 2, some f, _ => un ed e2 (fun a => out (f.ofIntOut (a : Int)))
    | 3, some f, _ => un ed e2 (fun a => out (f.ofIntOut (sint e2 a)))
    | 4, some d, some f => un ed e2 (fun a => out (f.convOut d a))
    | 5, some d, some f => un ed e2 (vroundOdd f d)
    | 6, _, some f => un ed e2 (vtoInt f ed false true)
    | 7, _, some f => un ed e2 (vtoInt f ed true true)
    | _, _, _ => none
  let half := n = 16
  if fld w 31 26 = 0x12 then
    (if k < 8 then (if half ∨ n = 8 ∨ k = 4 ∨ k = 5 then none else conv n n k)
     else if k < 16 then (if k = 13 ∨ n = 64 ∨ (half ∧ k ≠ 12 ∧ k ≠ 10 ∧ k ≠ 11) ∨ (n = 8) then none else conv (2 * n) n (k - 8))
     else if k < 24 then (if n = 64 ∨ (half ∧ (k = 18 ∨ k = 19 ∨ k = 21)) ∨ n = 8 then none else conv n (2 * n) (k - 16))
     else none)
  else match (if half then none else vfmt n) with
    | none => none
    | some f =>
      match k with
      | 0 => un n n (fun a => out (f.fsqrt a))
      | 4 => un n n (vfrsqrt7 f)
      | 5 => un n n (vfrec7 f)
      | 16 => un n n (fun a => (f.fclass a, 0, false))
      | _ => none

/-- Floating-point operations on elements of OPFVV and OPFVF. -/
def opfForm (w : BitVec 32) (c : VSet) : Option VForm :=
  let vf := iF3 w == 5
  let n := c.sew
  let out := fun (r : FOut) => (r.bits, r.flags, false)
  let f6 := fld w 31 26
  if f6 = 0x12 ∨ f6 = 0x13 then (if vf then none else vfunary w n)
  else match (if n < 32 then none else vfmt n) with
    | none => none
    | some f =>
      let bin := fun (g : Nat → Nat → FOut) => some ({ ed := n, e2 := n, e1 := n, f := fun _ a b _ => out (g a b) } : VForm)
      let cmp := fun (g : Nat → Nat → FOut) => some ({ ed := 1, e2 := n, e1 := n, f := fun _ a b _ => out (g a b) } : VForm)
      let acc := fun (g : Nat → Nat → Nat → FOut) => some ({ ed := n, e2 := n, e1 := n, f := fun d a b _ => out (g d a b) } : VForm)
      let when_ := fun (b : Bool) (r : Option VForm) => if b then r else none
      let d := fp64
      let up := fun (a : Nat) => (fp32.convOut fp64 a).bits
      let nv := fun (l : List Nat) (r : FOut) => (r.bits, if fp32.anySNaN l then r.flags ||| flNV else r.flags, false)
      let wf := fun (e2 : Nat) (g : Nat → Nat → Nat → FOut) (o a b : Nat) (_ : Bool) =>
        if e2 = 32 then nv [a, b] (g o (up a) (up b)) else nv [b] (g o a (up b))
      let wide := fun (e2 : Nat) (g : Nat → Nat → Nat → FOut) => when_ (n == 32) (some ({ ed := 64, e2 := e2, e1 := 32, f := wf e2 g } : VForm))
      match f6 with
      | 0x00 => bin f.fadd
      | 0x02 => bin f.fsub
      | 0x04 => bin (f.fminmax false)
      | 0x06 => bin (f.fminmax true)
      | 0x08 => bin (fun a b => { bits := f.fsgnj 0 a b })
      | 0x09 => bin (fun a b => { bits := f.fsgnj 1 a b })
      | 0x0A => bin (fun a b => { bits := f.fsgnj 2 a b })
      | 0x17 => when_ vf (if bit w 25 then when_ (iRs2 w == 0) (vsame n (fun _ b => b))
          else some { ed := n, e2 := n, e1 := n, carry := true, f := fun _ a b m => (if m then b else a, 0, false) })
      | 0x18 => cmp (f.fcmp 2)
      | 0x19 => cmp (f.fcmp 0)
      | 0x1B => cmp (f.fcmp 1)
      | 0x1C => cmp (fun a b => let r := f.fcmp 2 a b; { r with bits := 1 - r.bits })
      | 0x1D => when_ vf (cmp (fun a b => f.fcmp 1 b a))
      | 0x1F => when_ vf (cmp (fun a b => f.fcmp 0 b a))
      | 0x20 => bin f.fdiv
      | 0x21 => when_ vf (bin (fun a b => f.fdiv b a))
      | 0x24 => bin f.fmul
      | 0x27 => when_ vf (bin (fun a b => f.fsub b a))
      | 0x28 => acc (fun d a b => f.fma false false b d a)
      | 0x29 => acc (fun d a b => f.fma true true b d a)
      | 0x2A => acc (fun d a b => f.fma false true b d a)
      | 0x2B => acc (fun d a b => f.fma true false b d a)
      | 0x2C => acc (fun d a b => f.fma false false b a d)
      | 0x2D => acc (fun d a b => f.fma true true b a d)
      | 0x2E => acc (fun d a b => f.fma false true b a d)
      | 0x2F => acc (fun d a b => f.fma true false b a d)
      | 0x30 => wide 32 (fun _ a b => d.fadd a b)
      | 0x32 => wide 32 (fun _ a b => d.fsub a b)
      | 0x34 => wide 64 (fun _ a b => d.fadd a b)
      | 0x36 => wide 64 (fun _ a b => d.fsub a b)
      | 0x38 => wide 32 (fun _ a b => d.fmul a b)
      | 0x3C => wide 32 (fun o a b => d.fma false false b a o)
      | 0x3D => wide 32 (fun o a b => d.fma true true b a o)
      | 0x3E => wide 32 (fun o a b => d.fma false true b a o)
      | 0x3F => wide 32 (fun o a b => d.fma true false b a o)
      | _ => none

/-! ### Writing a destination -/

/-- Elements of an execution: those from vstart to vl that the mask lets through. -/
def ZCore.vactive (k : ZCore) (c : VSet) (vm : Bool) (j : Nat) : Bool := decide (c.start ≤ j ∧ j < c.vl) && (vm || k.vbit 0 j)

/-- What an element that is not active holds afterwards: as it was, or, where the policy is agnostic, all ones as a free choice (log 30). -/
def VSet.rest (c : VSet) (free r e j old : Nat) : Nat :=
  if j < c.start then old
  else if (if j < c.vl then c.ma else c.ta) && Config.agnostic free (r * 256 + j) then 2 ^ e - 1 else old

/-- Write a vector destination of element width `e`: `val` gives the elements that are written. -/
def ZCore.vwrite (k : ZCore) (c : VSet) (free e r : Nat) (val : Nat → Option Nat) : ZCore :=
  if c.vl ≤ c.start then k
  else (List.range (32 * c.regs e * 8 / e)).foldl (fun (u : ZCore) j =>
    match (if j < c.vl then val j else none) with
    | some v => u.setVelem r (e / 8) j v
    | none =>
      let old := k.velem r (e / 8) j
      let new := c.rest free r e j old
      if new = old then u else u.setVelem r (e / 8) j new) k

/-- Write a mask destination; the bits past vl are agnostic. -/
def ZCore.vwriteMask (k : ZCore) (c : VSet) (free r : Nat) (val : Nat → Option Bool) : ZCore :=
  if c.vl ≤ c.start then k
  else (List.range 256).foldl (fun (u : ZCore) j =>
    match (if j < c.vl then val j else none) with
    | some b => u.setVbit r j b
    | none =>
      if j < c.start then u
      else if j < c.vl then (if c.ma && Config.agnostic free (r * 256 + j) then u.setVbit r j true else u)
      else if Config.agnostic free (r * 256 + j) then u.setVbit r j (Config.agnostic free (8192 + r * 256 + j)) else u) k

/-- The instruction is over: vstart is zero, flags and saturation accumulate, the vector state is dirty. -/
def ZCore.vdone (k : ZCore) (flags : Nat) (sat : Bool) : ZCore :=
  let k := k.putCsr Csr.vstart 0
  let k := if flags = 0 then k else
    let k := k.putCsr Csr.fflags (k.getCsr Csr.fflags ||| BitVec.ofNat 64 flags)
    let dirty := fun (k : ZCore) (n : Nat) => k.putCsr n (setF (k.getCsr n) 14 13 3)
    let k := dirty k Csr.mstatus
    if k.virt then dirty k Csr.vsstatus else k
  (if sat then k.putCsr 0x00F (k.getCsr 0x00F ||| 1) else k).vsDirty

/-! ### Instructions -/

/-- The second operand of an instruction where it is no vector: a register's low bits, a float or an immediate. -/
def ZCore.vscalar (k : ZCore) (w : BitVec 32) (n : Nat) : Nat :=
  match iF3 w with
  | 3 =>
    let f6 := fld w 31 26
    let unsigned := [0x0C, 0x0E, 0x0F, 0x14, 0x15, 0x25, 0x28, 0x29, 0x2A, 0x2B, 0x2C, 0x2D, 0x2E, 0x2F, 0x35].contains f6
    if unsigned then iRs1 w else unsint n (sint 5 (iRs1 w))
  | 5 => match vfmt n with
    | some f => k.getFw f (iRs1 w)
    | none => k.getFd (iRs1 w) % 2 ^ n
  | _ => (k.getX (iRs1 w)).toNat % 2 ^ n

/-- Run an operation on elements: none where the encoding is reserved. -/
def ZCore.vforms (k : ZCore) (w : BitVec 32) (c : VSet) (free : Nat) (p : VForm) : Option ZCore :=
  let vector := iF3 w ≤ 2
  let vm := bit w 25
  let d := iRd w
  let r2 := iRs2 w
  let r1 := iRs1 w
  let use1 := vector && p.e1 != 1
  let ok := c.operandOk p.ed d && c.operandOk p.e2 r2 && c.overlapOk p.ed d p.e2 r2 &&
    (!use1 || (c.operandOk p.e1 r1 && c.overlapOk p.ed d p.e1 r1)) && (vm || p.ed == 1 || d != 0)
  if !ok then none
  else
    let x := k.vscalar w p.e1
    let res := fun (j : Nat) =>
      let old := if p.ed = 1 then 0 else k.velem d (p.ed / 8) j
      p.f old (k.velem r2 (p.e2 / 8) j) (if use1 then k.velem r1 (p.e1 / 8) j else x) (k.vbit 0 j)
    let on := fun (j : Nat) => k.vactive c (vm || p.carry) j
    let js := (List.range c.vl).filter on
    let fl := js.foldl (fun a j => a ||| (res j).2.1) 0
    let sat := js.any (fun j => (res j).2.2)
    some (if p.ed = 1 then (k.vwriteMask c free d (fun j => if on j then some ((res j).1 == 1) else none)).vdone fl sat
      else (k.vwrite c free p.ed d (fun j => if on j then some (res j).1 else none)).vdone fl sat)

/-- Every element of a vector destination is a tail element. -/
def ZCore.vwriteTail (k : ZCore) (c : VSet) (free e r : Nat) : ZCore :=
  (List.range (32 * c.regs e * 8 / e)).foldl (fun (u : ZCore) j =>
    if c.ta && Config.agnostic free (r * 256 + j) then u.setVelem r (e / 8) j (2 ^ e - 1) else u) k

/-- Slides, gathers and vcompress. -/
def ZCore.vpermute (k : ZCore) (w : BitVec 32) (c : VSet) (free : Nat) : Option ZCore :=
  let f3 := iF3 w
  let f6 := fld w 31 26
  let n := c.sew
  let b := n / 8
  let vm := bit w 25
  let d := iRd w
  let r2 := iRs2 w
  let r1 := iRs1 w
  let x := (k.getX r1).toNat
  let off := if f3 = 3 then r1 else x
  let elem := fun (j : Nat) => if j < c.vlmax then k.velem r2 b j else 0
  let on := k.vactive c vm
  let go := fun (apart : Bool) (val : Nat → Option Nat) =>
    if !c.operandOk n d || !c.operandOk n r2 || (apart && !c.apart n d n r2) || (!vm && d == 0) then none
    else some ((k.vwrite c free n d (fun j => if on j then val j else none)).vdone 0 false)
  let first := if f3 = 5 then (match vfmt n with | some f => k.getFw f r1 | none => 0) else x % 2 ^ n
  let one := f3 = 6 ∨ (f3 = 5 ∧ 32 ≤ n)
  if f6 = 0x0C ∧ f3 = 0 then
    (if !c.operandOk n r1 || !c.apart n d n r1 then none else go true (fun j => some (elem (k.velem r1 b j))))
  else if f6 = 0x0C ∧ (f3 = 3 ∨ f3 = 4) then go true (fun _ => some (elem off))
  else if f6 = 0x0E ∧ f3 = 0 then
    (if !c.operandOk 16 r1 || !c.apart n d 16 r1 then none else go true (fun j => some (elem (k.velem r1 2 j))))
  else if f6 = 0x0E ∧ (f3 = 3 ∨ f3 = 4) then
    (if !c.operandOk n d || !c.operandOk n r2 || !c.apart n d n r2 || (!vm && d == 0) then none
     else some ((k.vwrite c free n d (fun j => if j < off then some (k.velem d b j) else if on j then some (elem (j - off)) else none)).vdone 0 false))
  else if f6 = 0x0F ∧ (f3 = 3 ∨ f3 = 4) then go false (fun j => some (elem (j + off)))
  else if f6 = 0x0E ∧ one then go true (fun j => some (if j = 0 then first else elem (j - 1)))
  else if f6 = 0x0F ∧ one then go false (fun j => some (if j + 1 = c.vl then first else elem (j + 1)))
  else if f6 = 0x17 ∧ f3 = 2 ∧ vm then
    (if c.start ≠ 0 || !c.operandOk n d || !c.operandOk n r2 || !c.apart n d n r2 || !c.apart n d 1 r1 then none
     else
       let js := (List.range c.vl).filter (fun j => k.vbit r1 j)
       let c1 : VSet := { c with vl := js.length }
       some ((if c.vl = 0 then k else if js = [] then k.vwriteTail c free n d else k.vwrite c1 free n d (fun j => (js[j]?).map (k.velem r2 b))).vdone
         0 false))
  else none

/-- Reductions: integer, and floating point in element order; the order of an unordered sum is open, so the sum of more than one element is a
free value of its operands, which never varies (R426, log 30). -/
def ZCore.vreduce (k : ZCore) (w : BitVec 32) (c : VSet) (free : Nat) : Option ZCore :=
  let f3 := iF3 w
  let f6 := fld w 31 26
  let n := c.sew
  let vm := bit w 25
  let js := (List.range c.vl).filter (k.vactive c vm)
  let es := js.map (fun j => k.velem (iRs2 w) (n / 8) j)
  let go := fun (ed : Nat) (run : Nat → List Nat → Nat × Nat) =>
    if c.start ≠ 0 || !c.operandOk n (iRs2 w) || decide (64 < ed) then none
    else
      let r := run (k.velem (iRs1 w) (ed / 8) 0) es
      let one : VSet := { c with vl := if c.vl = 0 then 0 else 1, mul := 8, sew := ed }
      some ((k.vwrite one free ed (iRd w) (fun _ => some r.1)).vdone (if c.vl = 0 then 0 else r.2) false)
  let int := fun (ed : Nat) (g : Nat → Nat → Nat) => go ed (fun a l => (l.foldl g a, 0))
  let fp := fun (ed : Nat) (g : Nat → Nat → FOut) => go ed (fun a l => l.foldl (fun p x => let r := g p.1 x; (r.bits, p.2 ||| r.flags)) (a, 0))
  let open_ := fun (ed : Nat) (g : Nat → Nat → FOut) => go ed (fun a l =>
    if l.length ≤ 1 then l.foldl (fun p x => let r := g p.1 x; (r.bits, p.2 ||| r.flags)) (a, 0)
    else ((Config.coreSum free a l).1 % 2 ^ ed, (Config.coreSum free a l).2 % 32))
  let up := fun (x : Nat) => (fp32.convOut fp64 x).bits
  let wadd := fun (p x : Nat) => let r := fp64.fadd p (up x); if fp32.isSNaN x then { r with flags := r.flags ||| flNV } else r
  if f3 = 2 then
    match f6 with
    | 0 => int n (fun a b => (a + b) % 2 ^ n)
    | 1 => int n (fun a b => a &&& b)
    | 2 => int n (fun a b => a ||| b)
    | 3 => int n (fun a b => a ^^^ b)
    | 4 => int n min
    | 5 => int n (fun a b => if sint n b < sint n a then b else a)
    | 6 => int n max
    | 7 => int n (fun a b => if sint n a < sint n b then b else a)
    | _ => none
  else if f3 = 0 then
    match f6 with
    | 0x30 => int (2 * n) (fun a b => (a + b) % 2 ^ (2 * n))
    | 0x31 => int (2 * n) (fun a b => unsint (2 * n) ((a : Int) + sint n b))
    | _ => none
  else match (if f3 = 1 ∧ 32 ≤ n then vfmt n else none) with
    | none => none
    | some f =>
      match f6 with
      | 1 => open_ n f.fadd
      | 3 => fp n f.fadd
      | 5 => fp n (f.fminmax false)
      | 7 => fp n (f.fminmax true)
      | 0x31 => if n = 32 then open_ 64 wadd else none
      | 0x33 => if n = 32 then fp 64 wadd else none
      | _ => none

/-- Operations on masks, and those that give a mask or an index of its elements. -/
def ZCore.vmask (k : ZCore) (w : BitVec 32) (c : VSet) (free : Nat) : Option ZCore :=
  let f6 := fld w 31 26
  let vm := bit w 25
  let d := iRd w
  let r2 := iRs2 w
  let on := k.vactive c vm
  let logic := fun (g : Bool → Bool → Bool) =>
    if !vm then none else some ((k.vwriteMask c free d (fun j => if c.start ≤ j then some (g (k.vbit r2 j) (k.vbit (iRs1 w) j)) else none)).vdone 0 false)
  let first := ((List.range c.vl).filter on).find? (fun j => k.vbit r2 j)
  let set := fun (g : Nat → Bool) =>
    if c.start ≠ 0 || d == r2 || (!vm && d == 0) then none
    else some ((k.vwriteMask c free d (fun j => if on j then some (g j) else none)).vdone 0 false)
  match f6 with
  | 0x18 => logic (fun a b => a && !b)
  | 0x19 => logic (fun a b => a && b)
  | 0x1A => logic (fun a b => a || b)
  | 0x1B => logic (fun a b => a != b)
  | 0x1C => logic (fun a b => a || !b)
  | 0x1D => logic (fun a b => !(a && b))
  | 0x1E => logic (fun a b => !(a || b))
  | 0x1F => logic (fun a b => a == b)
  | 0x14 =>
    match iRs1 w with
    | 1 => set (fun j => first.all (fun i => decide (j < i)))
    | 2 => set (fun j => first == some j)
    | 3 => set (fun j => first.all (fun i => decide (j ≤ i)))
    | 16 =>
      if c.start ≠ 0 || !c.operandOk c.sew d || !c.apart c.sew d 1 r2 || (!vm && d == 0) then none
      else some ((k.vwrite c free c.sew d (fun j => if on j then
        some (((List.range j).countP (fun i => on i && k.vbit r2 i)) % 2 ^ c.sew) else none)).vdone 0 false)
    | 17 =>
      if r2 ≠ 0 || !c.operandOk c.sew d || (!vm && d == 0) then none
      else some ((k.vwrite c free c.sew d (fun j => if on j then some (j % 2 ^ c.sew) else none)).vdone 0 false)
    | _ => none
  | _ => none

/-- Moves between element 0 or a mask and a scalar register, and whole register moves. -/
def ZCore.vmove (k : ZCore) (w : BitVec 32) (c : VSet) (free : Nat) : Option ZCore :=
  let f3 := iF3 w
  let vm := bit w 25
  let d := iRd w
  let r2 := iRs2 w
  let n := c.sew
  let js := (List.range c.vl).filter (k.vactive c vm)
  let put_ := fun (v : Nat) =>
    let one : VSet := { c with mul := 8, vl := min c.vl 1 }
    some ((k.vwrite one free n d (fun _ => some v)).vdone 0 false)
  match f3 with
  | 2 =>
    if iRs1 w = 0 ∧ vm then some ((k.setX d (BitVec.ofInt 64 (sint n (k.velem r2 (n / 8) 0)))).vdone 0 false)
    else if iRs1 w = 16 ∧ c.start = 0 then some ((k.setX d (BitVec.ofNat 64 (js.countP (fun j => k.vbit r2 j)))).vdone 0 false)
    else if iRs1 w = 17 ∧ c.start = 0 then
      some ((k.setX d (match js.find? (fun j => k.vbit r2 j) with | some j => BitVec.ofNat 64 j | none => BitVec.allOnes 64)).vdone 0 false)
    else none
  | 6 => if r2 = 0 ∧ vm then put_ ((k.getX (iRs1 w)).toNat % 2 ^ n) else none
  | 1 => match (if 32 ≤ n then vfmt n else none) with
    | some f => if iRs1 w = 0 ∧ vm then some ((k.setZF d (.f f (k.velem r2 (n / 8) 0) 0)).vdone 0 false) else none
    | none => none
  | 5 => match (if 32 ≤ n then vfmt n else none) with
    | some f => if r2 = 0 ∧ vm then put_ (k.getFw f (iRs1 w)) else none
    | none => none
  | _ => none

/-- vmv1r, vmv2r, vmv4r and vmv8r. -/
def ZCore.vmoveWhole (k : ZCore) (w : BitVec 32) (c : VSet) : Option ZCore :=
  let nr := iRs1 w + 1
  let b := c.sew / 8
  if !bit w 25 || !([1, 2, 4, 8].contains nr) || iRd w % nr != 0 || iRs2 w % nr != 0 then none
  else some (((List.range (nr * 32 / b)).foldl (fun (u : ZCore) j =>
    if j < c.start then u else u.setVelem (iRd w) b j (k.velem (iRs2 w) b j)) k).vdone 0 false)

/-- A vector arithmetic instruction other than the settings: none where the encoding is reserved or the unit that it needs is off. -/
def ZCore.vector (k : ZCore) (w : BitVec 32) (free : Nat) : Option ZCore :=
  let c := k.vsettings
  let f3 := iF3 w
  let f6 := fld w 31 26
  let form := fun (p : Option VForm) => p.bind (k.vforms w c free)
  if bit (k.getCsr Csr.vtype) 63 then none
  else if f3 = 0 ∨ f3 = 3 ∨ f3 = 4 then
    (if f6 = 0x0C ∨ f6 = 0x0E ∨ f6 = 0x0F then k.vpermute w c free
     else if f3 = 0 ∧ (f6 = 0x30 ∨ f6 = 0x31) then k.vreduce w c free
     else if f3 = 3 ∧ f6 = 0x27 then k.vmoveWhole w c
     else form (opiForm w c))
  else if f3 = 2 ∨ f3 = 6 then
    (if f6 < 8 then (if f3 = 2 then k.vreduce w c free else none)
     else if f6 = 0x0E ∨ f6 = 0x0F ∨ f6 = 0x17 then k.vpermute w c free
     else if f6 = 0x10 then k.vmove w c free
     else if f6 = 0x14 ∨ 0x18 ≤ f6 ∧ f6 ≤ 0x1F then (if f3 = 2 then k.vmask w c free else none)
     else form (opmForm w c))
  else if !k.unitOn 14 13 then none
  else if f6 = 0x10 then k.vmove w c free
  else if f6 = 0x0E ∨ f6 = 0x0F then (if f3 = 5 then k.vpermute w c free else none)
  else if f6 < 8 ∧ f6 % 2 = 1 ∨ f6 = 0x31 ∨ f6 = 0x33 then (if f3 = 1 then k.vreduce w c free else none)
  else form (opfForm w c)

end Sys2Proof.Machine
end

