-- ==== Sys2Proof/Machine/Zawick.lean ====
section
/-!
DEFINITION. The Zawick cores at work (R268-R270, R283-R287): address translation, accesses to the ranges of R270, and the instructions.
A command attempts the core's next instruction: where a sector it needs is not yet in the L2 in the state it needs, the request goes out
and nothing else happens; a later command attempts it again.  Page tables are read in one step (log 15).
-/

namespace Sys2Proof.Machine

/-! ### Translation -/

/-- What an access asks of translation: its kind, the mode it is made in, whether in a guest, and whether an executable page may be
loaded from; `amo` marks a store that reads what it replaces. -/
structure ZView where
  acc : ZAcc
  mode : Nat
  virt : Bool
  hlvx : Bool := false
  amo : Bool := false
deriving DecidableEq, Repr

/-- Causes of a page fault, a guest page fault and an access fault of a kind. -/
def pageCause (a : ZAcc) : Nat := match a with | .fetch => 12 | .load => 13 | .store => 15
def guestCause (a : ZAcc) : Nat := match a with | .fetch => 20 | .load => 21 | .store => 23
def accessCause (a : ZAcc) : Nat := match a with | .fetch => 1 | .load => 5 | .store => 7

/-- Whether a leaf admits an access (Sv39, Sv48, Svade): `user` is the mode of the access, `sum` and `mxr` the status bits. -/
def leafOk (e : Nat) (v : ZView) (user sum mxr : Bool) : Bool :=
  let r := e.testBit 1
  let w := e.testBit 2
  let x := e.testBit 3
  let u := e.testBit 4
  let perm := match v.acc with
    | .fetch => x
    | .load => if v.hlvx then x else r || (mxr && x)
    | .store => w
  perm && e.testBit 6 && (v.acc != .store || e.testBit 7) && (if user then u else !u || (sum && v.acc != .fetch))

/-- The physical address a leaf gives at a level: none where a reserved bit is set, as the memory type of Svpbmt is while PBMTE is 0, or a
superpage is misaligned; a Svnapot leaf of 64 KiB takes the low page bits of the address. -/
def leafAddr (pbmt : Bool) (e va level : Nat) : Option Nat :=
  let ppn := e / 2 ^ 10 % 2 ^ 44
  let lg := 12 + 9 * level
  let type := e / 2 ^ 61 % 4
  if e / 2 ^ 54 % 2 ^ 7 ≠ 0 ∨ type = 3 ∨ (type ≠ 0 ∧ !pbmt) ∨ ppn % 2 ^ (9 * level) ≠ 0 ∨ (e.testBit 63 ∧ (level ≠ 0 ∨ ppn % 16 ≠ 8)) then none
  else if e.testBit 63 then some (ppn / 16 * 2 ^ 16 + va % 2 ^ 16)
  else some (ppn * 2 ^ 12 / 2 ^ lg * 2 ^ lg + va % 2 ^ lg)

/-- The outcome of a translation, and the physical addresses of the page-table entries that it read. -/
abbrev Walked := Except ZTrap Nat × List Nat

/-- Walk page tables from a level down (fuel: level + 1); `read` gives an entry by its address, `pbmt` is PBMTE, `top` is how many index bits
the root level has beyond nine. -/
def pageWalk (read : Nat → Walked) (fail : ZTrap) (pbmt : Bool) (ok : Nat → Bool) (va : Nat) : Nat → Nat → Nat → Walked
  | 0, _, _ => (.error fail, [])
  | level + 1, table, top =>
    match read (table + va / 2 ^ (12 + 9 * level) % 2 ^ (9 + top) * 8) with
    | (.error t, as) => (.error t, as)
    | (.ok e, as) =>
      if e % 2 = 0 ∨ (e.testBit 2 && !e.testBit 1) then (.error fail, as)
      else if e / 2 % 8 = 0 then
        (if e / 2 ^ 54 ≠ 0 ∨ e.testBit 4 ∨ e.testBit 6 ∨ e.testBit 7 then (.error fail, as)
         else
          let r := pageWalk read fail pbmt ok va level (e / 2 ^ 10 % 2 ^ 44 * 4096) 0
          (r.1, as ++ r.2))
      else if !ok e then (.error fail, as)
      else match leafAddr pbmt e va level with
        | some pa => (.ok pa, as)
        | none => (.error fail, as)

/-- Levels of a translation mode. -/
def svLevels (atp : Word) : Option Nat := match fld atp 63 60 with | 8 => some 3 | 9 => some 4 | _ => none

/-- Read a page table entry at a physical address (R270). -/
def State.readPte (s : State) (k : ZCore) (fail : ZTrap) (a : Nat) : Walked :=
  if s.capacity ≤ a ∨ !k.pmpOk 1 a 8 .load then (.error fail, [])
  else if s.readErr a ≠ 0 then (.error fail, [a]) else (.ok (s.viewNat a 8), [a])

/-- Guest physical to physical.  The read of a guest's page table is checked as a load, faults as its access does, and shows the
pseudoinstruction of a 64-bit read. -/
def State.guestXlate (s : State) (k : ZCore) (v : ZView) (va gpa : Nat) (table : Bool) : Walked :=
  let atp := k.getCsr Csr.hgatp
  let fail : ZTrap := { cause := guestCause v.acc, tval := va, gpa := gpa, gva := true, tinst := if table then 0x3000 else 0 }
  let u : ZView := if table then { v with acc := .load, hlvx := false } else v
  match svLevels atp with
  | none => (.ok gpa, [])
  | some n =>
    if 2 ^ (12 + 9 * n + 2) ≤ gpa then (.error fail, [])
    else pageWalk (s.readPte k { cause := accessCause v.acc, tval := va, gva := true }) fail (bit (k.getCsr Csr.menvcfg) 62)
      (fun e => leafOk e u true false (!table && bit (k.getCsr Csr.mstatus) 19)) gpa n (fld atp 43 0 * 4096 / 2 ^ 14 * 2 ^ 14) 2

/-- The pointer masking of the access's mode (Smnpm, Ssnpm): a load or store ignores the masked bits. -/
def ZCore.maskVA (k : ZCore) (v : ZView) (va : Nat) : Nat :=
  let cfg := if v.mode = 0 then k.getCsr Csr.senvcfg else if v.virt then k.getCsr Csr.henvcfg else k.getCsr Csr.menvcfg
  let n := match fld cfg 33 32 with | 2 => 7 | 3 => 16 | _ => 0
  if v.acc = .fetch ∨ v.mode = 3 ∨ n = 0 then va else unsint 64 (sint (64 - n) va)

/-- Virtual to physical for a core (R268): the page size of a piece is never crossed by the caller. -/
def State.coreXlate (s : State) (k : ZCore) (v : ZView) (n va0 : Nat) : Walked :=
  let va := k.maskVA v va0
  let atp := k.getCsr (if v.virt then Csr.vsatp else Csr.satp)
  let fault := fun (c : Nat) => ({ cause := c, tval := va0, gva := v.virt } : ZTrap)
  let st := k.getCsr (if v.virt then Csr.vsstatus else Csr.mstatus)
  let check := fun (r : Walked) => match r.1 with
    | .error _ => r
    | .ok pa => if k.pmpOk v.mode pa n v.acc then r else (.error (fault (accessCause v.acc)), r.2)
  let final := fun (table : Bool) (gpa : Nat) => if v.virt then s.guestXlate k v va0 gpa table else ((.ok gpa, []) : Walked)
  let andThen := fun (r : Walked) (f : Nat → Walked) => match r.1 with
    | .error _ => r
    | .ok a => ((f a).1, r.2 ++ (f a).2)
  if v.mode = 3 then check (.ok va, [])
  else match svLevels atp with
    | none => check (final false va)
    | some lv =>
      if unsint 64 (sint (12 + 9 * lv) va) ≠ va then (.error (fault (pageCause v.acc)), [])
      else
        let read := fun (a : Nat) => andThen (final true a) (s.readPte k (fault (accessCause v.acc)))
        check (andThen (pageWalk read (fault (pageCause v.acc)) (bit (k.getCsr (if v.virt then Csr.henvcfg else Csr.menvcfg)) 62)
          (fun e => leafOk e v (v.mode == 0) (bit st 18) (bit st 19 || (v.virt && bit (k.getCsr Csr.mstatus) 19))) va lv
          (fld atp 43 0 * 4096) 0) (final false))

/-- How the core's own loads and stores are made: MPRV lends M-mode the mode of MPP. -/
def ZCore.view (k : ZCore) (acc : ZAcc) : ZView :=
  let st := k.getCsr Csr.mstatus
  if k.mode = 3 ∧ bit st 17 ∧ acc ≠ .fetch then { acc := acc, mode := fld st 12 11, virt := bit st 39 && fld st 12 11 != 3 }
  else { acc := acc, mode := k.mode.toNat, virt := k.virt }

/-! ### Accesses (R270) -/

/-- What an access leads to: it is made, or the instruction stops here, having trapped or waiting. -/
inductive Got (α : Type) where
  | ok (a : α) (s : State)
  | stop (s : State)

/-- Take a trap on a core; the uncached accesses of its instruction are over (R270). -/
def State.coreTrap (s : State) (n : Nat) (t : ZTrap) : State := s.modCore n (fun k => { k.takeTrap t with unc := [] })

/-- Translate an access: the page-table reads that no sector of the core's own L2 serves are reads at their home, which wait where a one-step
read waits (R238, R244, R282, log 15). -/
def State.coreWalk (s : State) (n : Nat) (v : ZView) (size va : Nat) (fault : ZTrap → ZTrap := id) : Got Nat :=
  let k := s.core n
  let r := s.coreXlate k v size va
  let home := (r.2.map sectorBase).filter (fun a => (k.sector a).st == .invalid)
  if home.any s.sectorBusy then .stop s
  else
    let s := home.foldl (fun s a => s.noteRead a none) s
    match r.1 with
    | .error t => .stop (s.coreTrap n (fault t))
    | .ok pa => .ok pa s

/-- A data error of a core: recorded, and a precise access fault (R287). -/
def State.coreDataError (s : State) (n pa va : Nat) (v : ZView) : State :=
  (s.deviceError 3 (core := n) (pa := some pa)).coreTrap n { cause := accessCause v.acc, tval := va, gva := v.virt }

/-- A sector of stacked memory in a core's caches in the state an access needs: a failed request faults, a copy that fails its check as it is
read is dropped if clean and lost if dirty (R269, R276, R287); a fetch reads the L1 instruction cache, which own stores do not change; a
store waits for the acknowledgement of a write-back with Keep (R279). -/
def State.coreSector (s : State) (n pa va : Nat) (v : ZView) (bad : Bool) : Got Sector :=
  let k := s.core n
  let base := sectorBase pa
  let l := k.sector pa
  let p := BitVec.ofNat 48 base
  let got := if v.acc = .store then Got.ok l.data s else Got.ok l.data (s.l1Fill n (v.acc == .fetch) base l.data)
  if k.failed.contains p then
    .stop ((s.modCore n (fun k => { k with failed := k.failed.erase p })).coreDataError n base va v)
  else match (if v.acc = .fetch ∧ !bad then k.l1i.find? (fun e => e.1 == pa / 128) else none) with
  | some e => .ok e.2 s
  | none =>
    let clean := bad || l.bad
    let bad := bad || (l.bad && (v.acc != .store || v.amo))
    match l.st with
    | .invalid => .stop (s.coreAsk n pa (if v.acc = .store then 2 else 1) (v.acc == .fetch))
    | .shared =>
      if clean then .stop ((s.coreEvict n base).getD s)
      else if v.acc = .store then .stop (s.coreAsk n pa 3 false) else got
    | .exclusive =>
      if clean then .stop ((s.coreEvict n base).getD s)
      else if v.acc = .store ∧ k.wb.any (fun w => w.pa == p) then .stop s else got
    | .modified =>
      if bad then
        .stop (match (s.modCore n (fun k => k.setSector pa { l with bad := true })).coreWriteBack n base false with
          | some s => s.coreDataError n base va v
          | none => s)
      else got

/-- Write bytes into a sector that a core holds uniquely; the L1 data cache writes through (R269). -/
def State.corePut (s : State) (n pa : Nat) (bs : List Byte) : State :=
  s.modCore n (fun k =>
    let l := k.sector pa
    let i := pa % 128
    let d := mergeSector l.data (BitVec.ofNat 1024 (leNat bs <<< (8 * i))) (BitVec.ofNat 128 ((2 ^ bs.length - 1) <<< i))
    let k1 := k.setSector pa { l with st := .modified, data := d }
    { k1 with l1d := k1.l1d.map (fun e => if e.1 = pa / 128 then (e.1, d) else e) })

/-- An uncached access of the scratchpad: sent, one at a time, and its answer kept for the instruction until that is over (R215, R270). -/
def State.coreUncached (s : State) (n pa va : Nat) (v : ZView) (m : MemMsg) : Got Sector :=
  let u : Uncached := { pa := BitVec.ofNat 48 pa, write := m.op == 3, mask := m.ctl, data := m.data }
  match (s.core n).unc.find? (fun o => { o with answer := none } == u) with
  | some o =>
    (match o.answer with
     | none => .stop s
     | some (code, d) =>
       if code = 0 then .ok d s
       else if code = 1 then .stop (s.coreDataError n (sectorBase pa) va v)
       else .stop (s.coreTrap n { cause := accessCause v.acc, tval := va, gva := v.virt }))
  | none =>
    if (s.core n).unc.any (fun o => o.answer.isNone) then .stop s
    else
      let m1 : MemMsg := { m with src := coreSrc n, pa := BitVec.ofNat 48 (sectorBase pa) }
      .stop ((s.modCore n (fun k => { k with unc := k.unc ++ [u] })).request m1 .coreAccess)

/-- Which range of R270 an address lies in. -/
inductive ZRange where
  | memory
  | scratch
  | inspection (off : Nat)
  | aperture (off : Nat)
  | none
deriving DecidableEq, Repr

def State.coreRange (s : State) (pa : Nat) : ZRange :=
  if pa < s.capacity then .memory
  else if isScratch pa then .scratch
  else if inspectionBase ≤ pa ∧ pa < inspectionBase + 0x8000000 then .inspection (pa - inspectionBase)
  else if apertureBase_ ≤ pa ∧ pa < apertureBase_ + 0x1000000 then .aperture (pa - apertureBase_)
  else .none
where apertureBase_ : Nat := 0x070000000000

/-- Read up to 8 bytes within one sector. -/
def State.corePiece (s : State) (n : Nat) (v : ZView) (va size : Nat) (bad : Bool) : Got (List Byte) :=
  match s.coreWalk n v size va with
  | .stop s => .stop s
  | .ok pa s =>
    let fault : Got (List Byte) := .stop (s.coreTrap n { cause := accessCause v.acc, tval := va, gva := v.virt })
    match s.coreRange pa with
    | .memory => match s.coreSector n pa va v bad with
      | .stop s => .stop s
      | .ok d s => .ok (leBytes size (sectorNum d pa size)) s
    | .scratch =>
      if v.acc = .fetch then fault
      else match s.coreUncached n pa va v { vc := 0, op := 1, src := 0, tag := 0 } with
        | .stop s => .stop s
        | .ok d s => .ok (leBytes size (sectorNum d pa size)) s
    | .inspection o =>
      if v.acc = .fetch ∨ (size ≠ 4 ∧ size ≠ 8) ∨ o % size ≠ 0 then fault else .ok (leBytes size (s.inspectionLoad o size)) s
    | .aperture o =>
      if v.acc = .fetch ∨ size ≠ 8 ∨ o % 8 ≠ 0 then fault else .ok (leBytes 8 (s.apertureValue o).toNat) (s.apertureRead o)
    | .none => fault

/-- A core's write of an aperture register, the measurement register among them: its last word extends M7 (R333, R461). -/
def State.coreAperture (s : State) (o : Nat) (v : Nat) : State :=
  if 0x93080 ≤ o ∧ o < 0x930B0 then
    let i := (o - 0x93080) / 8
    let s := s.modSec (fun k => { k with measStage := setF k.measStage (64 * i + 63) (64 * i) v })
    if i = 5 then s.extend 7 (leBytes 48 s.sec.measStage.toNat) else s
  else (s.apertureStore o (BitVec.ofNat 64 v)).getD s

/-- Write up to 8 bytes within one sector. -/
def State.corePoke (s : State) (n : Nat) (v : ZView) (va : Nat) (bs : List Byte) : Got Unit :=
  let size := bs.length
  match s.coreWalk n v size va with
  | .stop s => .stop s
  | .ok pa s =>
    let fault : Got Unit := .stop (s.coreTrap n { cause := accessCause v.acc, tval := va, gva := v.virt })
    match s.coreRange pa with
    | .memory => match s.coreSector n pa va v false with
      | .stop s => .stop s
      | .ok _ s => .ok () (s.corePut n pa bs)
    | .scratch =>
      let d := BitVec.ofNat 1024 (leNat bs <<< (8 * (pa % 128)))
      let m := BitVec.ofNat 128 ((2 ^ size - 1) <<< (pa % 128))
      match s.coreUncached n pa va v { vc := 0, op := 3, src := 0, tag := 0, ctl := m, data := d } with
      | .stop s => .stop s
      | .ok _ s => .ok () s
    | .inspection o =>
      if (size ≠ 4 ∧ size ≠ 8) ∨ o % size ≠ 0 then fault
      -- a write that the state image refuses is reported to the core as an access fault (R154, log 89)
      else match s.inspectionStore o size (leNat bs) with
        | some s => .ok () s
        | none => fault
    | .aperture o => if size ≠ 8 ∨ o % 8 ≠ 0 then fault else .ok () (s.coreAperture o (leNat bs))
    | .none => fault

/-- The part of an access that lies in its first sector. -/
def firstPart (va size : Nat) : Nat := min size (128 - va % 128)

/-- Load bytes; a misaligned access of two sectors is made in two parts. -/
def State.coreLoad (s : State) (n : Nat) (v : ZView) (va size : Nat) (bad : Bool) : Got (List Byte) :=
  let a := firstPart va size
  match s.corePiece n v va a bad with
  | .stop s => .stop s
  | .ok bs s =>
    if a = size then .ok bs s
    else match s.corePiece n v (va + a) (size - a) false with
      | .stop s => .stop s
      | .ok cs s => .ok (bs ++ cs) s

/-- Store bytes; where they lie in two sectors, both must be writable before either is written. -/
def State.coreStore (s : State) (n : Nat) (v : ZView) (va : Nat) (bs : List Byte) : Got Unit :=
  let a := firstPart va bs.length
  if a = bs.length then s.corePoke n v va bs
  else match s.corePiece n v va a false with
    | .stop s => .stop s
    | .ok _ s => match s.corePoke n v (va + a) (bs.drop a) with
      | .stop s => .stop s
      | .ok _ s => s.corePoke n v va (bs.take a)

/-! ### Instructions -/

/-- The instruction completes: the program counter moves past it, and its uncached accesses are over (R270). -/
def State.coreNext (s : State) (n len : Nat) (f : ZCore → ZCore) : State :=
  s.modCore n (fun k =>
    let k := f k
    let k := k.putCsr Csr.minstret (k.getCsr Csr.minstret + 1)
    { k with pc := k.pc + BitVec.ofNat 64 len, unc := [] })

/-- The instruction completes with a jump. -/
def State.coreJump (s : State) (n : Nat) (pc : Word) (f : ZCore → ZCore) : State :=
  s.modCore n (fun k =>
    let k := f k
    let k := k.putCsr Csr.minstret (k.getCsr Csr.minstret + 1)
    { k with pc := pc, unc := [] })

/-- What an instruction works on: the core, the word, the bits as fetched, its length, whether data it reads fails its check. -/
structure ZI where
  n : Nat
  w : BitVec 32
  raw : Nat
  len : Nat
  bad : Bool

def State.coreIllegal (s : State) (i : ZI) : State := s.coreTrap i.n { cause := 2, tval := i.raw }

/-- A register a load fills. -/
def loadInto (w : BitVec 32) (bs : List Byte) (k : ZCore) : ZCore :=
  let v := leNat bs
  if fld w 6 0 = 0x07 then
    (match iF3 w with
     | 1 => k.setZF (iRd w) (.f fp16 v 0)
     | 2 => k.setZF (iRd w) (.f fp32 v 0)
     | _ => k.setZF (iRd w) (.f fp64 v 0))
  else if iF3 w < 4 then k.setX (iRd w) (BitVec.ofInt 64 (sint (8 * bs.length) v))
  else k.setX (iRd w) (BitVec.ofNat 64 v)

/-- Loads and stores of the base, F, D and Zfhmin instructions. -/
def State.coreMem (s : State) (i : ZI) : State :=
  let k := s.core i.n
  let w := i.w
  let store := decide (fld w 6 0 = 0x23 ∨ fld w 6 0 = 0x27)
  let imm := if store then iImmS w else iImm w
  let va := (k.getX (iRs1 w) + BitVec.ofInt 64 imm).toNat
  let size := 2 ^ (iF3 w % 4)
  if store then
    let v := if fld w 6 0 = 0x27 then k.getFd (iRs2 w) else (k.getX (iRs2 w)).toNat
    match s.coreStore i.n (k.view .store) va (leBytes size v) with
    | .stop s => s
    | .ok _ s => s.coreNext i.n i.len id
  else match s.coreLoad i.n (k.view .load) va size i.bad with
    | .stop s => s
    | .ok bs s => s.coreNext i.n i.len (loadInto w bs)

/-- Atomics, performed in the L2 once the sector is M (R283); a load-reserved holds a reservation on its address (R277). -/
def State.coreAmo (s : State) (i : ZI) : State :=
  let k := s.core i.n
  let w := i.w
  let size := 2 ^ iF3 w
  let va := (k.getX (iRs1 w)).toNat
  let f5 := fld w 31 27
  let v := { k.view (if f5 = 2 then .load else .store) with amo := f5 != 2 && f5 != 3 }
  let bits := 8 * size
  let known := [0, 1, 2, 3, 4, 8, 12, 16, 20, 24, 28].contains f5
  if (size ≠ 4 ∧ size ≠ 8) ∨ !known ∨ (f5 = 2 ∧ iRs2 w ≠ 0) then s.coreIllegal i
  else if va % size ≠ 0 then s.coreTrap i.n { cause := if f5 = 2 then 4 else 6, tval := va, gva := v.virt }
  else match s.coreWalk i.n v size va with
    | .stop s => s
    | .ok pa s =>
      let ext := fun (x : Nat) => BitVec.ofInt 64 (sint bits x)
      if s.coreRange pa ≠ .memory then s.coreTrap i.n { cause := accessCause v.acc, tval := va, gva := v.virt }
      else if f5 = 3 ∧ k.res ≠ some (BitVec.ofNat 48 pa) then
        s.coreNext i.n i.len (fun k => { k.setX (iRd w) 1 with res := none })
      else match s.coreSector i.n pa va v (i.bad && f5 != 3) with
        | .stop s => s
        | .ok d s =>
          let old := sectorNum d pa size
          let b := (k.getX (iRs2 w)).toNat % 2 ^ bits
          if f5 = 2 then s.coreNext i.n i.len (fun k => { k.setX (iRd w) (ext old) with res := some (BitVec.ofNat 48 pa) })
          else if f5 = 3 then (s.corePut i.n pa (leBytes size b)).coreNext i.n i.len (fun k => { k.setX (iRd w) 0 with res := none })
          else
            let lt := decide (sint bits old < sint bits b)
            let new := match f5 with
              | 1 => b
              | 0 => (old + b) % 2 ^ bits
              | 4 => old ^^^ b
              | 8 => old ||| b
              | 12 => old &&& b
              | 16 => if lt then old else b
              | 20 => if lt then b else old
              | 24 => min old b
              | _ => max old b
            (s.corePut i.n pa (leBytes size new)).coreNext i.n i.len (fun k => k.setX (iRd w) (ext old))

/-- A privileged instruction in a mode that may not run it: a virtual-instruction exception in a guest, else an illegal one. -/
def State.coreDenied (s : State) (i : ZI) : State :=
  if (s.core i.n).virt then s.coreTrap i.n { cause := 22, tval := i.raw } else s.coreIllegal i

/-- CSR instructions. -/
def State.coreCsr (s : State) (i : ZI) : State :=
  let k := s.core i.n
  let w := i.w
  let num := fld w 31 20
  let m := csrGuest k.virt num
  let off := (decide (1 ≤ num ∧ num ≤ 3) && !k.unitOn 14 13) ||
    ((decide (8 ≤ num ∧ num ≤ 15) || decide (0xC20 ≤ num ∧ num ≤ 0xC22)) && !k.unitOn 10 9)
  match k.csrValue m s.launchCounter i.n s.free with
  | none => s.coreIllegal i
  | some old =>
    if off || !k.stateOn false num then s.coreIllegal i
    else if !k.stateOn true num then s.coreDenied i
    else if k.csrDenied num (csrWrites w) = some true then s.coreDenied i
    else if k.csrDenied num (csrWrites w) = some false then s.coreIllegal i
    else
      let s : State := if num = 0xC00 ∨ num = 0xB00 then { s with free := s.free + 1 } else s
      s.coreNext i.n i.len (fun k =>
        let k1 := match csrNew w old (k.getX (iRs1 w)) with
          | some v => k.csrWrite m v
          | none => k
        k1.setX (iRd w) old)

/-- Loads and stores that a hypervisor makes as its guest (HLV, HLVX, HSV). -/
def State.coreGuestMem (s : State) (i : ZI) : State :=
  let k := s.core i.n
  let w := i.w
  let store := decide (iF7 w % 2 = 1)
  let size := 2 ^ (iF7 w / 2 % 4)
  let kind := iRs2 w
  let v : ZView := { acc := if store then .store else .load, mode := if bit (k.getCsr Csr.hstatus) 8 then 1 else 0, virt := true,
                     hlvx := !store && kind == 3 }
  let va := (k.getX (iRs1 w)).toNat
  if k.virt then s.coreDenied i
  else if k.mode = 0 ∧ !bit (k.getCsr Csr.hstatus) 9 then s.coreIllegal i
  else if store then
    (match s.coreStore i.n v va (leBytes size (k.getX (iRs2 w)).toNat) with
     | .stop s => s
     | .ok _ s => s.coreNext i.n i.len id)
  else if kind ≠ 0 ∧ kind ≠ 1 ∧ kind ≠ 3 then s.coreIllegal i
  else match s.coreLoad i.n v va size i.bad with
    | .stop s => s
    | .ok bs s => s.coreNext i.n i.len (fun k => k.setX (iRd w)
        (if kind = 0 then BitVec.ofInt 64 (sint (8 * size) (leNat bs)) else BitVec.ofNat 64 (leNat bs)))

/-- Privileged and environment instructions. -/
def State.coreSystem (s : State) (i : ZI) : State :=
  let k := s.core i.n
  let st := k.getCsr Csr.mstatus
  let hs := k.getCsr Csr.hstatus
  let guestOs := k.virt && k.mode == 1
  let nop := s.coreNext i.n i.len id
  let jump := fun (k1 : ZCore) => s.coreJump i.n k1.pc (fun _ => k1)
  if i.w = 0x73#32 then
    s.coreTrap i.n { cause := if k.mode = 3 then 11 else if k.mode = 0 then 8 else if k.virt then 10 else 9 }
  else if i.w = 0x00100073#32 then s.coreTrap i.n { cause := 3, tval := k.pc.toNat }
  else if i.w = 0x30200073#32 then (if k.mode = 3 then jump k.mret else s.coreIllegal i)
  else if i.w = 0x10200073#32 then
    (if k.mode = 0 ∨ (guestOs ∧ bit hs 22) then s.coreDenied i
     else if k.mode = 1 ∧ !k.virt ∧ bit st 22 then s.coreIllegal i else jump k.sret)
  else if i.w = 0x10500073#32 then
    (if k.mode ≠ 3 ∧ bit st 21 then s.coreIllegal i
     else if (k.virt ∧ k.mode = 0) ∨ (guestOs ∧ bit hs 21) then s.coreDenied i
     else s.coreNext i.n i.len (fun k => { k with wfi := true }))
  else if fld i.w 31 20 = 0x00D ∨ fld i.w 31 20 = 0x01D then (if iRd i.w = 0 ∧ iRs1 i.w = 0 then nop else s.coreIllegal i)
  else if iRd i.w ≠ 0 then s.coreIllegal i
  else match iF7 i.w with
    | 0x09 => if k.mode = 0 ∨ (guestOs ∧ bit hs 20) then s.coreDenied i else if k.mode = 1 ∧ !k.virt ∧ bit st 20 then s.coreIllegal i else nop
    | 0x0B => if k.mode = 0 ∨ (guestOs ∧ bit hs 20) then s.coreDenied i else if k.mode = 1 ∧ !k.virt ∧ bit st 20 then s.coreIllegal i else nop
    | 0x0C => if k.mode = 0 then s.coreDenied i else nop
    | 0x11 => if k.virt ∨ k.mode = 0 then s.coreDenied i else nop
    | 0x13 => if k.virt ∨ k.mode = 0 then s.coreDenied i else nop
    | 0x31 => if k.virt ∨ k.mode = 0 then s.coreDenied i else if k.mode = 1 ∧ bit st 20 then s.coreIllegal i else nop
    | 0x33 => if k.virt ∨ k.mode = 0 then s.coreDenied i else if k.mode = 1 ∧ bit st 20 then s.coreIllegal i else nop
    | _ => s.coreIllegal i

/-! ### The vector unit (R268: VLEN 256, ELEN 64) -/

/-- Element accesses of a vector load or store in order: the field and element, and its address. -/
def ZCore.vaddrs (k : ZCore) (w : BitVec 32) (eew : Nat) : List (Nat × Nat × Nat) :=
  let base := (k.getX (iRs1 w)).toNat
  let nf := fld w 31 29 + 1
  let mop := fld w 27 26
  let whole := mop = 0 ∧ iRs2 w = 8
  let maskOp := mop = 0 ∧ iRs2 w = 11
  let vl := (k.getCsr Csr.vl).toNat
  let sew := 2 ^ fld (k.getCsr Csr.vtype) 5 3
  let n := if whole then nf * 32 / eew else if maskOp then (vl + 7) / 8 else vl
  let fields := if whole then 1 else nf
  let size := if mop % 2 = 1 then sew else eew
  let active := fun (j : Nat) => bit w 25 || whole || maskOp || (tget 0 k.v 0).getLsbD j
  ((List.range n).drop (k.getCsr Csr.vstart).toNat).flatMap (fun j => if !active j then [] else
    (List.range fields).map (fun f =>
      let off := match mop with
        | 0 => (j * fields + f) * eew
        | 2 => j * (k.getX (iRs2 w)).toNat + f * eew
        | _ => k.velem (iRs2 w) eew j + f * size
      (f, j, (base + off) % 2 ^ 64)))

/-- Perform the element accesses in order; one that stops leaves vstart at its element. -/
def State.vecMem (i : ZI) (store : Bool) (size group : Nat) : List (Nat × Nat × Nat) → State → Option State × State
  | [], s => (some s, s)
  | (f, j, va) :: rest, s =>
    let k := s.core i.n
    let r := iRd i.w + f * group
    -- the uncached accesses of the element before are over (R270)
    let s := s.modCore i.n (fun k => { k.putCsr Csr.vstart (BitVec.ofNat 64 j) with
      unc := if (k.getCsr Csr.vstart).toNat = j then k.unc else [] })
    if store then
      match s.coreStore i.n (k.view .store) va (leBytes size (k.velem r size j)) with
      | .stop s => (none, s)
      | .ok _ s => State.vecMem i store size group rest s
    else match s.coreLoad i.n (k.view .load) va size i.bad with
      | .stop s => (none, s)
      | .ok bs s => State.vecMem i store size group rest (s.modCore i.n (fun k => k.setVelem r size j (leNat bs)))

/-- Whether the encoding of a vector load or store is none that the settings make reserved. -/
def ZCore.vmemOk (k : ZCore) (w : BitVec 32) (eew : Nat) : Bool :=
  let c := k.vsettings
  let load := fld w 6 0 == 0x07
  let nf := fld w 31 29 + 1
  let mop := fld w 27 26
  let vm := bit w 25
  let rd := iRd w
  let rs2 := iRs2 w
  let size := 8 * (if mop % 2 = 1 then c.sew / 8 else eew)
  let indexOk := mop % 2 == 0 ||
    (c.operandOk (8 * eew) rs2 && (!load || (if nf = 1 then c.overlapOk size rd (8 * eew) rs2 else
      decide (rd + nf * c.regs size ≤ rs2 ∨ rs2 + c.regs (8 * eew) ≤ rd))))
  if bit w 28 then false
  else if mop = 0 ∧ rs2 = 8 then vm && [1, 2, 4, 8].contains nf && rd % nf == 0 && (load || eew == 1)
  else if mop = 0 ∧ rs2 = 11 then vm && nf == 1 && eew == 1 && !bit (k.getCsr Csr.vtype) 63
  else
    !bit (k.getCsr Csr.vtype) 63 && (mop != 0 || rs2 == 0 || (rs2 == 16 && load)) && c.operandOk size rd &&
    decide (nf * c.emul size ≤ 64 ∧ rd + nf * c.regs size ≤ 32) && indexOk && (vm || !load || rd != 0)

/-- Vector loads and stores: unit-stride, whole-register, mask, strided and indexed, with segments.  A fault-only-first load is made as a
plain one; it is the first element that may fault. -/
def State.coreVecMem (s : State) (i : ZI) : State :=
  let k := s.core i.n
  let w := i.w
  let store := fld w 6 0 == 0x27
  let eew := match iF3 w with | 0 => 1 | 5 => 2 | 6 => 4 | _ => 8
  let mop := fld w 27 26
  let c := k.vsettings
  let size := if mop % 2 = 1 then c.sew / 8 else eew
  let group := if mop = 0 ∧ (iRs2 w = 8 ∨ iRs2 w = 11) then 1 else c.regs (8 * size)
  if !k.unitOn 10 9 ∨ !k.vmemOk w eew then s.coreIllegal i
  else
    let fof := mop = 0 ∧ iRs2 w = 16 ∧ !store
    let list := k.vaddrs w eew
    match State.vecMem i store size group list (s.modCore i.n ZCore.vsDirty) with
    | (some s, _) => s.coreNext i.n i.len (fun k => k.putCsr Csr.vstart 0)
    | (none, t) =>
      let at_ := (t.core i.n).getCsr Csr.vstart
      if fof ∧ at_ ≠ 0 ∧ (t.core i.n).pc ≠ k.pc then
        -- a later element faulted: the trap is not taken, and vl ends at the element
        (t.modCore i.n (fun u => { k with v := u.v, l1d := u.l1d, l2 := u.l2, reqs := u.reqs, wb := u.wb, wbRetry := u.wbRetry, failed := u.failed })).coreNext
          i.n i.len (fun k => ((k.putCsr Csr.vl at_).putCsr Csr.vstart 0).vsDirty)
      else t

/-- The instruction word with its vector settings. -/
def ZCore.vkey (k : ZCore) (w : BitVec 32) : Nat :=
  w.toNat + 2 ^ 32 * ((k.getCsr Csr.vl).toNat + 2 ^ 16 * ((k.getCsr Csr.vstart).toNat + 2 ^ 16 * (k.getCsr Csr.vtype).toNat))

/-- Vector arithmetic and the settings of vtype. -/
def State.coreVec (s : State) (i : ZI) : State :=
  let k := s.core i.n
  if !k.unitOn 10 9 then s.coreIllegal i
  else if iF3 i.w = 7 then s.coreNext i.n i.len (fun k => k.vset i.w)
  -- what the vector specification leaves open is a function of the instruction and its operands: core arithmetic never varies (R426)
  else match k.vector i.w (k.vkey i.w) with
    | none => s.coreIllegal i
    | some _ => s.coreNext i.n i.len (fun k => (k.vector i.w (k.vkey i.w)).getD k)

/-! ### The next instruction -/

/-- Run an instruction word. -/
def State.coreRun (s : State) (i : ZI) : State :=
  let k := s.core i.n
  let w := i.w
  let a := k.getX (iRs1 w)
  let b := k.getX (iRs2 w)
  let next := k.pc + BitVec.ofNat 64 i.len
  let fpOn := k.unitOn 14 13
  let f3 := iF3 w
  match fld w 6 0 with
  | 0x6F => s.coreJump i.n (k.pc + BitVec.ofInt 64 (iImmJ w)) (fun k => k.setX (iRd w) next)
  | 0x67 =>
    if f3 ≠ 0 then s.coreIllegal i
    else s.coreJump i.n (BitVec.ofNat 64 ((a + BitVec.ofInt 64 (iImm w)).toNat / 2 * 2)) (fun k => k.setX (iRd w) next)
  | 0x63 =>
    if f3 = 2 ∨ f3 = 3 then s.coreIllegal i
    else if branchTaken f3 a b then s.coreJump i.n (k.pc + BitVec.ofInt 64 (iImmB w)) id else s.coreNext i.n i.len id
  | 0x03 => if f3 = 7 then s.coreIllegal i else s.coreMem i
  | 0x23 => if 3 < f3 then s.coreIllegal i else s.coreMem i
  | 0x07 => if f3 = 0 ∨ 5 ≤ f3 then s.coreVecMem i else if fpOn ∧ f3 ≠ 4 then s.coreMem i else s.coreIllegal i
  | 0x27 => if f3 = 0 ∨ 5 ≤ f3 then s.coreVecMem i else if fpOn ∧ f3 ≠ 4 then s.coreMem i else s.coreIllegal i
  | 0x2F => s.coreAmo i
  | 0x0F =>
    if f3 = 0 then s.coreNext i.n i.len id
    else if f3 = 1 then s.coreNext i.n i.len (fun k => { k with l1i := [] })
    else s.coreIllegal i
  | 0x57 => s.coreVec i
  | 0x73 =>
    if f3 = 0 then s.coreSystem i
    else if f3 = 4 then
      (if isMop w then s.coreNext i.n i.len (fun k => k.setX (iRd w) 0)
       else if fld w 31 28 = 6 then s.coreGuestMem i else s.coreIllegal i)
    else s.coreCsr i
  | op =>
    if op = 0x43 ∨ op = 0x47 ∨ op = 0x4B ∨ op = 0x4F ∨ op = 0x53 then
      (match (if fpOn then coreFp k w else none) with
       | some r => s.coreNext i.n i.len (fun k => k.setZF (iRd w) r)
       | none => s.coreIllegal i)
    else match coreAlu w k.pc.toNat a b with
      | some v => s.coreNext i.n i.len (fun k => k.setX (iRd w) v)
      | none => s.coreIllegal i

/-- The word of a cache-block operation: 0 inval, 1 clean, 2 flush, 4 zero. -/
def cboOf (w : BitVec 32) : Option Nat :=
  if fld w 6 0 = 0x0F ∧ iF3 w = 2 ∧ iRd w = 0 ∧ [0, 1, 2, 4].contains (fld w 31 20) then some (fld w 31 20) else none

/-- Whether a core works: it has started, and its die is powered (R400, R452). -/
def State.coreAwake (s : State) : Bool := s.powerState == 1 && decide (11 ≤ s.coldStep.toNat)

/-- Attempt a core's next instruction (R268): interrupts first, then the fetch; `f` runs the word.  `bad` says what fails its check (log 14). -/
def State.coreStep (s : State) (n : Nat) (bad : CoreBad) (f : State → ZI → State) : State :=
  let k := s.core n
  if !s.coreAwake || (k.wfi && k.pendingAt s.launchCounter &&& (k.getCsr Csr.mie).toNat == 0) then s
  else
    let s := s.modCore n (fun k => { k with wfi := false })
    -- an instruction whose uncached access is under way ends first (R270)
    match (if k.unc = [] then k.interrupt s.launchCounter else none) with
    | some c =>
      (s.coreTrap n { cause := c, intr := true }).modCore n (fun k =>
        if c = 11 then k.putCsr Csr.mip (setB (k.getCsr Csr.mip) 11 false) else k)
    | none =>
      let v := k.view .fetch
      match s.corePiece n v k.pc.toNat 2 (bad == .fetch) with
      | .stop s => s
      | .ok lo s =>
        let h := leNat lo
        if h % 4 ≠ 3 then
          (match expandC h with
           | some w => f s { n := n, w := BitVec.ofNat 32 w, raw := h, len := 2, bad := bad == .data }
           | none => s.coreTrap n { cause := 2, tval := h })
        else match s.corePiece n v (k.pc.toNat + 2) 2 false with
          | .stop s => s
          | .ok hi s =>
            let w := h + leNat hi * 65536
            f s { n := n, w := BitVec.ofNat 32 w, raw := w, len := 4, bad := bad == .data }

/-- CORE_INSTRUCTION: any instruction but the cache-block operations, which have rows of their own (R268). -/
def stepCoreInstruction (n : BitVec 6) (bad : CoreBad) (s : State) : State :=
  s.coreStep n.toNat bad (fun t i => if (cboOf i.w).isSome then s else t.coreRun i)
def execCoreInstruction (n : BitVec 6) (bad : CoreBad) (s : State) : Host.Outcome State Fault Refusal := .next (stepCoreInstruction n bad s)

/-- Whether an envcfg register enables a cache-block operation (Zicbom, Zicboz). -/
def ZCore.cboOn (k : ZCore) (op c : Nat) : Bool :=
  let v := k.getCsr c
  if op = 4 then bit v 7 else if op = 0 then fld v 5 4 != 0 else bit v 6

/-- Run a cache-block operation: its block is translated, must be stacked memory, and is acted on (R285). -/
def State.cboStep (s : State) (n op : Nat) (f : State → ZI → Nat → Nat → State) : State :=
  s.coreStep n .none (fun t i =>
    if cboOf i.w ≠ some op then s
    else
      let k := t.core n
      let va := (k.getX (iRs1 i.w)).toNat
      -- what M-mode bars is illegal; what the hypervisor or a guest's supervisor bars is a virtual instruction in a guest
      if k.mode ≠ 3 ∧ !k.cboOn op Csr.menvcfg then t.coreIllegal i
      else if (k.mode = 0 ∧ !k.cboOn op Csr.senvcfg) ∨ (k.virt ∧ !k.cboOn op Csr.henvcfg) then t.coreDenied i
      else match t.coreWalk n (k.view (if op = 4 then .store else .load)) 1 va (fun e =>
          { e with cause := if e.cause = 5 then 7 else if e.cause = 13 then 15 else if e.cause = 21 then 23 else e.cause }) with
        | .stop t => t
        | .ok pa t =>
          if t.coreRange pa ≠ .memory then t.coreTrap n { cause := 7, tval := va, gva := k.virt }
          else f t i (sectorBase pa) va)

/-- CBO_CLEAN: an M block is written back with Keep set and kept in E (R279, R285). -/
def stepCboClean (n : BitVec 6) (s : State) : State :=
  s.cboStep n.toNat 1 (fun s i pa _ =>
    if ((s.core i.n).sector pa).st = .modified then
      (match s.coreWriteBack i.n pa true with
       | some s => s.coreNext i.n i.len id
       | none => s)
    else s.coreNext i.n i.len id)
def execCboClean (n : BitVec 6) (s : State) : Host.Outcome State Fault Refusal := .next (stepCboClean n s)

/-- A block leaves the core: written back if dirty, EvictClean if clean (R285). -/
def State.cboDrop (s : State) (i : ZI) (pa : Nat) : State :=
  match s.coreEvict i.n pa with
  | some s => s.coreNext i.n i.len id
  | none => s

/-- CBO_FLUSH (R285). -/
def stepCboFlush (n : BitVec 6) (s : State) : State := s.cboStep n.toNat 2 (fun s i pa _ => s.cboDrop i pa)
def execCboFlush (n : BitVec 6) (s : State) : Host.Outcome State Fault Refusal := .next (stepCboFlush n s)

/-- CBO_INVAL: performed as cbo.flush (R285). -/
def stepCboInval (n : BitVec 6) (s : State) : State := s.cboStep n.toNat 0 (fun s i pa _ => s.cboDrop i pa)
def execCboInval (n : BitVec 6) (s : State) : Host.Outcome State Fault Refusal := .next (stepCboInval n s)

/-- CBO_ZERO: the block is obtained by RdUnique and written with zeros (R285). -/
def stepCboZero (n : BitVec 6) (s : State) : State :=
  s.cboStep n.toNat 4 (fun s i pa va =>
    let k := s.core i.n
    if (k.sector pa).st = .shared ∧ !k.failed.contains (BitVec.ofNat 48 pa) then s.coreAsk i.n pa 2 false
    else match s.coreSector i.n pa va (k.view .store) false with
    | .stop s => s
    | .ok _ s => (s.corePut i.n pa (List.replicate 128 0)).coreNext i.n i.len id)
def execCboZero (n : BitVec 6) (s : State) : Host.Outcome State Fault Refusal := .next (stepCboZero n s)

end Sys2Proof.Machine
end

