-- ==== Sys2Proof/Machine/Dispatch.lean ====
section
/-!
DEFINITION. The meaning of each command: one arm per constructor of Instr, one direct call of its meaning.
-/

namespace Sys2Proof.Machine

/-- The effect of a command on everything but the queue of waiting commands. -/
def exec (i : Instr) (s : State) : Host.Outcome State Fault Refusal :=
  match i with
  | .payloadFlit a f => Sys2Proof.Machine.execPayloadFlit a f s
  | .idleFlit a f => Sys2Proof.Machine.execIdleFlit a f s
  | .retryRequest a f => Sys2Proof.Machine.execRetryRequest a f s
  | .retryRequestResend a => Sys2Proof.Machine.execRetryRequestResend a s
  | .ackTimeout a => Sys2Proof.Machine.execAckTimeout a s
  | .linkTraining l ordered capLow capHigh => Sys2Proof.Machine.execLinkTraining l ordered capLow capHigh s
  | .linkTrainingDone l marks => Sys2Proof.Machine.execLinkTrainingDone l marks s
  | .siteSwitch die k => Sys2Proof.Machine.execSiteSwitch die k s
  | .product c g => Sys2Proof.Machine.execProduct c g s
  | .exponentPass c g => Sys2Proof.Machine.execExponentPass c g s
  | .merge c g => Sys2Proof.Machine.execMerge c g s
  | .anchorLoad c g => Sys2Proof.Machine.execAnchorLoad c g s
  | .drain c g => Sys2Proof.Machine.execDrain c g s
  | .ownExponentPassStart c => Sys2Proof.Machine.execOwnExponentPassStart c s
  | .ownExponentPassEnd c => Sys2Proof.Machine.execOwnExponentPassEnd c s
  | .arrayPhaseStart c => Sys2Proof.Machine.execArrayPhaseStart c s
  | .arrayPhaseEnd c bad => Sys2Proof.Machine.execArrayPhaseEnd c bad s
  | .finishStart c => Sys2Proof.Machine.execFinishStart c s
  | .finishEnd c bad => Sys2Proof.Machine.execFinishEnd c bad s
  | .pressCreditReturn c => Sys2Proof.Machine.execPressCreditReturn c s
  | .dhTwait c g => Sys2Proof.Machine.execDhTwait c g s
  | .dhStream c g => Sys2Proof.Machine.execDhStream c g s
  | .rowVectorLoad c => Sys2Proof.Machine.execRowVectorLoad c s
  | .streamFirstRead c bad => Sys2Proof.Machine.execStreamFirstRead c bad s
  | .streamComplete c => Sys2Proof.Machine.execStreamComplete c s
  | .dhSwait c g => Sys2Proof.Machine.execDhSwait c g s
  | .dhOcfill c g => Sys2Proof.Machine.execDhOcfill c g s
  | .dhOcflush c g => Sys2Proof.Machine.execDhOcflush c g s
  | .fillStart c bad => Sys2Proof.Machine.execFillStart c bad s
  | .fillComplete c => Sys2Proof.Machine.execFillComplete c s
  | .baseAlu c g => Sys2Proof.Machine.execBaseAlu c g s
  | .baseBranch c g => Sys2Proof.Machine.execBaseBranch c g s
  | .baseJump c g => Sys2Proof.Machine.execBaseJump c g s
  | .baseLoad c g => Sys2Proof.Machine.execBaseLoad c g s
  | .baseStore c g => Sys2Proof.Machine.execBaseStore c g s
  | .baseMulDiv c g => Sys2Proof.Machine.execBaseMulDiv c g s
  | .fpArithmetic c g => Sys2Proof.Machine.execFpArithmetic c g s
  | .fpConversion c g => Sys2Proof.Machine.execFpConversion c g s
  | .csrAccess c g => Sys2Proof.Machine.execCsrAccess c g s
  | .baseFence c g => Sys2Proof.Machine.execBaseFence c g s
  | .ecall c g => Sys2Proof.Machine.execEcall c g s
  | .ebreak c g => Sys2Proof.Machine.execEbreak c g s
  | .illegalInstruction c g => Sys2Proof.Machine.execIllegalInstruction c g s
  | .groupPark c x => Sys2Proof.Machine.execGroupPark c x s
  | .yieldWakeTimeout c g => Sys2Proof.Machine.execYieldWakeTimeout c g s
  | .groupLivelock c g => Sys2Proof.Machine.execGroupLivelock c g s
  | .groupRetire c g => Sys2Proof.Machine.execGroupRetire c g s
  | .clusterKernelComplete c => Sys2Proof.Machine.execClusterKernelComplete c s
  | .dhVany c g => Sys2Proof.Machine.execDhVany c g s
  | .dhVall c g => Sys2Proof.Machine.execDhVall c g s
  | .dhBallot c g => Sys2Proof.Machine.execDhBallot c g s
  | .dhElect c g => Sys2Proof.Machine.execDhElect c g s
  | .dhVsum c g => Sys2Proof.Machine.execDhVsum c g s
  | .dhVmin c g => Sys2Proof.Machine.execDhVmin c g s
  | .dhVmax c g => Sys2Proof.Machine.execDhVmax c g s
  | .dhVprefix c g => Sys2Proof.Machine.execDhVprefix c g s
  | .dhShfl c g => Sys2Proof.Machine.execDhShfl c g s
  | .dhShflXor c g => Sys2Proof.Machine.execDhShflXor c g s
  | .dhShflUp c g => Sys2Proof.Machine.execDhShflUp c g s
  | .dhShflDown c g => Sys2Proof.Machine.execDhShflDown c g s
  | .dhLsLoad c g bad => Sys2Proof.Machine.execDhLsLoad c g bad s
  | .dhLsStore c g bad => Sys2Proof.Machine.execDhLsStore c g bad s
  | .dhHintedLoad c g => Sys2Proof.Machine.execDhHintedLoad c g s
  | .dhHintedStore c g => Sys2Proof.Machine.execDhHintedStore c g s
  | .dhDeadhead c g => Sys2Proof.Machine.execDhDeadhead c g s
  | .dhFence c g => Sys2Proof.Machine.execDhFence c g s
  | .dhAmoswap c g => Sys2Proof.Machine.execDhAmoswap c g s
  | .dhAmoadd c g => Sys2Proof.Machine.execDhAmoadd c g s
  | .dhAmoand c g => Sys2Proof.Machine.execDhAmoand c g s
  | .dhAmoor c g => Sys2Proof.Machine.execDhAmoor c g s
  | .dhAmoxor c g => Sys2Proof.Machine.execDhAmoxor c g s
  | .dhAmomin c g => Sys2Proof.Machine.execDhAmomin c g s
  | .dhAmomax c g => Sys2Proof.Machine.execDhAmomax c g s
  | .dhAmominu c g => Sys2Proof.Machine.execDhAmominu c g s
  | .dhAmomaxu c g => Sys2Proof.Machine.execDhAmomaxu c g s
  | .dhAmocas c g => Sys2Proof.Machine.execDhAmocas c g s
  | .dhFamoaddS c g => Sys2Proof.Machine.execDhFamoaddS c g s
  | .dhFamominS c g => Sys2Proof.Machine.execDhFamominS c g s
  | .dhFamomaxS c g => Sys2Proof.Machine.execDhFamomaxS c g s
  | .dhAcq c g => Sys2Proof.Machine.execDhAcq c g s
  | .dhSpinacq c g => Sys2Proof.Machine.execDhSpinacq c g s
  | .dhRel c g => Sys2Proof.Machine.execDhRel c g s
  | .dhTksig c g => Sys2Proof.Machine.execDhTksig c g s
  | .tokenArrival c n => Sys2Proof.Machine.execTokenArrival c n s
  | .dhTkwait c g => Sys2Proof.Machine.execDhTkwait c g s
  | .dhTkread c g => Sys2Proof.Machine.execDhTkread c g s
  | .dhExit c g => Sys2Proof.Machine.execDhExit c g s
  | .dhPark c g => Sys2Proof.Machine.execDhPark c g s
  | .rdSec m bad => Sys2Proof.Machine.execRdSec m bad s
  | .wrFull m bad => Sys2Proof.Machine.execWrFull m bad s
  | .wrMask m bad => Sys2Proof.Machine.execWrMask m bad s
  | .atomic m bad => Sys2Proof.Machine.execAtomic m bad s
  | .dead m => Sys2Proof.Machine.execDead m s
  | .redInt m bad => Sys2Proof.Machine.execRedInt m bad s
  | .redOrd m bad => Sys2Proof.Machine.execRedOrd m bad s
  | .data x => Sys2Proof.Machine.execData x s
  | .done m => Sys2Proof.Machine.execDone m s
  | .atomRes m => Sys2Proof.Machine.execAtomRes m s
  | .err m => Sys2Proof.Machine.execErr m s
  | .retry m => Sys2Proof.Machine.execRetry m s
  | .redDone m => Sys2Proof.Machine.execRedDone m s
  | .maintDone m => Sys2Proof.Machine.execMaintDone m s
  | .invalidMessage l m => Sys2Proof.Machine.execInvalidMessage l m s
  | .sectorArrival ch pa errs => Sys2Proof.Machine.execSectorArrival ch pa errs s
  | .quireRetryResend src tag => Sys2Proof.Machine.execQuireRetryResend src tag s
  | .redordResend src tag => Sys2Proof.Machine.execRedordResend src tag s
  | .reductionStall h pa => Sys2Proof.Machine.execReductionStall h pa s
  | .storeTrackerExpiry h src => Sys2Proof.Machine.execStoreTrackerExpiry h src s
  | .writeAroundDrain h => Sys2Proof.Machine.execWriteAroundDrain h s
  | .quirePartition by_ => Sys2Proof.Machine.execQuirePartition by_ s
  | .scratchWaysChangeDone h => Sys2Proof.Machine.execScratchWaysChangeDone h s
  | .quirePreload by_ => Sys2Proof.Machine.execQuirePreload by_ s
  | .quirePreloadAndLock by_ => Sys2Proof.Machine.execQuirePreloadAndLock by_ s
  | .quireUnlock by_ => Sys2Proof.Machine.execQuireUnlock by_ s
  | .quireWriteBack by_ => Sys2Proof.Machine.execQuireWriteBack by_ s
  | .quireWriteBackInvalidate by_ => Sys2Proof.Machine.execQuireWriteBackInvalidate by_ s
  | .channelTrainingDone ch r => Sys2Proof.Machine.execChannelTrainingDone ch r s
  | .symbolThreshold ch pos => Sys2Proof.Machine.execSymbolThreshold ch pos s
  | .patrolScrub ch errs => Sys2Proof.Machine.execPatrolScrub ch errs s
  | .channelFetch ch => Sys2Proof.Machine.execChannelFetch ch s
  | .channelWrite ch => Sys2Proof.Machine.execChannelWrite ch s
  | .refresh ch bank act => Sys2Proof.Machine.execRefresh ch bank act s
  | .stackTemperatureSample stack t => Sys2Proof.Machine.execStackTemperatureSample stack t s
  | .coreInstruction n bad => Sys2Proof.Machine.execCoreInstruction n bad s
  | .cboClean n => Sys2Proof.Machine.execCboClean n s
  | .cboFlush n => Sys2Proof.Machine.execCboFlush n s
  | .cboInval n => Sys2Proof.Machine.execCboInval n s
  | .cboZero n => Sys2Proof.Machine.execCboZero n s
  | .rdShared m => Sys2Proof.Machine.execRdShared m s
  | .rdUnique m => Sys2Proof.Machine.execRdUnique m s
  | .upgrade m => Sys2Proof.Machine.execUpgrade m s
  | .wbFull m => Sys2Proof.Machine.execWbFull m s
  | .evictClean m => Sys2Proof.Machine.execEvictClean m s
  | .compAck m => Sys2Proof.Machine.execCompAck m s
  | .snpFwdS m => Sys2Proof.Machine.execSnpFwdS m s
  | .snpFwdU m => Sys2Proof.Machine.execSnpFwdU m s
  | .snpInv m => Sys2Proof.Machine.execSnpInv m s
  | .snpDown m => Sys2Proof.Machine.execSnpDown m s
  | .snpRecall m => Sys2Proof.Machine.execSnpRecall m s
  | .snpDrop m => Sys2Proof.Machine.execSnpDrop m s
  | .grant m => Sys2Proof.Machine.execGrant m s
  | .wbAck m => Sys2Proof.Machine.execWbAck m s
  | .snpAck m => Sys2Proof.Machine.execSnpAck m s
  | .snpData m => Sys2Proof.Machine.execSnpData m s
  | .coherentRetryResend n tag => Sys2Proof.Machine.execCoherentRetryResend n tag s
  | .starvationRecordExpiry h bank => Sys2Proof.Machine.execStarvationRecordExpiry h bank s
  | .translationInvalidate aq => Sys2Proof.Machine.execTranslationInvalidate aq s
  | .windowSet aq => Sys2Proof.Machine.execWindowSet aq s
  | .faultResumeRetry aq => Sys2Proof.Machine.execFaultResumeRetry aq s
  | .faultResumeAbort aq => Sys2Proof.Machine.execFaultResumeAbort aq s
  | .copyStall e => Sys2Proof.Machine.execCopyStall e s
  | .translationFaultRecord e => Sys2Proof.Machine.execTranslationFaultRecord e s
  | .hostIngressWrite place bytes => Sys2Proof.Machine.execHostIngressWrite place bytes s
  | .doorbell host off value => Sys2Proof.Machine.execDoorbell host off value s
  | .entryFetch q => Sys2Proof.Machine.execEntryFetch q s
  | .entryArrival q => Sys2Proof.Machine.execEntryArrival q s
  | .stampReread q => Sys2Proof.Machine.execStampReread q s
  | .stampTimeout q => Sys2Proof.Machine.execStampTimeout q s
  | .kernelLaunch q => Sys2Proof.Machine.execKernelLaunch q s
  | .kernelDispatch q => Sys2Proof.Machine.execKernelDispatch q s
  | .clusterReady c => Sys2Proof.Machine.execClusterReady c s
  | .start c => Sys2Proof.Machine.execStart c s
  | .go c => Sys2Proof.Machine.execGo c s
  | .kernelReplay q => Sys2Proof.Machine.execKernelReplay q s
  | .copy q => Sys2Proof.Machine.execCopy q s
  | .copyComplete e => Sys2Proof.Machine.execCopyComplete e s
  | .fenceWait q => Sys2Proof.Machine.execFenceWait q s
  | .fenceWaitSatisfied q => Sys2Proof.Machine.execFenceWaitSatisfied q s
  | .nop q => Sys2Proof.Machine.execNop q s
  | .invalidEntry q => Sys2Proof.Machine.execInvalidEntry q s
  | .waitGraphWalk q => Sys2Proof.Machine.execWaitGraphWalk q s
  | .contextOpen aq => Sys2Proof.Machine.execContextOpen aq s
  | .contextClose aq => Sys2Proof.Machine.execContextClose aq s
  | .contextReset aq => Sys2Proof.Machine.execContextReset aq s
  | .contextResetComplete x => Sys2Proof.Machine.execContextResetComplete x s
  | .queueCreate aq => Sys2Proof.Machine.execQueueCreate aq s
  | .queueDestroy aq => Sys2Proof.Machine.execQueueDestroy aq s
  | .queueReset aq => Sys2Proof.Machine.execQueueReset aq s
  | .groupAccessRead aq => Sys2Proof.Machine.execGroupAccessRead aq s
  | .groupAccessWrite aq => Sys2Proof.Machine.execGroupAccessWrite aq s
  | .inspectionApertureWrite n off wide value => Sys2Proof.Machine.execInspectionApertureWrite n off wide value s
  | .groupResumeReplay aq => Sys2Proof.Machine.execGroupResumeReplay aq s
  | .groupResumeSkip aq => Sys2Proof.Machine.execGroupResumeSkip aq s
  | .groupResumeDiscard aq => Sys2Proof.Machine.execGroupResumeDiscard aq s
  | .groupStop aq => Sys2Proof.Machine.execGroupStop aq s
  | .registerRead aq => Sys2Proof.Machine.execRegisterRead aq s
  | .registerWrite aq => Sys2Proof.Machine.execRegisterWrite aq s
  | .apertureWrite n off value => Sys2Proof.Machine.execApertureWrite n off value s
  | .linkStatusRead l e => Sys2Proof.Machine.execLinkStatusRead l e s
  | .channelStatusRead ch => Sys2Proof.Machine.execChannelStatusRead ch s
  | .quireCounterRead x => Sys2Proof.Machine.execQuireCounterRead x s
  | .contextStatusRead x => Sys2Proof.Machine.execContextStatusRead x s
  | .portStatusRead p => Sys2Proof.Machine.execPortStatusRead p s
  | .timedStatusRead upper => Sys2Proof.Machine.execTimedStatusRead upper s
  | .hostAttach aq => Sys2Proof.Machine.execHostAttach aq s
  | .hostDetach aq unsent => Sys2Proof.Machine.execHostDetach aq unsent s
  | .hostApertureSet aq => Sys2Proof.Machine.execHostApertureSet aq s
  | .completionRingSet aq => Sys2Proof.Machine.execCompletionRingSet aq s
  | .eventResend aq => Sys2Proof.Machine.execEventResend aq s
  | .hostRead bar off len => Sys2Proof.Machine.execHostRead bar off len s
  | .pcieLinkDown unsent => Sys2Proof.Machine.execPcieLinkDown unsent s
  | .perst unsent => Sys2Proof.Machine.execPerst unsent s
  | .hotReset unsent => Sys2Proof.Machine.execHotReset unsent s
  | .flr unsent => Sys2Proof.Machine.execFlr unsent s
  | .msixUnmask v => Sys2Proof.Machine.execMsixUnmask v s
  | .msixHoldoffExpiry v => Sys2Proof.Machine.execMsixHoldoffExpiry v s
  | .etmosPortTraining p r => Sys2Proof.Machine.execEtmosPortTraining p r s
  | .etmosPortLoss p why => Sys2Proof.Machine.execEtmosPortLoss p why s
  | .portRestart p => Sys2Proof.Machine.execPortRestart p s
  | .handshake p m => Sys2Proof.Machine.execHandshake p m s
  | .etmosForward p m => Sys2Proof.Machine.execEtmosForward p m s
  | .winWrite p m => Sys2Proof.Machine.execWinWrite p m s
  | .winRead p m => Sys2Proof.Machine.execWinRead p m s
  | .winRedInt p m => Sys2Proof.Machine.execWinRedInt p m s
  | .winRedOrd p m => Sys2Proof.Machine.execWinRedOrd p m s
  | .winData p m => Sys2Proof.Machine.execWinData p m s
  | .winRedDone p m => Sys2Proof.Machine.execWinRedDone p m s
  | .winErr p m => Sys2Proof.Machine.execWinErr p m s
  | .windowResponseTimeout tag => Sys2Proof.Machine.execWindowResponseTimeout tag s
  | .mgmt p m => Sys2Proof.Machine.execMgmt p m s
  | .ptp p m => Sys2Proof.Machine.execPtp p m s
  | .counterSync p m => Sys2Proof.Machine.execCounterSync p m s
  | .delayProbe p m => Sys2Proof.Machine.execDelayProbe p m s
  | .delayReply p m => Sys2Proof.Machine.execDelayReply p m s
  | .counterSyncTimer p => Sys2Proof.Machine.execCounterSyncTimer p s
  | .delayProbeTimer => Sys2Proof.Machine.execDelayProbeTimer s
  | .rekey p => Sys2Proof.Machine.execRekey p s
  | .trellisGathering bytes => Sys2Proof.Machine.execTrellisGathering bytes s
  | .budgetGathering bytes => Sys2Proof.Machine.execBudgetGathering bytes s
  | .gatheringCommit cls => Sys2Proof.Machine.execGatheringCommit cls s
  | .jobGateSet aq => Sys2Proof.Machine.execJobGateSet aq s
  | .jobStart aq => Sys2Proof.Machine.execJobStart aq s
  | .jobGateClear aq => Sys2Proof.Machine.execJobGateClear aq s
  | .jobArm p m => Sys2Proof.Machine.execJobArm p m s
  | .armAck p m => Sys2Proof.Machine.execArmAck p m s
  | .armNack p m => Sys2Proof.Machine.execArmNack p m s
  | .jobConfirm p m => Sys2Proof.Machine.execJobConfirm p m s
  | .jobAbort p m => Sys2Proof.Machine.execJobAbort p m s
  | .jobGuardExpiry gate => Sys2Proof.Machine.execJobGuardExpiry gate s
  | .jobStartCount gate => Sys2Proof.Machine.execJobStartCount gate s
  | .clusterPowerGate c => Sys2Proof.Machine.execClusterPowerGate c s
  | .dozeEntry => Sys2Proof.Machine.execDozeEntry s
  | .dormantEntry => Sys2Proof.Machine.execDormantEntry s
  | .sleepEntryStep => Sys2Proof.Machine.execSleepEntryStep s
  | .clocheTimer => Sys2Proof.Machine.execClocheTimer s
  | .wakeComplete => Sys2Proof.Machine.execWakeComplete s
  | .powerPolicy aq => Sys2Proof.Machine.execPowerPolicy aq s
  | .powerSample avgMs avgSec => Sys2Proof.Machine.execPowerSample avgMs avgSec s
  | .powerControlTick => Sys2Proof.Machine.execPowerControlTick s
  | .railOvercurrent rail => Sys2Proof.Machine.execRailOvercurrent rail s
  | .railLimiterStep rail exceeded => Sys2Proof.Machine.execRailLimiterStep rail exceeded s
  | .droop die => Sys2Proof.Machine.execDroop die s
  | .droopRelease die => Sys2Proof.Machine.execDroopRelease die s
  | .throttleCoalesceWindow => Sys2Proof.Machine.execThrottleCoalesceWindow s
  | .heartbeat h far => Sys2Proof.Machine.execHeartbeat h far s
  | .heartbeatTimeout h own => Sys2Proof.Machine.execHeartbeatTimeout h own s
  | .splitNotice h => Sys2Proof.Machine.execSplitNotice h s
  | .splitRelease => Sys2Proof.Machine.execSplitRelease s
  | .splitTimeout => Sys2Proof.Machine.execSplitTimeout s
  | .coolantSample flow inlet => Sys2Proof.Machine.execCoolantSample flow inlet s
  | .flowLoss => Sys2Proof.Machine.execFlowLoss s
  | .dieTemperatureSample die t => Sys2Proof.Machine.execDieTemperatureSample die t s
  | .timedMode aq => Sys2Proof.Machine.execTimedMode aq s
  | .regionDigest aq => Sys2Proof.Machine.execRegionDigest aq s
  | .digestChunkDone => Sys2Proof.Machine.execDigestChunkDone s
  | .coldStart => Sys2Proof.Machine.execColdStart s
  | .coldStartStep r => Sys2Proof.Machine.execColdStartStep r s
  | .inputLoss => Sys2Proof.Machine.execInputLoss s
  | .modEnFall => Sys2Proof.Machine.execModEnFall s
  | .modEnRise => Sys2Proof.Machine.execModEnRise s
  | .epBegin len digest => Sys2Proof.Machine.execEpBegin len digest s
  | .epData off bytes => Sys2Proof.Machine.execEpData off bytes s
  | .epEnd => Sys2Proof.Machine.execEpEnd s
  | .epAbort => Sys2Proof.Machine.execEpAbort s
  | .epStatus => Sys2Proof.Machine.execEpStatus s
  | .endpaperVerifyDone => Sys2Proof.Machine.execEndpaperVerifyDone s
  | .endpaperProgrammingDone r => Sys2Proof.Machine.execEndpaperProgrammingDone r s
  | .attest aq => Sys2Proof.Machine.execAttest aq s
  | .measureExtend aq => Sys2Proof.Machine.execMeasureExtend aq s
  | .measureExtendRegister n v => Sys2Proof.Machine.execMeasureExtendRegister n v s
  | .bypass tdi => Sys2Proof.Machine.execBypass tdi s
  | .idcode => Sys2Proof.Machine.execIdcode s
  | .samplePreload pins shiftIn => Sys2Proof.Machine.execSamplePreload pins shiftIn s
  | .extest pins shiftIn => Sys2Proof.Machine.execExtest pins shiftIn s
  | .unlockChal => Sys2Proof.Machine.execUnlockChal s
  | .unlockToken token => Sys2Proof.Machine.execUnlockToken token s
  | .ijtag shiftIn => Sys2Proof.Machine.execIjtag shiftIn s
  | .intest shiftIn => Sys2Proof.Machine.execIntest shiftIn s
  | .smbusPowerStatus => Sys2Proof.Machine.execSmbusPowerStatus s
  | .smbusIdentity => Sys2Proof.Machine.execSmbusIdentity s
  | .smbusModuleState => Sys2Proof.Machine.execSmbusModuleState s
  | .smbusWake => Sys2Proof.Machine.execSmbusWake s
  | .smbusAlertCause => Sys2Proof.Machine.execSmbusAlertCause s
  | .smbusAlertResponse => Sys2Proof.Machine.execSmbusAlertResponse s
  | .portSleepNotice p => Sys2Proof.Machine.execPortSleepNotice p s
  | .portActivityWake p => Sys2Proof.Machine.execPortActivityWake p s
  | .hostTlpWake => Sys2Proof.Machine.execHostTlpWake s
  | .spineTemperatureSample t => Sys2Proof.Machine.execSpineTemperatureSample t s
  | .channelFailedOutsideColdStart ch => Sys2Proof.Machine.execChannelFailedOutsideColdStart ch s

end Sys2Proof.Machine
end

