-- ==== Sys2Proof/Safety.lean ====
section
/-!
DEFINITION. What claims about the block are stated in: a command that completes with a result, the parts of the state that a command
leaves alone, a lane instruction that issues, and the canonical form of memory.
-/

namespace Sys2Proof.Machine

/-- The command answers a next state. -/
def Completes (i : Instr) (s : State) : Prop := ∃ t, exec i s = .next t

/-- The command answers a next state, of which `P` holds. -/
def Gives (i : Instr) (s : State) (P : State → Prop) : Prop := ∃ t, exec i s = .next t ∧ P t

/-- The canonical form of memory: addresses strictly rising, no byte equal to what an unlisted address reads as (log 2). -/
def Memory.wf (m : List Host.Cell) : Bool := Tbl.wf (α := Byte) 0 m

/-! ### Frames: the two states differ in one unit only -/

/-- Only cluster `c` differs. -/
def OnlyCluster (s t : State) (c : Nat) : Prop :=
  { t with clusters := s.clusters } = s ∧ ∀ d, d ≠ c → t.cluster d = s.cluster d

/-- Only group `g` of cluster `c` differs. -/
def OnlyGroup (s t : State) (c g : Nat) : Prop :=
  OnlyCluster s t c ∧ { t.cluster c with groups := (s.cluster c).groups } = s.cluster c ∧ ∀ h, h ≠ g → t.group c h = s.group c h

/-- Only link end `i` differs. -/
def OnlyLink (s t : State) (i : Nat) : Prop := { t with links := s.links } = s ∧ ∀ j, j ≠ i → t.linkEnd j = s.linkEnd j

/-- Only Etmos port `p` differs. -/
def OnlyPort (s t : State) (p : Nat) : Prop := { t with ports := s.ports } = s ∧ ∀ j, j ≠ p → t.port j = s.port j

/-- Only channel `ch` differs. -/
def OnlyChannel (s t : State) (ch : Nat) : Prop :=
  { t with channels := s.channels } = s ∧ ∀ j, j ≠ ch → t.channel j = s.channel j

/-- Only core `n` differs. -/
def OnlyCore (s t : State) (n : Nat) : Prop := { t with cores := s.cores } = s ∧ ∀ j, j ≠ n → t.core j = s.core j

/-- Only queue `q` differs. -/
def OnlyQueue (s t : State) (q : Nat) : Prop := { t with queues := s.queues } = s ∧ ∀ j, j ≠ q → t.queue j = s.queue j

/-- Only context `x` differs. -/
def OnlyCtx (s t : State) (x : Nat) : Prop := { t with ctxs := s.ctxs } = s ∧ ∀ j, j ≠ x → t.ctx j = s.ctx j

/-- Only Quire half `h` differs. -/
def OnlyHalf (s t : State) (h : Bool) : Prop := if h then { t with east := s.east } = s else { t with west := s.west } = s

/-- Context `x` is the same, but for the counts in its Quire counter register (R244). -/
def SameCtx (s t : State) (x : Nat) : Prop := { t.ctx x with counter := (s.ctx x).counter } = s.ctx x

/-- Nothing differs but what a record, an event and the reads and writes of memory that go with them touch: the host-bound stream, the event log,
the memory that records lie in with the Quire and the cores' copies above it, and the counts of R244 (R319, R356). -/
def OnlyRecords (s t : State) : Prop :=
  { t with host := s.host, events := s.events, cores := s.cores, mem := s.mem, west := s.west, east := s.east,
           channels := s.channels, sec := s.sec, ctxs := s.ctxs } = s ∧ ∀ x, SameCtx s t x

/-- A command of a queue: only queue `q` differs among the queues, and outside them only what a completion record and an event may touch. -/
def OnlyEntry (s t : State) (q : Nat) : Prop :=
  OnlyRecords s { t with queues := s.queues, adminLast := s.adminLast } ∧ ∀ p, p ≠ q → t.queue p = s.queue p

/-- Nothing outside the Quire, its channels and the messages on their way differs. -/
def OnlyQuire (s t : State) : Prop :=
  { t with sh := s.sh, links := s.links, west := s.west, east := s.east, channels := s.channels, ctxs := s.ctxs } = s

/-- Stacked memory from `a` on for `n` bytes lies in the dies alone: no line, buffer, core, reduction or transaction has a sector of it. -/
def State.Bare (s : State) (a n : Nat) : Prop :=
  let out := fun (p : Nat) => p * 128 + 128 ≤ a ∨ a + n ≤ p * 128
  (∀ p ∈ s.aboveDies, out p) ∧
  ∀ h, (∀ e ∈ (s.half h).dir, out e.1) ∧ (∀ r ∈ (s.half h).reds, out (r.pa.toNat / 128)) ∧ ∀ r ∈ (s.half h).trans, out (r.pa.toNat / 128)

/-! ### Flits and messages -/

/-- Nothing waits to be sent at an end. -/
def FlitEnd.Idle (e : FlitEnd) : Prop := e.waiting = [] ∧ e.txUnits.length < 15

/-- Nothing waits to be sent at an end, at a port no message either. -/
def State.EndIdle (s : State) (a : FlitPort) : Prop := (s.flitEnd a).Idle ∧ ∀ p, a = .etmos p → (s.port p.toNat).out = []

/-- Flits that an end's replay buffer holds when it is full (R13, R367). -/
def replayMax : FlitPort → Nat
  | .link l _ => linkReplay l.toNat
  | .etmos _ => 4096

/-- What an end sends where nothing waits: one idle flit if its replay buffer is full, else nothing (R23). -/
def IdleTail (full : Bool) (w : List Flit) : Prop :=
  if full then ∃ g, w = [g] ∧ flitCrcOk g = true ∧ flitType g = 1 else w = []

/-- The end has put the held flits on the wire again, behind what stood there: each with its own sequence number and units (R21); behind them an idle
flit where the replay buffer is full (R23). -/
def Resent (port full : Bool) (before after : FlitEnd) (held : List HeldFlit) : Prop :=
  ∃ out w : List Flit, after.wire = before.wire ++ out ++ w ∧ IdleTail full w ∧
    out.map (flitSeq port) = held.map (fun h => h.seq.toNat % 2 ^ seqBits port) ∧
    out.map flitUnits = held.map (fun h => h.units) ∧ ∀ f ∈ out, flitCrcOk f = true ∧ flitType f = 0

/-- A message of several units begins with its length (R16). -/
def WholeMessage (us : List (BitVec 128)) : Prop := us ≠ [] ∧ fld (us.headD 0) 61 56 = us.length

/-! ### Queue entries -/

/-- The entry at the front of queue `q` may start, is of the given Op, and passes every check (R313, R316). -/
def Ready (s : State) (q : Nat) (e : BitVec 512) (op : Nat) : Prop :=
  s.readyEntry q = some e ∧ Ent.op e = op ∧ s.attachOnly q e = false ∧ s.entryValid q e = true

/-- The admin unit may run the entry at the front of the admin queue (R313). -/
def AdminReady (s : State) (aq : Bool) (e : BitVec 512) (op : Nat) : Prop :=
  Ready s (if aq then 1 else 0) e op ∧ (s.queue (if aq then 0 else 1)).running = none ∧
  ((s.readyEntry (if aq then 0 else 1)).isSome && s.adminLast == aq) = false

/-- The entry of queue `q` has completed: nothing of it runs, Done has gone up by one, and a completion ring in host memory has been sent
its record (R313, R319). -/
def Finished (s t : State) (q : Nat) (e : BitVec 512) (status : Nat) (info : Nat := 0) (num : Nat := 0)
    (replays : Nat := 0) : Prop :=
  let k := s.queue q
  let done := (k.done + 1) % 2 ^ 64
  (t.queue q).running = none ∧ (t.queue q).done = done ∧
  (k.cplHost = true → k.suspended = false → s.host.attach = 2 →
    { addr := BitVec.ofNat 64 (k.cpl.toNat + k.done % 2 ^ k.cplLog2.toNat * 32),
      bytes := leBytes 32 (cplRecord (q * 65536 + Ent.stamp e) status replays done info num s.launchCounter.toNat) : HostWrite } ∈ t.host.stream)

/-- A context has entered error for a cause: held if it was opened so, otherwise being reset; context 0 is stopped in place (R332, R338, R339). -/
def InError (s t : State) (x cause : Nat) : Prop :=
  fld (t.ctx x).status 35 32 = cause ∧ (x ≠ 0 → fld (t.ctx x).status 29 28 = if bit (s.ctx x).status 5 then 2 else 3)

/-- Bytes have been sent to the host from an address on, in order, each write within one payload (R349). -/
def SentToHost (s t : State) (a : Word) (bs : List Byte) : Prop :=
  ∃ ws : List HostWrite, ws <:+: t.host.stream ∧ ws.flatMap (fun w => w.bytes) = bs ∧
    ∀ pre w post, ws = pre ++ w :: post → w.addr = a + BitVec.ofNat 64 (pre.flatMap (fun x => x.bytes)).length ∧
      w.addr.toNat % s.host.maxPayload + w.bytes.length ≤ s.host.maxPayload

/-! ### Requests at their home -/

/-- Nothing waits in a Quire half, but for open transactions. -/
def IdleHalf (s : State) (h : Bool) : Prop :=
  (s.half h).wait = [] ∧ (s.half h).queue = [] ∧ (s.half h).late = [] ∧ s.sh.maint = [] ∧ ∀ p ∈ (s.half h).lines, p.2.evicting = false ∧
    p.1 % 16 < (s.half h).ways

/-- Nothing waits in a Quire half. -/
def QuietHalf (s : State) (h : Bool) : Prop := IdleHalf s h ∧ (s.half h).trans = []

/-- A request whose turn has come (R228), for a sector of stacked memory that its home holds sound, free of cores and of reductions (R219, R238,
R243, R282). -/
def AtHome (s : State) (m : MemMsg) (w : Nat) (l : QLine) : Prop :=
  let pa := m.pa.toNat
  let k := s.half (homeOf pa)
  s.inTurn m = true ∧ m.hint ≠ 3 ∧ isScratch pa = false ∧ pa < s.capacity ∧ QuietHalf s (homeOf pa) ∧ k.lineAt pa = some (w, l) ∧
  (k.dirOf pa).dstate = 0 ∧ s.trackerOpen pa = false ∧ l.evicting = false ∧
  l.valid.getLsbD (sectorOf pa) = true ∧ l.filling.getLsbD (sectorOf pa) = false ∧ l.lost.getLsbD (sectorOf pa) = false ∧
  l.weak.getLsbD (sectorOf pa) = false

/-- The request is gone and its answer is on its way (R224, R225). -/
def Answered (s t : State) (m a : MemMsg) : Prop := t.sh.inflight = s.sh.inflight.erase (.mem m) ++ [.mem a]

/-- The sector of a request has taken a value at its home; every other sector a home holds is as it was. -/
def HomeWritten (s t : State) (pa : Nat) (d : Sector) : Prop :=
  t.homeData pa = d ∧ ∀ q, q / 128 ≠ pa / 128 → t.homeData q = s.homeData q

/-- The outstanding request that a message answers, of a source that holds none back (the copy engines hold theirs together); not a coherent one of
a core (R226, R230). -/
def Answers (s : State) (m : MemMsg) (r : Req) : Prop :=
  let engine := fun (n : BitVec 12) => 0x200 ≤ n.toNat ∧ n.toNat < 0x300
  s.reqOf m.src m.tag = some r ∧ (∀ x ∈ s.sh.reqs, x.held = true → x.msg.src ≠ m.src ∧ ¬(engine m.src ∧ engine x.msg.src)) ∧ s.coreReqOf m = none ∧
  (r.msg.gen.toNat = s.genOf r.msg.ctx.toNat ∨ 0x100 ≤ m.src.toNat ∧ m.src.toNat < 0x140)

/-- The tag of the request that a message answers is free (R226). -/
def TagFreed (s t : State) (m : MemMsg) : Prop :=
  t.sh.reqs = s.sh.reqs.filter (fun x => x.held || !(x.msg.src == m.src && x.msg.tag == m.tag))

/-! ### The fabric -/

/-- Nothing outside port `p`, the fabric unit, and the messages on their way differs. -/
def OnlyFabric (s t : State) (p : Nat) : Prop :=
  { t with ports := s.ports, fabric := s.fabric, sh := s.sh } = s ∧ ∀ j, j ≠ p → t.port j = s.port j

/-- A message that arrives at a port is valid, opens under the port's session where its channel is protected, and is delivered here as `u`; the
port then stands as `k` (R365, R373, R376, R385). -/
def Reaches (s : State) (p : BitVec 4) (m u : EMsg) (k : EPort) : Prop :=
  p.toNat < 12 ∧ fld (s.port p.toNat).status 31 28 = 3 ∧ etmosValid m = true ∧ s.powerState ≠ 2 ∧ s.powerState ≠ 4 ∧
  (if m.vc.toNat < 2 then some (m.units, s.port p.toNat) else (s.port p.toNat).openMsg m) = some (u.units, k) ∧
  s.routeStep { m with units := u.units } = .deliver u

/-- A message has been handed to port `p`, which protects it as it starts (log 6). -/
def Left (s t : State) (p : BitVec 4) (P : EMsg → Prop) : Prop := ∃ r, t.sh.inflight = s.sh.inflight ++ [.etmos p r] ∧ P r

/-- A handshake step of this end has been handed to port `p`, cut into VC2 messages of at most 59 units (R369, R384, log 103). -/
def SentStep (s t : State) (p : BitVec 4) (bs : List Byte) : Prop :=
  ∃ ms : List EMsg, t.sh = { s.sh with inflight := s.sh.inflight ++ ms.map (fun m => .etmos p m) } ∧
    (ms.flatMap (fun m => unitBytes m.units)).take bs.length = bs ∧ ∀ m ∈ ms, m.vc = 2 ∧ m.op = 0x11 ∧ m.units.length ≤ 59

/-- A port has gone down: its session is over, and the messages that waited there are dropped and counted (R376, R385). -/
def PortDown (s t : State) (p : Nat) (state why : Nat) : Prop :=
  { t with ports := s.ports, fabric := s.fabric } = s ∧ (∀ j, j ≠ p → t.port j = s.port j) ∧
  t.fabric = { s.fabric with drops := s.fabric.drops + BitVec.ofNat 64 (s.port p).unsent } ∧
  fld (t.port p).status 31 28 = state ∧ fld (t.port p).status 27 24 = why ∧ (t.port p).sess = {} ∧ (t.port p).next = none ∧
  (t.port p).out = [] ∧ (t.port p).flit = { (s.port p).flit with waiting := [], txUnits := [] } ∧ (t.port p).record = (s.port p).record

/-! ### Zawick cores -/

/-- A core in M-mode has fetched the instruction word `w`: it is awake, no interrupt is taken, and the word lies in one sector of its L1
instruction cache or, sound, of its L2 (R268, R269). -/
def CoreIssues (s : State) (n : Nat) (w : BitVec 32) : Prop :=
  let k := s.core n
  let pc := k.pc.toNat
  let inL1 := k.l1i.find? (fun e => e.1 == pc / 128)
  s.coreAwake = true ∧ k.wfi = false ∧ k.interrupt s.launchCounter = none ∧ k.mode = 3 ∧ k.virt = false ∧ bit (k.getCsr Csr.mstatus) 17 = false ∧
  k.failed = [] ∧ fld w 1 0 = 3 ∧ pc % 128 ≤ 124 ∧ pc < s.capacity ∧
  (inL1.isSome = true ∨ (k.sector pc).st ≠ .invalid ∧ (k.sector pc).bad = false) ∧
  sectorNum ((inL1.map (fun e => e.2)).getD (k.sector pc).data) pc 4 = w.toNat ∧
  k.pmpOk 3 pc 2 .fetch = true ∧ k.pmpOk 3 (pc + 2) 2 .fetch = true

/-- The instruction has completed: the program counter has moved past it, and one more is retired. -/
def CorePast (s t : State) (n : Nat) : Prop :=
  (t.core n).pc = (s.core n).pc + 4 ∧ (t.core n).getCsr Csr.minstret = (s.core n).getCsr Csr.minstret + 1

/-- Nothing outside a core differs but messages on their way. -/
def OnlyCoreAndMessages (s t : State) (n : Nat) : Prop :=
  { t with cores := s.cores, sh := s.sh, links := s.links } = s ∧ ∀ j, j ≠ n → t.core j = s.core j

/-- Nothing outside a core differs but the counter of free values, which chooses the line that leaves a full L1 set (log 9). -/
def OnlyCoreRun (s t : State) (n : Nat) : Prop :=
  { t with cores := s.cores, free := s.free } = s ∧ ∀ j, j ≠ n → t.core j = s.core j

/-! ### Lane instructions -/

/-- The group issues the instruction word `i.w` at its entry `i.e`, and the exact-mode trap does not stop it (R129, R135, R161). -/
def Issues (s : State) (i : LC) : Prop :=
  s.fetchLane i.c i.g = some (i, none) ∧ (exactTraps i.w && bit (s.ctx i.ctx).status 4) = false

/-- What a completed lane instruction leaves of its group, registers apart: each lane of the entry has retired one instruction, the entry
has gone on to the next, merging where it meets another entry, and nothing else has changed. -/
def WentOn (s t : State) (i : LC) : Prop :=
  let a := s.group i.c i.g
  let b := t.group i.c i.g
  b.status = a.status ∧ b.park = a.park ∧ b.parking = a.parking ∧ b.causes = a.causes ∧
  (∀ l, tget 0 b.instret l = tget 0 a.instret l + if l ∈ i.lanes then 1 else 0) ∧
  b.stack = ((a.noteIssue i.e).advance i.e).stack

/-- Integer register `rd` of the lanes of the entry takes the values `v`, x0 none; every other integer register keeps its value. -/
def Writes (s t : State) (i : LC) (rd : Nat) (v : Nat → Word) : Prop :=
  ∀ l r, r < 32 → (t.group i.c i.g).getX l r =
    if r = rd ∧ r ≠ 0 ∧ l ∈ i.lanes then v l else (s.group i.c i.g).getX l r

/-- A lane instruction that writes an integer register and nothing else. -/
def LaneDone (s t : State) (i : LC) (rd : Nat) (v : Nat → Word) : Prop :=
  OnlyGroup s t i.c i.g ∧ WentOn s t i ∧ Writes s t i rd v ∧
  (t.group i.c i.g).f = (s.group i.c i.g).f ∧ (t.group i.c i.g).fcsr = (s.group i.c i.g).fcsr

/-- The instruction waits at its program counter, its issue noted, and has no effect (R76, R100, R143). -/
def Stalls (s t : State) (i : LC) : Prop :=
  OnlyGroup s t i.c i.g ∧ t.group i.c i.g = (s.group i.c i.g).noteIssue i.e

/-- A load: the destination of each active lane takes the lane's value in the form of the instruction, and no other register changes (R168,
R170, R187). -/
def Loaded (s t : State) (i : LC) (v : Nat → Nat) : Prop :=
  let a := s.group i.c i.g
  let b := t.group i.c i.g
  let f := loadForm i.w
  (∀ l ∈ i.lanes, if f.isF then b.getF l (iRd i.w) = BitVec.ofNat 32 (v l) ∧ b.getX l (iRd i.w) = a.getX l (iRd i.w)
    else (b.getX l (iRd i.w) = if iRd i.w = 0 then 0 else f.extend (v l)) ∧ b.getF l (iRd i.w) = a.getF l (iRd i.w)) ∧
  (∀ l r, r < 32 → ¬(r = iRd i.w ∧ l ∈ i.lanes) → b.getX l r = a.getX l r ∧ b.getF l r = a.getF l r) ∧ b.fcsr = a.fcsr

/-- The entry of an instruction waits for its accesses, those of the given lanes and addresses; no register has changed.  An atomic or a
release that issues wakes the yielded entries of its group (R142). -/
def Waiting (s t : State) (i : LC) (kind : AccKind) (wait : List (BitVec 5 × BitVec 48 × BitVec 48)) (wakes : Bool := false) : Prop :=
  let a := (s.group i.c i.g).noteIssue i.e
  (t.group i.c i.g).x = (s.group i.c i.g).x ∧ (t.group i.c i.g).f = (s.group i.c i.g).f ∧
  (t.group i.c i.g).stack = (if wakes then a.wake i.e.pc else a).stack.map (fun e =>
    if e.pc = i.e.pc then { e with out := some { kind := kind, insn := i.w, mask := i.e.mask, wait := wait, vals := [], fails := [] } } else e)

/-- The group stops at the instruction for a cause, which GROUP_PARK records; the instruction has had no effect (R146). -/
def Faults (s t : State) (i : LC) (cause : Nat) (flanes : List Nat) (addr : Option Nat) : Prop :=
  OnlyGroup s t i.c i.g ∧
  t.group i.c i.g =
    { (s.group i.c i.g).noteIssue i.e with
      parking := some { cause := BitVec.ofNat 8 cause, addr := addr.map (BitVec.ofNat 48), flanes := maskOf flanes, pc := i.e.pc,
                        mask := i.e.mask, insn := i.w } }

end Sys2Proof.Machine
end

