-- ==== Sys2Proof/Certificates/Slice0/Obligations.lean ====
section
/-!
DEFINITION. The statements about the model that are to be proved: one Prop each.
-/

section

open Sys2Proof Sys2Proof.Machine

/-! ### The block as a whole -/

/-- With a command at the front of the queue a step is that command's effect, with the rest of the queue still waiting. -/
def Obligations.StepRunsFrontCommand : Prop :=
  ∀ (c : Instr) (rest : List Instr) (s : State), step { s with pending := c :: rest } = exec c { s with pending := rest }

/-- On an empty queue a step is one tick of the launch counter, which is withheld while a counter found ahead after Dormant is held (R388), and
otherwise adds or withholds one count where a correction is owed and 999 ticks have gone by since the last (R63, R387); nothing else changes but the
counter and what is still owed. That an empty queue ticks is the model's choice (log 3). -/
def Obligations.EmptyQueueTicks : Prop :=
  ∀ s : State, s.pending = [] → ∃ t, step s = .next t ∧
    { t with launchCounter := s.launchCounter,
             fabric := { t.fabric with owed := s.fabric.owed, sinceFix := s.fabric.sinceFix, hold := s.fabric.hold } } = s ∧
    (0 < s.fabric.hold → t.launchCounter = s.launchCounter ∧ t.fabric = { s.fabric with hold := s.fabric.hold - 1 }) ∧
    (s.fabric.hold = 0 →
    let fix := s.fabric.owed ≠ 0 ∧ 999 ≤ s.fabric.sinceFix.toNat
    t.fabric.hold = 0 ∧
    (¬fix → t.launchCounter = s.launchCounter + 1 ∧ t.fabric.owed = s.fabric.owed) ∧
    (fix → 0 < s.fabric.owed → t.launchCounter = s.launchCounter + 2 ∧ t.fabric.owed = s.fabric.owed - 1) ∧
    (fix → s.fabric.owed < 0 → t.launchCounter = s.launchCounter ∧ t.fabric.owed = s.fabric.owed + 1))

/-- Every command answers a next state, and no command touches the queue of those that wait. -/
def Obligations.EveryCommandAnswersAndLeavesTheQueue : Prop :=
  ∀ (c : Instr) (s : State), Gives c s (fun t => t.pending = s.pending)

/-- Every step keeps the canonical form of memory. -/
def Obligations.StepKeepsMemoryCanonical : Prop :=
  ∀ s t : State, Memory.wf s.mem = true → step s = .next t → Memory.wf t.mem = true

/-- The registers at power-on: every cluster-map entry names die 7 (R36); every node register holds node 0xFFFFFE (R396 gives the fields); no queue
exists, no context is open, every link and port is down, every cluster is gated, ClusterMax and CoreMax are 20 and 12 (R406), every rail has its
ROM limit (R473), and memory is canonical. -/
def Obligations.PowerOnState : Prop :=
  Memory.wf State.reset.mem = true ∧ State.reset.pending = [] ∧
  (∀ c, State.reset.mapEntry c = 0x70000000) ∧
  State.reset.fabric.node = 0xFFFFFE0400000000 ∧
  (∀ q, (State.reset.queue q).reg = 0) ∧ (∀ x, (State.reset.ctx x).status = 0) ∧
  (∀ i, (State.reset.linkEnd i).status = 0) ∧ (∀ p, (State.reset.port p).status = 0) ∧
  (∀ c, (State.reset.cluster c).clock = .clockGated) ∧ State.reset.power.clusterMax = 20 ∧ State.reset.power.coreMax = 12 ∧
  (∀ r, r < 14 → (tget 0 State.reset.power.railLimit r).toNat =
    1000 * (if r < 4 then 40 else if r < 8 then 10 else if r < 10 then 120 else if r < 12 then 60 else if r = 12 then 150 else 2)) ∧
  State.reset.sec.unlock = 0 ∧ State.reset.sec.tries = 3 ∧ State.reset.events.next = 1 ∧ State.reset.launchCounter = 0

/-- A flit that an end builds reads back as it was built: the CRC holds, and every header field, unit and credit total is the one put in (R14, R367). -/
def Obligations.FlitsReadBack : Prop :=
  ∀ (e : FlitEnd) (port : Bool) (type seq ack first : Nat) (us : List (BitVec 128)),
    type < 16 → seq < 2 ^ seqBits port → ack < 2 ^ seqBits port → first < 16 → us.length = 15 →
    let f := buildFlit (e.header port type seq ack first) us
    flitCrcOk f = true ∧ flitType f = type ∧ flitSeq port f = seq ∧ flitAck port f = ack ∧ flitFirst port f = first ∧ flitUnits f = us ∧
    ∀ c t, (c, t) ∈ flitCredits port f → t = (e.freed.getD c 0) % 65536 ∧ c < 8

/-- Messages packed one behind the other into units come apart again as they were, and what is not yet complete remains (R16).

No field of a message is lost in its units: two memory messages of one form with equal units agree in every header field, and in their data and
control unit where the opcode carries them; so do coherence messages (R224, R225, R273, R274). -/
def Obligations.MessagesReadBack : Prop :=
  (
  ∀ (ms : List (List (BitVec 128))) (part : List (BitVec 128)), (∀ us ∈ ms, WholeMessage us) →
    (part = [] ∨ part.length < fld (part.headD 0) 61 56) →
    FlitEnd.complete (ms.flatten ++ part).length (ms.flatten ++ part) = (ms, part)) ∧
  (
  (∀ m n : MemMsg, memUnits m = memUnits n →
    m.vc = n.vc ∧ m.op = n.op ∧ m.src = n.src ∧ m.tag = n.tag ∧ m.ctx = n.ctx ∧ m.hint = n.hint ∧ m.noAlloc = n.noAlloc ∧ m.gen = n.gen ∧
    m.attr = n.attr ∧ m.pa = n.pa ∧
    ((m.vc = 0 ∧ m.op = 2) ∨ (m.vc = 1 ∧ m.op = 1) → m.data = n.data) ∧
    ((m.vc = 0 ∧ m.op = 3) ∨ (m.vc = 3 ∧ (m.op = 1 ∨ m.op = 2)) → m.ctl = n.ctl ∧ m.data = n.data) ∧
    ((m.vc = 0 ∧ (m.op = 4 ∨ m.op = 6)) ∨ (m.vc = 1 ∧ (m.op = 3 ∨ m.op = 6)) → m.ctl = n.ctl)) ∧
  (∀ m n : CohMsg, cohUnits m = cohUnits n →
    m.op = n.op ∧ m.src = n.src ∧ m.tag = n.tag ∧ m.core = n.core ∧ m.age = n.age ∧ m.dst = n.dst ∧ m.attr = n.attr ∧ m.pa = n.pa ∧
    (m.op = 4 ∨ m.op = 0x21 → m.data = n.data)))

/-! ### Links -/

/-- PAYLOAD_FLIT (R14, R16, R20, R23): at an end that is up, an intact flit in order is accepted and no retry request is out any more; one that is
ahead asks for a replay of the number expected, once; one that is behind is dropped; and a CRC failure, an invalid flit type or, in order on a link, a
message of length 0 counts an error and asks, and where the end has nothing to send nothing else of it changes.

IDLE_FLIT (R18, R23): where nothing waits to be sent, its Ack frees the held flits up to the one it names, and each running total adds to the
credits of its class what has been returned since the last; what has been received stays.

RETRY_REQUEST, RETRY_REQUEST_RESEND and ACK_TIMEOUT (R20-R22, R24, R27): a request replays the held flits from the number it names and counts a
retry; the eighth in a row for one number orders a retrain instead; a request that brings no replay goes out again; and a sender without an Ack
replays from its oldest held flit; where the replay buffer is full, an idle flit goes behind (R23). -/
def Obligations.FlitsAtAnEnd : Prop :=
  (
  ∀ (a : FlitPort) (f : Flit) (s : State), s.endUp a = true →
    let port := atPort a
    let e := s.flitEnd a
    let m := 2 ^ seqBits port
    let ahead := (flitSeq port f + m - e.rxSeq.toNat) % m
    let all := e.rxUnits ++ e.usable port f
    (flitCrcOk f = true → flitType f = 0 → ahead = 0 → (port = true ∨ FlitEnd.badLength all.length all = false) →
      Gives (.payloadFlit a f) s (fun t => (t.flitEnd a).rxSeq = BitVec.ofNat 16 ((e.rxSeq.toNat + 1) % m) ∧ (t.flitEnd a).retryFor = none ∧
        (t.flitEnd a).rxUnits = (FlitEnd.complete all.length all).2 ∧ (t.flitEnd a).errors = e.errors)) ∧
    (flitCrcOk f = true → flitType f = 0 → ahead ≠ 0 → ahead < m / 2 →
      Gives (.payloadFlit a f) s (fun t => (t.flitEnd a).rxSeq = e.rxSeq ∧ (t.flitEnd a).retryFor = some e.rxSeq ∧
        (t.flitEnd a).rxUnits = e.rxUnits ∧ (t.flitEnd a).errors = e.errors)) ∧
    (flitCrcOk f = true → flitType f = 0 → m / 2 ≤ ahead →
      Gives (.payloadFlit a f) s (fun t => (t.flitEnd a).rxSeq = e.rxSeq ∧ (t.flitEnd a).retryFor = e.retryFor ∧
        (t.flitEnd a).rxUnits = e.rxUnits ∧ (t.flitEnd a).errors = e.errors)) ∧
    ((flitCrcOk f = false ∨ 3 < flitType f ∨ (flitType f = 0 ∧ ahead = 0 ∧ port = false ∧ FlitEnd.badLength all.length all = true)) →
      s.EndIdle a →
      Gives (.payloadFlit a f) s (fun t => (t.flitEnd a).rxSeq = e.rxSeq ∧ (t.flitEnd a).retryFor = some e.rxSeq ∧
        (t.flitEnd a).rxUnits = e.rxUnits ∧ (t.flitEnd a).errors = e.errors + 1 ∧ (t.flitEnd a).replay = e.replay ∧
        (t.flitEnd a).seen = e.seen))) ∧
  (
  ∀ (a : FlitPort) (f : Flit) (s : State), s.endUp a = true → flitCrcOk f = true → flitType f = 1 →
    let port := atPort a
    let e := s.flitEnd a
    s.EndIdle a →
    Gives (.idleFlit a f) s (fun t =>
      let b := t.flitEnd a
      b.rxSeq = e.rxSeq ∧ b.rxUnits = e.rxUnits ∧ b.retryFor = e.retryFor ∧ b.errors = e.errors ∧
      (∀ old h new, e.replay = old ++ h :: new → (∀ o ∈ old, o.seq.toNat ≠ flitAck port f) → h.seq.toNat = flitAck port f →
        b.replay = new) ∧
      ((∀ h ∈ e.replay, h.seq.toNat ≠ flitAck port f) → b.replay = e.replay) ∧
      (∀ i, i < 4 → port = false → b.credits.getD i 0 =
        e.credits.getD i 0 + (fld f (16 * i + 15) (16 * i) + 65536 - e.seen.getD i 0 % 65536) % 65536))) ∧
  (
  ∀ (a : FlitPort) (f : Flit) (s : State), s.endUp a = true →
    let port := atPort a
    let e := s.flitEnd a
    let k := BitVec.ofNat 16 (flitAck port f)
    let full := decide (replayMax a ≤ e.replay.length)
    s.EndIdle a → (∀ h ∈ e.replay, h.units.length = 15) →
    (flitCrcOk f = true → flitType f = 2 → (e.againSeq ≠ k ∨ e.again.toNat < 7) →
      Gives (.retryRequest a f) s (fun t =>
        Resent port full e (t.flitEnd a) (e.replay.dropWhile (fun h => h.seq != k)) ∧ (t.flitEnd a).replay = e.replay ∧
        (t.flitEnd a).againSeq = k ∧ (t.flitEnd a).ordered = e.ordered ∧
        (∀ l x, a = .link l x → fld (t.linkEnd (linkIndex l.toNat x)).status 63 48 =
          satAdd 16 (fld (s.linkEnd (linkIndex l.toNat x)).status 63 48) 1))) ∧
    (flitCrcOk f = true → flitType f = 2 → e.againSeq = k → 7 ≤ e.again.toNat →
      Gives (.retryRequest a f) s (fun t => (t.flitEnd a).ordered = true ∧
        ∃ w, (t.flitEnd a).wire = e.wire ++ w ∧ IdleTail full w)) ∧
    (e.retryFor = some e.rxSeq →
      Gives (.retryRequestResend a) s (fun t => ∃ (g : Flit) (w : List Flit), (t.flitEnd a).wire = e.wire ++ [g] ++ w ∧
        IdleTail full w ∧ flitCrcOk g = true ∧ flitType g = 2 ∧
        flitAck port g = e.rxSeq.toNat % 2 ^ seqBits port ∧ (t.flitEnd a).retryFor = e.retryFor)) ∧
    (e.replay ≠ [] →
      Gives (.ackTimeout a) s (fun t => Resent port full e (t.flitEnd a) e.replay ∧ (t.flitEnd a).replay = e.replay)))

/-- LINK_TRAINING and LINK_TRAINING_DONE (R25-R30, R33): training puts both ends, once they have passed their loop-back, in State 1 with each other's
capability words, which a die of a stepping of this manual forms from it; an ordered retrain counts as one, a second within 1 s fails the link; the words that any two steppings form are compatible; training
that marks no lane brings ends of common capabilities up with zero sequence numbers and full credits, any other fails the link; a failed link is in
State 3 at both ends and the module takes no new work.

SITE_SWITCH (R37, R38): a cluster that may leave its shared site keeps its own state but for the cache part, which is written back and empty; with
a kernel in hand its spill slot in memory takes its image in the order of R39, and no other byte of memory changes; the other cluster of the site,
from which no request is outstanding, becomes resident, and takes its state from its slot if it was spilled for its kernel. -/
def Obligations.LinkTrainingAndSites : Prop :=
  (
  ∀ (l : BitVec 3) (s : State), l.toNat < 7 →
    let i := 2 * l.toNat
    let a := s.linkEnd i
    let b := s.linkEnd (i + 1)
    let failed := fun (t : State) => fld (t.linkEnd i).status 7 4 = 3 ∧ fld (t.linkEnd (i + 1)).status 7 4 = 3 ∧ t.refuseWork = true
    (∀ (capLow capHigh : Word), a.mayTrain = true → b.mayTrain = true → Gives (.linkTraining l false capLow capHigh) s (fun t =>
      { t with links := s.links } = s ∧ (∀ j, j ≠ i → j ≠ i + 1 → t.linkEnd j = s.linkEnd j) ∧
      let low := s.sentCap l.toNat false capLow
      let high := s.sentCap l.toNat true capHigh
      t.linkEnd i = { a with status := setF a.status 7 4 1, cap := low, peerCap := high, flit := { a.flit with ordered := false } } ∧
      t.linkEnd (i + 1) = { b with status := setF b.status 7 4 1, cap := high, peerCap := low, flit := { b.flit with ordered := false } })) ∧
    (∀ (e : Bool) (w : Word), s.sec.verified = true →
      let v := fld s.sec.steppings (8 * endDie l.toNat e + 7) (8 * endDie l.toNat e)
      v = 0x11 ∨ v = 0x21 ∨ v = 0x22 → s.sentCap l.toNat e w = capWord l.toNat e (BitVec.ofNat 8 v)) ∧
    (∀ (capLow capHigh : Word), fld a.status 7 4 = 2 → a.flit.ordered = true ∨ b.flit.ordered = true →
      ((∀ t0, a.flit.lastRetrain = some t0 → 1000000000 ≤ (s.launchCounter - t0).toNat) →
        Gives (.linkTraining l true capLow capHigh) s (fun t =>
          { t with links := s.links } = s ∧ fld (t.linkEnd i).status 7 4 = 1 ∧ fld (t.linkEnd (i + 1)).status 7 4 = 1 ∧
          fld (t.linkEnd i).status 47 40 = satAdd 8 (fld a.status 47 40) 1 ∧ (t.linkEnd i).flit.replay = a.flit.replay)) ∧
      (∀ t0, a.flit.lastRetrain = some t0 → (s.launchCounter - t0).toNat < 1000000000 →
        Gives (.linkTraining l true capLow capHigh) s failed)) ∧
    (∀ x y : BitVec 8, (fld x 7 4 = 1 ∨ fld x 7 4 = 2) → (fld y 7 4 = 1 ∨ fld y 7 4 = 2) →
      capsOk l.toNat (capWord l.toNat false x) (capWord l.toNat true y) = true) ∧
    (fld a.status 7 4 = 1 → capsOk l.toNat a.cap b.cap = true → a.flit.ordered = false → a.flit.waiting = [] → b.flit.waiting = [] →
      Gives (.linkTrainingDone l []) s (fun t =>
        { t with links := s.links } = s ∧ (∀ j, j ≠ i → j ≠ i + 1 → t.linkEnd j = s.linkEnd j) ∧
        ∀ e : Bool, let k := t.linkEnd (if e then i + 1 else i)
          fld k.status 7 4 = 2 ∧ fld k.status 15 8 = linkGroups l.toNat ∧ fld k.status 23 20 = min (fld a.cap 51 48) (fld b.cap 51 48) ∧
          fld k.status 19 16 = min (fld a.cap 39 36) (fld b.cap 39 36) ∧
          k.flit.txSeq = 0 ∧ k.flit.rxSeq = 0 ∧ k.flit.replay = [] ∧ k.flit.wire = [] ∧
          k.flit.credits = (if bit a.cap 29 && bit b.cap 29 then [4096, 8192, 2048, 1024] else [2048, 4096, 1024, 512]))) ∧
    (fld a.status 7 4 = 1 → capsOk l.toNat a.cap b.cap = false → Gives (.linkTrainingDone l []) s failed) ∧
    (∀ m ms, fld a.status 7 4 = 1 → Gives (.linkTrainingDone l (m :: ms)) s failed)) ∧
  (
  ∀ (die : BitVec 3) (k : BitVec 2) (s : State), 3 ≤ die.toNat → die.toNat < 7 →
    let host := 32 * (die.toNat - 3) + k.toNat
    let guest := 32 * (die.toNat - 3) + 28 + k.toNat
    let from_ := if (s.cluster host).resident then host else guest
    let to_ := if (s.cluster host).resident then guest else host
    let u := s.cluster from_
    let v := s.cluster to_
    bit (s.mapEntry guest) 21 = true → s.mayLeave from_ = true → (∀ r ∈ s.sh.reqs, r.msg.src.toNat ≠ to_) →
    Gives (.siteSwitch die k) s (fun t => (t.cluster to_).resident = true) ∧
    (v.kernel = none ∨ v.spilled = false → Gives (.siteSwitch die k) s (fun t =>
      t.cluster from_ = { u with cache := [], resident := false, spilled := u.spilled || u.kernel.isSome } ∧
      t.cluster to_ = { v with resident := true } ∧ (∀ c, c ≠ from_ → c ≠ to_ → t.cluster c = s.cluster c) ∧
      (u.kernel = none → { t with clusters := s.clusters } = s) ∧
      (∀ n, u.kernel = some n → 9 ≤ s.coldStep.toNat → u.press.slots.length = 4 → s.noteFrames from_ n = s →
        s.Bare (s.slotBase from_) n.spillBytes →
        t.viewBytes (s.slotBase from_) n.spillBytes = u.spillImage n ∧
        ∀ a, a < s.slotBase from_ ∨ s.slotBase from_ + n.spillBytes ≤ a → t.viewByte a = s.viewByte a))) ∧
    (∀ n, v.kernel = some n → v.spilled = true → u.kernel = none →
      (∀ i, i < n.spillBytes / 128 → s.readErr (s.slotBase to_ + 128 * i) = 0) →
      Gives (.siteSwitch die k) s (fun t =>
        { t.cluster to_ with frame := v.frame } =
          { v.fromImage n (s.viewBytes (s.slotBase to_) n.spillBytes) [] with resident := true } ∧
        t.cluster from_ = { u with cache := [], resident := false } ∧ ∀ c, c ≠ from_ → c ≠ to_ → t.cluster c = s.cluster c)))

/-! ### The Press and the Stream Engine -/

/-- dh.tile (R69, R74, R76, R90): with all lanes active, one readable descriptor, no precise fault and room in the queue, the operation of the row
that its Op names enters the issue queue last and every lane receives the ticket; with eight operations in the queue the instruction waits at its
program counter and has no effect; a descriptor with precise faults parks the group with the lowest reason and leaves the queue as it is.

A collective of the Press or the Stream Engine, of any row, issued by a part of the lanes, or with operands that differ (all three of a fill's or a
flush's), is a divergent-collective trap of its unit and has no effect (R75, R99, R144). -/
def Obligations.PressIssue : Prop :=
  (
  ∀ (c : BitVec 7) (g : BitVec 6) (s : State) (i : LC) (op : Nat) (v : Word), i.c = c.toNat → i.g = g.toNat → Issues s i →
    laneRow i.w = .tile → 1 ≤ op → op ≤ 5 → i.e.mask = BitVec.allOnes 32 →
    (∀ l ∈ i.lanes, (s.group i.c i.g).getX l (iRs1 i.w) = v) → v.toNat % 32 = 0 → v.toNat + 32 ≤ i.k.lsBytes →
    (s.cluster i.c).lsBad = [] →
    let p := (s.cluster i.c).press
    let d := BitVec.ofNat 256 (readLe (s.cluster i.c).ls v.toNat 32)
    let faults := tileFaults i.k.lsBytes p.projected g d
    let row : Instr := match op with
      | 1 => .product c g | 2 => .exponentPass c g | 3 => .merge c g | 4 => .anchorLoad c g | _ => .drain c g
    Tile.op d = op →
    (faults = [] → p.ops.length < 8 →
      Gives row s (fun t => OnlyCluster s t i.c ∧ WentOn s t i ∧ Writes s t i (iRd i.w) (fun _ => p.nextTicket.zeroExtend 64) ∧
        (t.cluster i.c).press.nextTicket = p.nextTicket + 1 ∧
        ∃ o, (t.cluster i.c).press.ops = p.ops ++ [o] ∧ o.ticket = p.nextTicket ∧ o.group = g ∧ o.desc = d ∧ o.phase = .queued)) ∧
    (faults = [] → 8 ≤ p.ops.length → Gives row s (fun t => Stalls s t i)) ∧
    (∀ r ∈ faults, (∀ q ∈ faults, r ≤ q) →
      Gives row s (fun t => OnlyGroup s t i.c i.g ∧
        (t.group i.c i.g).parking = some
          { cause := 2, reason := BitVec.ofNat 8 r, pc := i.e.pc, mask := i.e.mask, insn := i.w }))) ∧
  (
  ∀ (c : BitVec 7) (g : BitVec 6) (s : State) (i : LC) (row : Instr) (regs : List Nat) (cause base : Nat), i.c = c.toNat → i.g = g.toNat →
    Issues s i →
    (laneRow i.w = .tile ∧ row ∈ [Instr.product c g, .exponentPass c g, .merge c g, .anchorLoad c g, .drain c g] ∧ regs = [iRs1 i.w] ∧
        cause = 2 ∧ base = 6 ∨
      laneRow i.w = .stream ∧ row = .dhStream c g ∧ regs = [iRs1 i.w] ∧ cause = 3 ∧ base = 0x12 ∨
      laneRow i.w = .ocfill ∧ row = .dhOcfill c g ∧ regs = [iRs1 i.w, iRs2 i.w, iRs3 i.w] ∧ cause = 3 ∧ base = 0x12 ∨
      laneRow i.w = .ocflush ∧ row = .dhOcflush c g ∧ regs = [iRs1 i.w, iRs2 i.w, iRs3 i.w] ∧ cause = 3 ∧ base = 0x12) →
    let a := s.group i.c i.g
    let alike := ∀ r ∈ regs, ∀ l ∈ i.lanes, ∀ m ∈ i.lanes, a.getX l r = a.getX m r
    (i.e.mask ≠ BitVec.allOnes 32 ∨ ¬ alike) →
    Gives row s (fun t => OnlyGroup s t i.c i.g ∧ (t.group i.c i.g).x = a.x ∧ ∃ p, (t.group i.c i.g).parking = some p ∧
      p.cause = BitVec.ofNat 8 cause ∧
      p.reason = (if i.e.mask ≠ BitVec.allOnes 32 then BitVec.ofNat 8 base else BitVec.ofNat 8 (base + 1)) ∧ p.pc = i.e.pc))

/-- Own exponent passes and array phases (R80, R82, R483): the first operation that needs a pass runs it once the staging array is free; its end
leaves the value of every element in the staging array; the array phase of the next operation takes those values into the anchor register, replacing
them unless the operation retains.

Finishes and credits (R83-R86): a finish into the queue spends a credit and fills the next slot in round-robin order; its end makes the tile
visible with its header; a credit that returns can be spent again. -/
def Obligations.PressPhasesAndFinishes : Prop :=
  (
  (∀ (c : BitVec 7) (s : State) (o : PressOp),
    let u := s.cluster c.toNat
    u.resident = true → u.clock = .running → (∀ x ∈ u.press.ops, x.exp ≠ .running ∧ x.exp ≠ .staged) →
    u.press.ops.find? (fun x => x.exp == .needed) = some o →
    Gives (.ownExponentPassStart c) s (fun t => OnlyCluster s t c.toNat ∧
      let q : Press := { u.press with ops := u.press.ops.map (fun x => if x.ticket = o.ticket then { x with exp := .running } else x) }
      t.cluster c.toNat = { u with press := q })) ∧
  (∀ (c : BitVec 7) (s : State) (o : PressOp),
    let u := s.cluster c.toNat
    u.resident = true → u.press.ops.find? (fun x => x.exp == .running) = some o → u.lsBad = [] →
    Gives (.ownExponentPassEnd c) s (fun t => OnlyCluster s t c.toNat ∧
      (t.cluster c.toNat).ls = u.ls ∧ (t.cluster c.toNat).press.acc = u.press.acc ∧ (t.cluster c.toNat).press.anchor = u.press.anchor ∧
      ∀ r k, r < Tile.rows o.desc → k < Tile.cols o.desc →
        tget 0 (t.cluster c.toNat).press.staging (r * 128 + k) = expPass (tileProds u.ls o.desc r k))) ∧
  (∀ (c : BitVec 7) (s : State) (o : PressOp) (before after : List PressOp),
    let u := s.cluster c.toNat
    let p := u.press
    let bufs := fun (x : PressOp) => opBufs (p.buf0, p.buf1) x.desc
    u.resident = true → u.clock = .running → p.ops = before ++ o :: after →
    (∀ x ∈ p.ops, x.phase ≠ .array) → (∀ x ∈ before, (x.phase ≠ .queued ∨ Tile.op x.desc = 5) ∧ x.ticket ≠ o.ticket ∧
      ∀ b ∈ bufs x, b ∉ bufs o) →
    o.phase = .queued → Tile.op o.desc ≠ 5 → (o.exp = .unneeded ∨ o.exp = .staged) →
    Gives (.arrayPhaseStart c) s (fun t => OnlyCluster s t c.toNat ∧
      let q := (t.cluster c.toNat).press
      q.ops = p.ops.map (fun x => if x.ticket = o.ticket then { x with phase := .array, exp := .unneeded } else x) ∧ q.acc = p.acc ∧
      (o.exp = .unneeded → q.anchor = p.anchor) ∧
      (o.exp = .staged → ∀ r k, r < Tile.rows o.desc → k < Tile.cols o.desc → tget 0 q.anchor (r * 128 + k) =
        if Tile.start o.desc = 1 then anchorMax (tget 0 p.anchor (r * 128 + k)) (tget 0 p.staging (r * 128 + k))
        else tget 0 p.staging (r * 128 + k))))) ∧
  (
  (∀ (c : BitVec 7) (s : State) (o : PressOp) (rest : List PressOp),
    let u := s.cluster c.toNat
    let p := u.press
    u.resident = true → u.clock = .running → (∀ x ∈ p.ops, x.phase ≠ .finishing ∧ x.phase ≠ .writing) → p.ops = o :: rest →
    hasFinish o.desc = true → Tile.op o.desc ≠ 5 → o.phase = .arrayDone → Tile.finish o.desc = 1 → p.credits ≠ 0 →
    Gives (.finishStart c) s (fun t => OnlyCluster s t c.toNat ∧
      let q := (t.cluster c.toNat).press
      q.credits = p.credits - 1 ∧ q.nextSlot = p.nextSlot + 1 ∧ q.acc = p.acc ∧
      q.ops = p.ops.map (fun x => if x.ticket = o.ticket then { x with phase := .finishing, slot := p.nextSlot } else x))) ∧
  (∀ (c : BitVec 7) (s : State) (o : PressOp) (k : Kernel),
    let u := s.cluster c.toNat
    u.kernel = some k → u.resident = true → u.press.ops.find? (fun x => x.phase == .finishing) = some o → Tile.finish o.desc = 1 →
      Tile.op o.desc ≠ 2 →
    u.press.slots.length = 4 →
    Gives (.finishEnd c false) s (fun t =>
      let q := (t.cluster c.toNat).press
      let slot := q.slots.getD o.slot.toNat {}
      q.order = u.press.order ++ [o.slot] ∧ slot.st = .visible ∧ slot.hdr = tileHeader o ∧
      slot.status = tileStatus (u.press.render (!bit (s.ctx k.ctx.toNat).num 8) o.desc).2 ∧
      (∀ x ∈ q.ops, x.ticket ≠ o.ticket) ∧ tget false q.ended o.ticket.toNat = false)) ∧
  (∀ (c : BitVec 7) (s : State), (s.cluster c.toNat).press.creditsComing ≠ 0 →
    Gives (.pressCreditReturn c) s (fun t => OnlyCluster s t c.toNat ∧
      let p := (s.cluster c.toNat).press
      let q : Press := { p with creditsComing := p.creditsComing - 1, credits := p.credits + 1 }
      t.cluster c.toNat = { s.cluster c.toNat with press := q })))

/-- ARRAY_PHASE_END of a product in exact mode that starts from zero (R49, R66, R71, R73): where each sum fits its element, every element of the tile
holds the exact sum of its products, and the operation, held, completes. -/
def Obligations.ExactProduct : Prop :=
  ∀ (c : BitVec 7) (s : State) (o : PressOp) (k : Kernel),
    let u := s.cluster c.toNat
    u.kernel = some k → u.press.ops.find? (fun x => x.phase == .array) = some o → u.lsBad = [] →
    Tile.op o.desc = 1 → tileMode o.desc = .exact → Tile.start o.desc = 0 → Tile.finish o.desc = 0 → Tile.tokEn o.desc = false →
    let sum := fun (r n : Nat) => (tileProds u.ls o.desc r n).foldl (fun a x => exactStep a x.1 x.2) {}
    (∀ r n, r < Tile.rows o.desc → n < Tile.cols o.desc → (sum r n).fits .exact = true) →
    Gives (.arrayPhaseEnd c false) s (fun t => OnlyCluster s t c.toNat ∧
      (t.cluster c.toNat).ls = u.ls ∧
      (∀ x ∈ (t.cluster c.toNat).press.ops, x.ticket ≠ o.ticket) ∧
      tget false (t.cluster c.toNat).press.ended o.ticket.toNat = false ∧
      ∀ r n, r < Tile.rows o.desc → n < Tile.cols o.desc →
        let e := (t.cluster c.toNat).press.el .exact (Tile.buf o.desc) r n
        e.val = (sum r n).val ∧ e.tag = (sum r n).tag % 4 ∧ e.org = (sum r n).org)

/-- dh.stream, dh.ocfill and dh.ocflush (R95, R100, R115): checked operands enter their queue last and every lane receives the ticket of the counter
that the three share; with the queue full (eight streams, four fills and flushes) the instruction waits at its program counter and has no effect.

The row-vector loader, a stream's run and its completion (R101, R102, R114): a stream whose inputs are ready runs and then writes; one whose
writes are performed writes its row records and completes.

Fills and flushes (R115, R116): a fill reads its bytes of context memory at the Quire and, when it ends, the operand cache holds them; a flush
reads its range of the operand cache once its addresses translate, sends it as writes when that is read, and ends when none of those writes is
outstanding. -/
def Obligations.StreamsFillsAndFlushes : Prop :=
  (
  (∀ (c : BitVec 7) (g : BitVec 6) (s : State) (i : LC) (v : Word) (a b : Sprig), i.c = c.toNat → i.g = g.toNat → Issues s i →
    laneRow i.w = .stream → i.e.mask = BitVec.allOnes 32 → (∀ l ∈ i.lanes, (s.group i.c i.g).getX l (iRs1 i.w) = v) →
    v.toNat % 64 = 0 → v.toNat + 64 ≤ i.k.lsBytes → (s.cluster i.c).lsBad = [] →
    let u := s.cluster i.c
    let d := BitVec.ofNat 512 (readLe u.ls v.toNat 64)
    streamFaults i.k.lsBytes d = [] → readSprig u.ls [] i.k.lsBytes (Strm.sprig1 d) = .ok a →
    (if Strm.twoPass d then readSprig u.ls [] i.k.lsBytes (Strm.sprig2 d) else .ok {}) = .ok b →
    sprigRulesBad d i.k.sideCfg (!Strm.twoPass d) a = false → (Strm.twoPass d = true → sprigRulesBad d i.k.sideCfg true b = false) →
    (u.stream.ops.length < 8 → Gives (.dhStream c g) s (fun t => OnlyCluster s t i.c ∧ WentOn s t i ∧
      Writes s t i (iRd i.w) (fun _ => u.stream.nextTicket.zeroExtend 64) ∧
      let o : StreamOp := { ticket := u.stream.nextTicket, group := g, desc := d, s1 := a, s2 := b }
      (t.cluster i.c).stream = { u.stream with nextTicket := u.stream.nextTicket + 1, ops := u.stream.ops ++ [o] })) ∧
    (8 ≤ u.stream.ops.length → Gives (.dhStream c g) s (fun t => Stalls s t i))) ∧
  (∀ (c : BitVec 7) (g : BitVec 6) (s : State) (i : LC) (flush : Bool) (va off n : Word), i.c = c.toNat → i.g = g.toNat → Issues s i →
    laneRow i.w = (if flush then .ocflush else .ocfill) → i.e.mask = BitVec.allOnes 32 →
    (∀ l ∈ i.lanes, (s.group i.c i.g).getX l (iRs1 i.w) = va ∧ (s.group i.c i.g).getX l (iRs2 i.w) = off ∧
      (s.group i.c i.g).getX l (iRs3 i.w) = n) →
    n.toNat % 256 = 0 → n ≠ 0 → va.toNat % 256 = 0 → off.toNat % 256 = 0 → off.toNat + n.toNat ≤ 262144 →
    let row : Instr := if flush then .dhOcflush c g else .dhOcfill c g
    (4 ≤ (s.cluster i.c).stream.fills.length → Gives row s (fun t => Stalls s t i)) ∧
    ((s.cluster i.c).stream.fills.length < 4 → Gives row s (fun t =>
      let u := s.cluster i.c
      OnlyCluster s t i.c ∧ WentOn s t i ∧ Writes s t i (iRd i.w) (fun _ => u.stream.nextTicket.zeroExtend 64) ∧
      let o : FillOp :=
        { ticket := u.stream.nextTicket, group := g, flush := flush, va := va, off := BitVec.ofNat 18 off.toNat,
          len := BitVec.ofNat 19 n.toNat }
      (t.cluster i.c).stream = { u.stream with nextTicket := u.stream.nextTicket + 1, fills := u.stream.fills ++ [o] })))) ∧
  (
  (∀ (c : BitVec 7) (s : State) (o : StreamOp),
    let u := s.cluster c.toNat
    u.resident = true → u.clock = .running →
    u.stream.ops.find? (fun o => o.phase == .queued && o.rows.isNone && rowVecs o.desc != []) = some o →
    let quiet := ∀ f ∈ u.stream.fills, f.flush = true ∨ f.phase ≠ .executing
    Gives (.rowVectorLoad c) s (fun t => (quiet → OnlyCluster s t c.toNat) ∧ { t with clusters := s.clusters, free := s.free } = s ∧
      ∀ x ∈ (t.cluster c.toNat).stream.ops, x.ticket = o.ticket → ∃ rows, x.rows = some rows ∧
        ∀ f ∈ rowVecs o.desc, f.1 < 3 → Strm.rows o.desc ≤ 128 → ∀ r < Strm.rows o.desc,
          let a := SIn.addr f.2 + r * SIn.pitch f.2 (Strm.rowLen o.desc)
          let v := tget 0 rows (f.1 * 128 + r)
          v = BitVec.ofNat 64 ((s.streamSrc c.toNat []).read 0 (SIn.kind f.2) a (widthOf (SIn.fmt f.2))) ∧
          (quiet → v = BitVec.ofNat 64 (readLe (if SIn.kind f.2 = 1 then u.ls else u.stream.oc) a (widthOf (SIn.fmt f.2)))))) ∧
  (∀ (c : BitVec 7) (s : State) (o : StreamOp) (k : Kernel),
    let u := s.cluster c.toNat
    let d := o.desc
    u.kernel = some k → u.resident = true → u.clock = .running → u.stream.ops.find? (fun o => o.phase == .queued) = some o →
    (rowVecs d = [] ∨ o.rows ≠ none) → tileInput d = none → o.rowsBad = false → u.lsBad = [] → u.stream.ocBad = [] →
    Strm.reset0 d = false → Strm.reset1 d = false →
    s.misses c.toNat ownStream k.ctx.toNat
      ((o.run (!bit (s.ctx k.ctx.toNat).num 8) k.sideCfg (s.streamSrc c.toNat [])
        { v0 := u.stream.side0, v1 := u.stream.side1, rowf := u.stream.rowf } none).writes.flatMap
        (fun w => if w.kind = 1 ∨ w.kind = 2 then [] else sectorsOf w.addr w.bytes.length)) = [] →
    let side : Side := { v0 := u.stream.side0, v1 := u.stream.side1, rowf := u.stream.rowf }
    let r := o.run (!bit (s.ctx k.ctx.toNat).num 8) k.sideCfg (s.streamSrc c.toNat []) side none
    let s1 := s.modStream c.toNat (fun e => { e with side0 := r.side.v0, side1 := r.side.v1, rowf := r.side.rowf })
    (∃ t1, State.streamWrites c.toNat k o.ticket r.writes { s1 with free := s.free + (2 * Strm.batches d) * 3072 } = .ok t1) →
    Gives (.streamFirstRead c none) s (fun t =>
      (t.cluster c.toNat).stream.side0 = r.side.v0 ∧
      (t.cluster c.toNat).stream.side1 = r.side.v1 ∧ (t.cluster c.toNat).stream.rowf = r.side.rowf ∧ t.mem = s.mem ∧
      (t.cluster c.toNat).stream.ops = u.stream.ops.map (fun y => if y.ticket = o.ticket then
        { y with phase := .writing, status := streamStatus r.placed r.cvt, records := r.records } else y))) ∧
  (∀ (c : BitVec 7) (s : State) (o : StreamOp) (k : Kernel),
    let u := s.cluster c.toNat
    u.kernel = some k →
    u.stream.ops.find? (fun o => o.phase == .writing &&
      !s.sh.reqs.any (fun r => r.msg.src.toNat == c.toNat && r.why == .stream o.ticket)) = some o →
    Gives (.streamComplete c) s (fun t =>
      (∀ x ∈ (t.cluster c.toNat).stream.ops, x.ticket ≠ o.ticket) ∧
      tget false (t.cluster c.toNat).stream.ended o.ticket.toNat = false ∧
      readBytes (t.cluster c.toNat).ls (Strm.rowOut o.desc) o.records.length = o.records ∧
      (t.ctx k.ctx.toNat).num = (s.ctx k.ctx.toNat).num ||| BitVec.ofNat 64 (fld o.status 4 0) ∧
      ∀ n, tget 0 (t.cluster c.toNat).tokens n = tget 0 u.tokens n +
        if Strm.tokEn o.desc = true ∧ n = Strm.tokNum o.desc then 1 else 0))) ∧
  (
  ∀ (c : BitVec 7) (s : State) (o : FillOp) (rest : List FillOp) (k : Kernel),
    let u := s.cluster c.toNat
    let fills := fun (t : State) => (t.cluster c.toNat).stream.fills
    let pending := fun (t : State) => t.sh.reqs.any (fun r => r.msg.src.toNat == c.toNat && r.why == .stream o.ticket)
    u.kernel = some k → u.stream.fills = o :: rest → (∀ x ∈ rest, x.ticket ≠ o.ticket) →
    (u.resident = true → u.clock = .running → o.phase = .queued →
      (∀ t0 bs, o.flush = false → s.virtRead c.toNat ownFill k o.va.toNat o.len.toNat = .ok t0 bs →
        Gives (.fillStart c false) s (fun t => OnlyCluster t0 t c.toNat ∧ (t.cluster c.toNat).stream.oc = u.stream.oc ∧
          fills t = { o with phase := .executing, data := bs } :: rest)) ∧
      (∀ t0 es, o.flush = true → s.misses c.toNat ownFill k.ctx.toNat (sectorsOf o.va.toNat o.len.toNat) = [] →
        rangeBad u.stream.ocBad o.off.toNat o.len.toNat = false → s.flushStop c.toNat k o u.stream.ocBad = none →
        s.virtPas c.toNat ownFill k .write (sectorsOf o.va.toNat o.len.toNat) = .ok t0 es →
        Gives (.fillStart c false) s (fun t => OnlyCluster t0 t c.toNat ∧ (t.cluster c.toNat).stream.oc = u.stream.oc ∧
          fills t = { o with phase := .executing, data := readBytes u.stream.oc o.off.toNat o.len.toNat } :: rest))) ∧
    (o.flush = false → o.phase = .executing →
      Gives (.fillComplete c) s (fun t => OnlyCluster s t c.toNat ∧
        readBytes (t.cluster c.toNat).stream.oc o.off.toNat o.data.length = o.data ∧
        (∀ a, a < o.off.toNat ∨ o.off.toNat + o.data.length ≤ a → tget 0 (t.cluster c.toNat).stream.oc a = tget 0 u.stream.oc a) ∧
        (t.cluster c.toNat).ls = u.ls ∧ fills t = rest ∧ tget false (t.cluster c.toNat).stream.ended o.ticket.toNat = false)) ∧
    (∀ t0, o.flush = true → o.phase = .executing → s.virtWrite c.toNat ownFill k o.va.toNat o.data (.stream o.ticket) = .ok t0 () →
      Gives (.fillComplete c) s (fun t => (t.cluster c.toNat).stream.oc = u.stream.oc ∧ t.sh.reqs = t0.sh.reqs ∧
        fills t = if pending t0 then { o with phase := .writing, data := [] } :: rest else rest)) ∧
    (o.flush = true → o.phase = .writing → pending s = false →
      Gives (.fillComplete c) s (fun t => OnlyCluster s t c.toNat ∧ (t.cluster c.toNat).stream.oc = u.stream.oc ∧ fills t = rest ∧
        tget false (t.cluster c.toNat).stream.ended o.ticket.toNat = false)))

/-! ### Lane instructions -/

/-- BASE_ALU and BASE_MUL_DIV (R187): every active lane's rd takes the RV64I or M result of its own rs1 and rs2; nothing else of the group changes but
the program counter and the retired count, and nothing outside the group. -/
def Obligations.IntegerInstructions : Prop :=
  (∀ (c : BitVec 7) (g : BitVec 6) (s : State) (i : LC), i.c = c.toNat → i.g = g.toNat → Issues s i → laneRow i.w = .alu →
    Gives (.baseAlu c g) s (fun t => LaneDone s t i (iRd i.w) (fun l =>
      aluResult i.w i.e.pc.toNat ((s.group i.c i.g).getX l (iRs1 i.w)) ((s.group i.c i.g).getX l (iRs2 i.w))))) ∧
  (∀ (c : BitVec 7) (g : BitVec 6) (s : State) (i : LC), i.c = c.toNat → i.g = g.toNat → Issues s i → laneRow i.w = .mulDiv →
    Gives (.baseMulDiv c g) s (fun t => LaneDone s t i (iRd i.w) (fun l =>
      mulDivResult i.w ((s.group i.c i.g).getX l (iRs1 i.w)) ((s.group i.c i.g).getX l (iRs2 i.w)))))

/-- FP_ARITHMETIC and FP_CONVERSION (R47, R65, R187): the destination of every active lane takes the FP32 result, its fflags gain the flags of the
result, and every other register keeps its value. -/
def Obligations.FloatInstructions : Prop :=
  ∀ (c : BitVec 7) (g : BitVec 6) (s : State) (i : LC) (conv : Bool), i.c = c.toNat → i.g = g.toNat → Issues s i →
    laneRow i.w = (if conv then .fpConv else .fpArith) →
    Gives (if conv then .fpConversion c g else .fpArithmetic c g) s (fun t =>
      let a := s.group i.c i.g
      let b := t.group i.c i.g
      let out := fun l => if conv then fpConvLane a i.w l else fpLane a i.w l
      OnlyGroup s t i.c i.g ∧ WentOn s t i ∧
      (∀ l ∈ i.lanes, match (out l).1 with
        | .f v => b.getF l (iRd i.w) = BitVec.ofNat 32 v ∧ b.getX l (iRd i.w) = a.getX l (iRd i.w)
        | .x v => (b.getX l (iRd i.w) = if iRd i.w = 0 then 0 else v) ∧ b.getF l (iRd i.w) = a.getF l (iRd i.w)) ∧
      (∀ l r, r < 32 → ¬(r = iRd i.w ∧ l ∈ i.lanes) → b.getX l r = a.getX l r ∧ b.getF l r = a.getF l r) ∧
      (∀ l, b.getFcsr l = if l ∈ i.lanes then a.getFcsr l ||| BitVec.ofNat 32 ((out l).2 % 32) else a.getFcsr l))

/-- BASE_BRANCH and BASE_JUMP (R136, R187): the lanes that take the branch and those that do not go on as entries of their own; a jump writes the
address of the next instruction to rd in every active lane and each lane goes on at its own target.

A taken branch or a jump to a target that is no multiple of 4 has no effect for any lane and parks the group at it with cause 0x07, those lanes in
FLanes (R187).

CSR_ACCESS, BASE_FENCE and DH_FENCE (R128, R175, R187, R197): a CSR read gives every active lane the CSR's value; fcsr takes the value written; a
read of cycle also leaves the count it found, below which no later read of the kernel falls (log 5). A fence leaves every register and, with an
acquire of device scope, drops the clean lines of the cluster cache with the fills on their way into them.

ECALL, EBREAK, an illegal word and a marked encoding in exact mode stop their group with causes 0x09, 0x0A, 0x04 and 0x05, and have no other
effect; DH_PARK stops it with cause 0x01 at the next instruction (R129, R145, R159, R161, R186, R187). -/
def Obligations.ControlTransfersAndTraps : Prop :=
  (
  (∀ (c : BitVec 7) (g : BitVec 6) (s : State) (i : LC), i.c = c.toNat → i.g = g.toNat → Issues s i → laneRow i.w = .branch →
    let a := s.group i.c i.g
    let taken := i.lanes.filter (fun l => branchTaken (iF3 i.w) (a.getX l (iRs1 i.w)) (a.getX l (iRs2 i.w)))
    let target := (BitVec.ofInt 64 ((i.e.pc.toNat : Int) + iImmB i.w)).toNat
    target < 2 ^ 48 → target % 4 = 0 →
    Gives (.baseBranch c g) s (fun t =>
      let b := t.group i.c i.g
      OnlyGroup s t i.c i.g ∧ b.x = a.x ∧ b.f = a.f ∧ b.fcsr = a.fcsr ∧ b.status = a.status ∧
      b.stack = ((a.noteIssue i.e).moveLanes i.e
        [(BitVec.ofNat 48 target, maskOf taken), (i.e.pc + 4, i.e.mask &&& ~~~maskOf taken)]).stack)) ∧
  (∀ (c : BitVec 7) (g : BitVec 6) (s : State) (i : LC), i.c = c.toNat → i.g = g.toNat → Issues s i → laneRow i.w = .jump →
    let a := s.group i.c i.g
    let target := fun l =>
      if fld i.w 6 0 = 0x6F then (BitVec.ofInt 64 ((i.e.pc.toNat : Int) + iImmJ i.w)).toNat
      else (a.getX l (iRs1 i.w) + BitVec.ofInt 64 (iImm i.w)).toNat / 2 * 2
    (∀ l ∈ i.lanes, target l < 2 ^ 48 ∧ target l % 4 = 0) →
    Gives (.baseJump c g) s (fun t =>
      let b := t.group i.c i.g
      OnlyGroup s t i.c i.g ∧ Writes s t i (iRd i.w) (fun _ => BitVec.ofNat 64 (i.e.pc.toNat + 4)) ∧
      b.f = a.f ∧ b.fcsr = a.fcsr ∧ b.status = a.status ∧
      b.stack = ((a.noteIssue i.e).moveLanes i.e (i.lanes.map (fun l => (BitVec.ofNat 48 (target l), maskOf [l])))).stack))) ∧
  (
  (∀ (c : BitVec 7) (g : BitVec 6) (s : State) (i : LC), i.c = c.toNat → i.g = g.toNat → Issues s i → laneRow i.w = .branch →
    let a := s.group i.c i.g
    let taken := i.lanes.filter (fun l => branchTaken (iF3 i.w) (a.getX l (iRs1 i.w)) (a.getX l (iRs2 i.w)))
    let target := (BitVec.ofInt 64 ((i.e.pc.toNat : Int) + iImmB i.w)).toNat
    taken ≠ [] → target < 2 ^ 48 → target % 4 ≠ 0 →
    Gives (.baseBranch c g) s (fun t => Faults s t i 7 taken (some target))) ∧
  (∀ (c : BitVec 7) (g : BitVec 6) (s : State) (i : LC), i.c = c.toNat → i.g = g.toNat → Issues s i → fld i.w 6 0 = 0x6F →
    let target := (BitVec.ofInt 64 ((i.e.pc.toNat : Int) + iImmJ i.w)).toNat
    i.lanes ≠ [] → target < 2 ^ 48 → target % 4 ≠ 0 →
    Gives (.baseJump c g) s (fun t => Faults s t i 7 i.lanes (some target)))) ∧
  (
  (∀ (c : BitVec 7) (g : BitVec 6) (s : State) (i : LC), i.c = c.toNat → i.g = g.toNat → Issues s i → laneRow i.w = .csr →
    Gives (.csrAccess c g) s (fun t =>
      let a := s.group i.c i.g
      let b := t.group i.c i.g
      let n := fld i.w 31 20
      let s1 := s.modGroup i.c i.g (fun k => k.noteIssue i.e)
      (if n = 0xC00 then { t with clusters := s.clusters, free := s.free } = s ∧ t.free = s.free + 1 ∧
          (t.cluster i.c).cycle = s.cycleNow i.c ∧ (s.cluster i.c).cycle.toNat ≤ (s.cycleNow i.c).toNat
        else OnlyGroup s t i.c i.g) ∧
      WentOn s t i ∧ Writes s t i (iRd i.w) (fun l => laneCsrValue s1 i l n) ∧ b.f = a.f ∧
      ∀ l, b.getFcsr l =
        match csrNew i.w (laneCsrValue s1 i l n) (a.getX l (iRs1 i.w)) with
        | some v => if l ∈ i.lanes ∧ n ≠ 2 then BitVec.ofNat 32 (fld v 4 0) else a.getFcsr l
        | none => a.getFcsr l)) ∧
  (∀ (c : BitVec 7) (g : BitVec 6) (s : State) (i : LC), i.c = c.toNat → i.g = g.toNat → Issues s i → laneRow i.w = .fence →
    Gives (.baseFence c g) s (fun t =>
      let u := if fld i.w 27 24 ≠ 0 ∧ fld i.w 23 20 ≠ 0 then s.acquireClean i.c else s
      { t with clusters := s.clusters, sh := s.sh } = s ∧ (t.group i.c i.g).x = (s.group i.c i.g).x ∧ WentOn s t i ∧
      (t.cluster i.c).cache = (u.cluster i.c).cache ∧ t.sh = u.sh)) ∧
  (∀ (c : BitVec 7) (g : BitVec 6) (s : State) (i : LC), i.c = c.toNat → i.g = g.toNat → Issues s i → laneRow i.w = .dhFence →
    Gives (.dhFence c g) s (fun t =>
      let u := if fld i.w 25 24 ≠ 0 ∧ 2 ≤ fld i.w 21 20 then s.acquireClean i.c else s
      { t with clusters := s.clusters, sh := s.sh } = s ∧ (t.group i.c i.g).x = (s.group i.c i.g).x ∧ WentOn s t i ∧
      (t.cluster i.c).cache = (u.cluster i.c).cache ∧ t.sh = u.sh)) ∧
  ∀ (s : State) (c : Nat) (l : CLine), l ∈ ((s.acquireClean c).cluster c).cache → l.dirty = [] → l.valid = 0 ∧ l.filling ≠ 0) ∧
  (
  (∀ (c : BitVec 7) (g : BitVec 6) (s : State) (i : LC), i.c = c.toNat → i.g = g.toNat → Issues s i →
    (laneRow i.w = .ecall → Gives (.ecall c g) s (fun t => Faults s t i 9 [] none)) ∧
    (laneRow i.w = .ebreak → Gives (.ebreak c g) s (fun t => Faults s t i 0x0A [] none)) ∧
    (laneRow i.w = .illegal → Gives (.illegalInstruction c g) s (fun t => Faults s t i 4 [] none))) ∧
  (∀ (c : BitVec 7) (g : BitVec 6) (s : State) (i : LC), i.c = c.toNat → i.g = g.toNat →
    s.fetchLane i.c i.g = some (i, none) → exactTraps i.w = true → bit (s.ctx i.ctx).status 4 = true →
    (laneRow i.w = .tkread → Gives (.dhTkread c g) s (fun t => Faults s t i 5 [] none)) ∧
    (laneRow i.w = .deadhead → Gives (.dhDeadhead c g) s (fun t => Faults s t i 5 [] none)) ∧
    (laneRow i.w = .amo 0 → Gives (.dhAmoswap c g) s (fun t => Faults s t i 5 [] none)) ∧
    (laneRow i.w = .csr → Gives (.csrAccess c g) s (fun t => Faults s t i 5 [] none))) ∧
  (∀ (c : BitVec 7) (g : BitVec 6) (s : State) (i : LC), i.c = c.toNat → i.g = g.toNat → Issues s i → laneRow i.w = .park →
    Gives (.dhPark c g) s (fun t =>
      let a := s.group i.c i.g
      let b := t.group i.c i.g
      OnlyGroup s t i.c i.g ∧ b.x = a.x ∧ b.f = a.f ∧ b.fcsr = a.fcsr ∧ b.stack = ((a.noteIssue i.e).advance i.e).stack ∧
      b.parking = some { cause := 1, pc := i.e.pc + 4, notify := bit i.w 20 })))

/-- The votes (R164): each writes rd in every active lane of the entry.

The shuffles (R164, R165): each active lane receives rs1 of its source lane as it was before the instruction, its own rs1 where the source is no
active lane. -/
def Obligations.GroupVotesAndShuffles : Prop :=
  (
  ∀ (c : BitVec 7) (g : BitVec 6) (s : State) (i : LC), i.c = c.toNat → i.g = g.toNat → Issues s i →
    let x := fun l => (s.group i.c i.g).getX l (iRs1 i.w)
    let rd := iRd i.w
    (laneRow i.w = .vany → Gives (.dhVany c g) s (fun t => LaneDone s t i rd (fun _ => if ∃ l ∈ i.lanes, x l ≠ 0 then 1 else 0))) ∧
    (laneRow i.w = .vall → Gives (.dhVall c g) s (fun t => LaneDone s t i rd (fun _ => if ∀ l ∈ i.lanes, x l ≠ 0 then 1 else 0))) ∧
    (laneRow i.w = .ballot → Gives (.dhBallot c g) s (fun t => ∃ v : Word, LaneDone s t i rd (fun _ => v) ∧
      ∀ k, v.getLsbD k = decide (k < 32 ∧ k ∈ i.lanes ∧ x k ≠ 0))) ∧
    (laneRow i.w = .elect → Gives (.dhElect c g) s (fun t =>
      LaneDone s t i rd (fun l => if ∀ m ∈ i.lanes, l ≤ m then 1 else 0))) ∧
    (laneRow i.w = .vsum → Gives (.dhVsum c g) s (fun t => LaneDone s t i rd (fun _ => (i.lanes.map x).sum))) ∧
    (laneRow i.w = .vprefix → Gives (.dhVprefix c g) s (fun t =>
      LaneDone s t i rd (fun l => ((i.lanes.filter (fun m => decide (m < l))).map x).sum))) ∧
    (laneRow i.w = .vmin → Gives (.dhVmin c g) s (fun t => ∃ v : Word, LaneDone s t i rd (fun _ => v) ∧
      (i.lanes ≠ [] → (∃ l ∈ i.lanes, v = x l) ∧ ∀ l ∈ i.lanes, v.toInt ≤ (x l).toInt))) ∧
    (laneRow i.w = .vmax → Gives (.dhVmax c g) s (fun t => ∃ v : Word, LaneDone s t i rd (fun _ => v) ∧
      (i.lanes ≠ [] → (∃ l ∈ i.lanes, v = x l) ∧ ∀ l ∈ i.lanes, (x l).toInt ≤ v.toInt)))) ∧
  (
  ∀ (c : BitVec 7) (g : BitVec 6) (s : State) (i : LC), i.c = c.toNat → i.g = g.toNat → Issues s i →
    let x := fun l => (s.group i.c i.g).getX l (iRs1 i.w)
    let n := fun l => ((s.group i.c i.g).getX l (iRs2 i.w)).toNat % 32
    let from_ := fun (l : Nat) (src : Option Nat) => match src with
      | some k => if k ∈ i.lanes then x k else x l
      | none => x l
    let rd := iRd i.w
    (laneRow i.w = .shfl → Gives (.dhShfl c g) s (fun t => LaneDone s t i rd (fun l => from_ l (some (n l))))) ∧
    (laneRow i.w = .shflXor → Gives (.dhShflXor c g) s (fun t => LaneDone s t i rd (fun l => from_ l (some (l ^^^ n l))))) ∧
    (laneRow i.w = .shflUp → Gives (.dhShflUp c g) s (fun t =>
      LaneDone s t i rd (fun l => from_ l (if n l ≤ l then some (l - n l) else none)))) ∧
    (laneRow i.w = .shflDown → Gives (.dhShflDown c g) s (fun t => LaneDone s t i rd (fun l => from_ l (some (l + n l))))))

/-- Waits (R135, R167, R185): a wait that holds for every active lane completes, and dh.twait and dh.swait then give 1 for a ticket whose last
operation ended in a fault or was cancelled; otherwise the entry waits and nothing else changes.

Tokens (R181, R183, R184): dh.tkread gives each active lane the count of the token it names; dh.tksig sets an increment out for each active lane;
an increment that arrives adds its amount, modulo 65,536, to its token. -/
def Obligations.WaitsAndTokens : Prop :=
  (
  ∀ (c : BitVec 7) (g : BitVec 6) (s : State) (i : LC), i.c = c.toNat → i.g = g.toNat → Issues s i →
    let a := s.group i.c i.g
    let k := s.cluster i.c
    let ticket := fun l => BitVec.ofNat 8 ((a.getX l (iRs1 i.w)).toNat % 256)
    let token := fun l => (BitVec.ofNat 6 (fld (a.getX l (iRs1 i.w)) 5 0), BitVec.ofNat 16 (fld (a.getX l (iRs2 i.w)) 15 0))
    let waits := fun (t : State) (w : WaitFor) => OnlyGroup s t i.c i.g ∧
      t.group i.c i.g = (a.noteIssue i.e).modEntry i.e.pc (fun e => { e with st := .waiting, wait := w })
    (laneRow i.w = .twait → Gives (.dhTwait c g) s (fun t =>
      if ∀ l ∈ i.lanes, k.press.outstanding (ticket l) = false then
        LaneDone s t i (iRd i.w) (fun l => if tget false k.press.ended (ticket l).toNat then 1 else 0)
      else waits t (.press (i.lanes.map ticket)))) ∧
    (laneRow i.w = .swait → Gives (.dhSwait c g) s (fun t =>
      if ∀ l ∈ i.lanes, k.stream.outstanding (ticket l) = false then
        LaneDone s t i (iRd i.w) (fun l => if tget false k.stream.ended (ticket l).toNat then 1 else 0)
      else waits t (.stream (i.lanes.map ticket)))) ∧
    (laneRow i.w = .tkwait → Gives (.dhTkwait c g) s (fun t =>
      if ∀ l ∈ i.lanes, ((tget 0 k.tokens (token l).1.toNat) - (token l).2).toNat < 32768 then LaneDone s t i 0 (fun _ => 0)
      else waits t (.tokens (i.lanes.map token))))) ∧
  (
  (∀ (c : BitVec 7) (g : BitVec 6) (s : State) (i : LC), i.c = c.toNat → i.g = g.toNat → Issues s i → laneRow i.w = .tkread →
    Gives (.dhTkread c g) s (fun t => LaneDone s t i (iRd i.w) (fun l =>
      (tget 0 (s.cluster i.c).tokens (fld ((s.group i.c i.g).getX l (iRs1 i.w)) 5 0)).zeroExtend 64))) ∧
  (∀ (c : BitVec 7) (g : BitVec 6) (s : State) (i : LC), i.c = c.toNat → i.g = g.toNat → Issues s i → laneRow i.w = .tksig →
    let a := s.group i.c i.g
    let to_ := fun l => if bit (a.getX l (iRs1 i.w)) 13 then fld (a.getX l (iRs1 i.w)) 12 6 else i.c
    (∀ l ∈ i.lanes, s.sameKernel (to_ l) i.k = true) →
    Gives (.dhTksig c g) s (fun t => { t with clusters := s.clusters } = s ∧ WentOn s t i ∧
      (t.group i.c i.g).x = a.x ∧
      ∀ d, (t.cluster d).incoming = (s.cluster d).incoming ++ (i.lanes.filter (fun l => to_ l == d)).map (fun l =>
        { cluster := BitVec.ofNat 7 i.c, group := BitVec.ofNat 6 i.g, lane := BitVec.ofNat 5 l,
          token := BitVec.ofNat 6 (fld (a.getX l (iRs1 i.w)) 5 0),
          amount := BitVec.ofNat 16 (fld (a.getX l (iRs2 i.w)) 15 0) }))) ∧
  (∀ (c : BitVec 7) (n : Nat) (s : State) (u : TokenInc), (s.cluster c.toNat).incoming[n]? = some u →
    (∀ v ∈ (s.cluster c.toNat).incoming.take n, ¬(v.cluster = u.cluster ∧ v.group = u.group ∧ v.lane = u.lane)) →
    Gives (.tokenArrival c n) s (fun t => OnlyCluster s t c.toNat ∧
      (t.cluster c.toNat).incoming = (s.cluster c.toNat).incoming.eraseIdx n ∧
      ∀ k, tget 0 (t.cluster c.toNat).tokens k =
        tget 0 (s.cluster c.toNat).tokens k + if k = u.token.toNat then u.amount else 0)))

/-- DH_EXIT, GROUP_RETIRE and YIELD_WAKE_TIMEOUT (R137, R142): the active lanes leave their entry; a group whose lanes have all exited and whose
operations have ended retires; with no entry ready every yielded entry becomes ready.

GROUP_PARK (R145, R146, R147, R150, R435): once no access of the group is outstanding the group is parked and its record names cause, reason,
cluster, group, faulting lanes and park point; where its register image or convergence stack fails and the kernel may not be replayed, it parks with
cause 0x08, Reason 0x01 and RS 0. -/
def Obligations.GroupsStartAndPark : Prop :=
  (
  (∀ (c : BitVec 7) (g : BitVec 6) (s : State) (i : LC), i.c = c.toNat → i.g = g.toNat → Issues s i → laneRow i.w = .exit →
    Gives (.dhExit c g) s (fun t => OnlyGroup s t i.c i.g ∧ (t.group i.c i.g).x = (s.group i.c i.g).x ∧
      (t.group i.c i.g).status = (s.group i.c i.g).status ∧
      (t.group i.c i.g).stack = (((s.group i.c i.g).noteIssue i.e).moveLanes i.e []).stack ∧
      ∀ e ∈ (t.group i.c i.g).stack, e.pc = i.e.pc → e.mask &&& i.e.mask = 0)) ∧
  (∀ (c : BitVec 7) (g : BitVec 6) (s : State), (s.cluster c.toNat).runs = true → (s.group c.toNat g.toNat).status = .running →
    (s.group c.toNat g.toNat).stack = [] → (s.group c.toNat g.toNat).parking = none → (s.group c.toNat g.toNat).causes = [] →
    (s.cluster c.toNat).groupBusy g.toNat = false →
    Gives (.groupRetire c g) s (fun t => OnlyGroup s t c.toNat g.toNat ∧
      t.group c.toNat g.toNat = { s.group c.toNat g.toNat with status := .retired })) ∧
  (∀ (c : BitVec 7) (g : BitVec 6) (s : State), (s.group c.toNat g.toNat).status = .running →
    (∀ e ∈ (s.group c.toNat g.toNat).stack, e.st ≠ .ready) →
    Gives (.yieldWakeTimeout c g) s (fun t => OnlyGroup s t c.toNat g.toNat ∧
      t.group c.toNat g.toNat = { s.group c.toNat g.toNat with stack := (s.group c.toNat g.toNat).stack.map (fun e =>
        if e.st = .yielded then { e with st := .ready } else e) }))) ∧
  (
  (∀ (c : BitVec 7) (g : BitVec 6) (s : State) (k : Kernel) (p : ParkCause) (e : Entry),
    let a := s.group c.toNat g.toNat
    (s.cluster c.toNat).kernel = some k → a.status = .running → a.parking = some p → a.causes = [] →
    (∀ x ∈ a.stack, x.out = none) → p.cause ∈ [4#8, 5#8, 6#8, 7#8, 9#8, 10#8] → p.ticket = none → p.insn ≠ 0 →
    a.stack.find? (fun x => x.pc == p.pc) = some e →
    Gives (.groupPark c ⟨g, false⟩) s (fun t =>
      let b := t.group c.toNat g.toNat
      b.status = .parked ∧ b.parking = none ∧ b.causes = [] ∧ b.x = a.x ∧ b.f = a.f ∧ b.stack = a.stack ∧
      fld b.park 255 248 = p.cause.toNat ∧ fld b.park 247 240 = p.reason.toNat ∧ bit b.park 231 = false ∧
      bit b.park 230 = p.addr.isSome ∧ bit b.park 229 = true ∧ fld b.park 228 223 = g.toNat ∧ fld b.park 222 216 = c.toNat ∧
      fld b.park 207 176 = e.mask.toNat ∧ fld b.park 175 144 = p.flanes.toNat ∧ fld b.park 143 96 = p.pc.toNat ∧
      fld b.park 95 48 = (p.addr.getD 0).toNat ∧ fld b.park 31 0 = p.insn.toNat)) ∧
  (∀ (c : BitVec 7) (g : BitVec 6) (s : State) (k : Kernel),
    let a := s.group c.toNat g.toNat
    (s.cluster c.toNat).kernel = some k → s.mayReplay k = false → a.status = .running → a.parking = none → a.causes = [] → a.stack ≠ [] →
    (∀ x ∈ a.stack, x.out = none) →
    Gives (.groupPark c ⟨g, true⟩) s (fun t =>
      let b := t.group c.toNat g.toNat
      b.status = .parked ∧ b.parking = none ∧ b.causes = [] ∧ b.x = a.x ∧ b.f = a.f ∧ b.stack = a.stack ∧
      fld b.park 255 248 = 8 ∧ fld b.park 247 240 = 1 ∧ bit b.park 231 = false ∧ bit b.park 229 = false ∧
      fld b.park 228 223 = g.toNat ∧ fld b.park 222 216 = c.toNat)))

/-! ### Memory accesses of lanes -/

/-- DH_LS_LOAD and DH_LS_STORE (R160, R168, R169): with every byte below the local-store size, aligned and readable, a load gives each active lane the
bytes at its offset; a store leaves at each lane's offset its value, the highest lane's where they overlap, and every other byte as it was.

An offset outside the local store, for any active lane, is a protection error; one that is not a multiple of the width is a misaligned access;
both park the group with those lanes in FLanes and AV = 0, and no lane has performed its access (R146, R169).

Atomics and locks on the local store (R160, R177, R178, R180): the active lanes act one after another in ascending lane number, each on the word
as the lanes before it left it; rd takes the old word, or for dh.acq 1 on success and 0 on failure. -/
def Obligations.LocalStore : Prop :=
  (
  (∀ (c : BitVec 7) (g : BitVec 6) (bad : List Nat) (s : State) (i : LC), i.c = c.toNat → i.g = g.toNat → Issues s i →
    laneRow i.w = .lsLoad →
    let n := (lsLoadForm i.w).bytes
    let off := fun l => (s.group i.c i.g).laneVA l (iRs1 i.w) (iImm i.w)
    (∀ l ∈ i.lanes, off l + n ≤ i.k.lsBytes ∧ off l % n = 0) →
    (∀ l ∈ i.lanes, ∀ j < n, (off l + j) / 32 ∉ bad ∧ (off l + j) / 32 ∉ (s.cluster i.c).lsBad) →
    Gives (.dhLsLoad c g bad) s (fun t => OnlyGroup s t i.c i.g ∧ WentOn s t i ∧
      Loaded s t i (fun l => readLe (s.cluster i.c).ls (off l) n))) ∧
  (∀ (c : BitVec 7) (g : BitVec 6) (bad : List Nat) (s : State) (i : LC), i.c = c.toNat → i.g = g.toNat → Issues s i →
    laneRow i.w = .lsStore →
    let n := (storeForm i.w).1
    let off := fun l => (s.group i.c i.g).laneVA l (iRs1 i.w) (iImmS i.w)
    (∀ l ∈ i.lanes, off l + n ≤ i.k.lsBytes ∧ off l % n = 0) →
    (∀ l ∈ i.lanes, ∀ j < n, (off l + j) / 32 ∉ bad ∧ (off l + j) / 32 ∉ (s.cluster i.c).lsBad) →
    Gives (.dhLsStore c g bad) s (fun t =>
      OnlyCluster s t i.c ∧ WentOn s t i ∧ (t.group i.c i.g).x = (s.group i.c i.g).x ∧
      (∀ l ∈ i.lanes, (∀ m ∈ i.lanes, l < m → off m ≠ off l) →
        readLe (t.cluster i.c).ls (off l) n = (s.group i.c i.g).storeValue i.w l) ∧
      (∀ a, (∀ l ∈ i.lanes, ¬(off l ≤ a ∧ a < off l + n)) → tget 0 (t.cluster i.c).ls a = tget 0 (s.cluster i.c).ls a)))) ∧
  (
  ∀ (c : BitVec 7) (g : BitVec 6) (bad : List Nat) (s : State) (i : LC) (store : Bool), i.c = c.toNat → i.g = g.toNat → Issues s i →
    laneRow i.w = (if store then .lsStore else .lsLoad) →
    let n := if store then (storeForm i.w).1 else (lsLoadForm i.w).bytes
    let off := fun l => (s.group i.c i.g).laneVA l (iRs1 i.w) (if store then iImmS i.w else iImm i.w)
    let out := i.lanes.filter (fun l => decide (i.k.lsBytes < off l + n))
    let mis := i.lanes.filter (fun l => off l % n != 0)
    (out ≠ [] ∨ mis ≠ []) →
    Gives (if store then .dhLsStore c g bad else .dhLsLoad c g bad) s (fun t =>
      if out ≠ [] then Faults s t i 6 out none else Faults s t i 7 mis none)) ∧
  (
  ∀ (c : BitVec 7) (g : BitVec 6) (s : State) (i : LC) (aop : Nat), i.c = c.toNat → i.g = g.toNat → Issues s i →
    aop < 16 → laneRow i.w = .amo aop → bit i.w 26 = true →
    let a := s.group i.c i.g
    let n := if bit i.w 25 then 8 else 4
    let off := fun l => (a.getX l (iRs1 i.w)).toNat
    let ops := fun l => a.amoOperands i.w i.c i.g l n
    let after := fun (ls : List Nat) => ls.foldl (fun m l =>
      writeLe m (off l) n (amoNew aop n (readLe m (off l) n) (ops l).1 (ops l).2)) (s.cluster i.c).ls
    let old := fun l => readLe (after (i.lanes.filter (fun m => decide (m < l)))) (off l) n
    (∀ l ∈ i.lanes, off l + n ≤ i.k.lsBytes ∧ off l % n = 0 ∧ ∀ j < n, (off l + j) / 32 ∉ (s.cluster i.c).lsBad) →
    let row : Instr := match aop with
      | 0 => .dhAmoswap c g | 1 => .dhAmoadd c g | 2 => .dhAmoand c g | 3 => .dhAmoor c g | 4 => .dhAmoxor c g
      | 5 => .dhAmomin c g | 6 => .dhAmomax c g | 7 => .dhAmominu c g | 8 => .dhAmomaxu c g | 9 => .dhAmocas c g
      | 10 => .dhFamoaddS c g | 11 => .dhFamominS c g | 12 => .dhFamomaxS c g | 13 => .dhAcq c g | 14 => .dhSpinacq c g
      | _ => .dhRel c g
    Gives row s (fun t =>
      OnlyCluster s t i.c ∧ (t.cluster i.c).ls = after i.lanes ∧ (t.group i.c i.g).f = a.f ∧
      Writes s t i (iRd i.w) (fun l => amoRd aop n (old l)) ∧
      (aop = 14 → a.joined i.e = 0 → ∀ e, e ∈ (t.group i.c i.g).stack → e.pc = i.e.pc → e.st = .yielded ∧
        ∀ l, e.mask.getLsbD l = (decide (l ∈ i.lanes) && decide (old l ≠ 0)))))

/-- BASE_LOAD and DH_HINTED_LOAD (R171, R187, R207): once every active lane's address translates, and the frame area or the cluster cache holds the
bytes, each lane's destination takes them; memory is unchanged.

BASE_STORE and DH_HINTED_STORE (R171, R189): in boundary mode a store to lines that the cluster cache holds, or to the frame area, performs at
once: the bytes of each lane are dirty in its line and read as the lane's value; memory and the Quire are unchanged. In fence mode the entry waits
until the Quire has performed the stores of its lanes (R196). -/
def Obligations.ClusterCacheHits : Prop :=
  (
  ∀ (c : BitVec 7) (g : BitVec 6) (s : State) (i : LC) (hinted : Bool) (ts : List LaneTo), i.c = c.toNat → i.g = g.toNat →
    Issues s i → laneRow i.w = (if hinted then .hintedLoad else .load) →
    let s1 := s.modGroup i.c i.g (fun k => k.noteIssue i.e)
    let n := (loadForm i.w).bytes
    let vas := i.lanes.map (fun l => (l, (s.group i.c i.g).laneVA l (iRs1 i.w) (if hinted then 0 else iImm i.w)))
    s1.resolve i .read n false vas = .go ts →
    (∀ p ∈ ts, match p.2.2 with
      | .local_ pa => ∃ k v, (s.cluster i.c).cline pa = some k ∧ k.read pa n = some v
      | _ => True) →
    Gives (if hinted then .dhHintedLoad c g else .baseLoad c g) s (fun t =>
      t.mem = s.mem ∧ t.west = s.west ∧ t.east = s.east ∧ (t.cluster i.c).ls = (s.cluster i.c).ls ∧
      (t.cluster i.c).frame = (s.cluster i.c).frame ∧ WentOn s t i ∧
      ∃ v, Loaded s t i v ∧ ∀ p ∈ ts, match p.2.2 with
        | .frame o => v p.1 = readLe (s.cluster i.c).frame o n
        | .local_ pa => ∃ k, (s.cluster i.c).cline pa = some k ∧ k.read pa n = some (v p.1)
        | .remote _ _ => True)) ∧
  (
  ∀ (c : BitVec 7) (g : BitVec 6) (s : State) (i : LC) (hinted : Bool) (ts : List LaneTo), i.c = c.toNat → i.g = g.toNat →
    Issues s i → laneRow i.w = (if hinted then .hintedStore else .store) →
    let s1 := s.modGroup i.c i.g (fun k => k.noteIssue i.e)
    let n := (storeForm i.w).1
    let a := s.group i.c i.g
    let vas := i.lanes.map (fun l => (l, a.laneVA l (iRs1 i.w) (if hinted then 0 else iImmS i.w)))
    s1.resolve i .write n false vas = .go ts →
    (bit (s.ctx i.ctx).status 3 = false →
      (∀ p ∈ ts, match p.2.2 with
        | .local_ pa => ((s.cluster i.c).cline pa).isSome ∧ pa % n = 0
        | .frame _ => True
        | .remote _ _ => False) →
      Gives (if hinted then .dhHintedStore c g else .baseStore c g) s (fun t =>
        t.mem = s.mem ∧ t.west = s.west ∧ t.east = s.east ∧ WentOn s t i ∧ (t.group i.c i.g).x = a.x ∧ (t.group i.c i.g).f = a.f ∧
        ∀ p ∈ ts, (∀ q ∈ ts, p.1 < q.1 → match p.2.2, q.2.2 with
            | .frame o, .frame o' => o + n ≤ o' ∨ o' + n ≤ o
            | .local_ pa, .local_ pb => pa + n ≤ pb ∨ pb + n ≤ pa
            | _, _ => True) →
          match p.2.2 with
          | .frame o => readLe (t.cluster i.c).frame o n = a.storeValue i.w p.1
          | .local_ pa => ∃ k, (t.cluster i.c).cline pa = some k ∧
              tget 0 k.dirty (sectorOf pa) &&& byteMask pa n = byteMask pa n ∧
              sectorNum (tget 0 k.data (sectorOf pa)) pa n = a.storeValue i.w p.1
          | .remote _ _ => True)) ∧
    (bit (s.ctx i.ctx).status 3 = true → ts ≠ [] → s.unassigned ts = [] → (∀ p ∈ ts, match p.2.2 with | .local_ _ => True | _ => False) →
      Gives (if hinted then .dhHintedStore c g else .baseStore c g) s (fun t =>
        t.mem = s.mem ∧ Waiting s t i .store (ts.map (fun p => (BitVec.ofNat 5 p.1, BitVec.ofNat 48 p.2.1,
          match p.2.2 with | .local_ pa => BitVec.ofNat 48 pa | _ => 0))))))

/-- Atomics on context memory and DH_DEADHEAD are performed at the Quire (R142, R172, R178, R240): once every active lane's address translates, the
entry waits for the answers, and until they come no register has changed; an atomic or a release has woken the yielded entries. -/
def Obligations.QuireAccessesWait : Prop :=
  (∀ (c : BitVec 7) (g : BitVec 6) (s : State) (i : LC) (aop : Nat) (ts : List LaneTo), i.c = c.toNat → i.g = g.toNat → Issues s i →
    aop < 16 → laneRow i.w = .amo aop → bit i.w 26 = false →
    let s1 := s.modGroup i.c i.g (fun k => k.noteIssue i.e)
    let vas := i.lanes.map (fun l => (l, ((s.group i.c i.g).getX l (iRs1 i.w)).toNat))
    s1.resolve i .atomic (if bit i.w 25 then 8 else 4) true vas = .go ts →
    s.unassigned ts = [] → (∀ p ∈ ts, match p.2.2 with | .local_ pa => (s.cluster i.c).mixedLine pa = false | _ => False) →
    let row : Instr := match aop with
      | 0 => .dhAmoswap c g | 1 => .dhAmoadd c g | 2 => .dhAmoand c g | 3 => .dhAmoor c g | 4 => .dhAmoxor c g
      | 5 => .dhAmomin c g | 6 => .dhAmomax c g | 7 => .dhAmominu c g | 8 => .dhAmomaxu c g | 9 => .dhAmocas c g
      | 10 => .dhFamoaddS c g | 11 => .dhFamominS c g | 12 => .dhFamomaxS c g | 13 => .dhAcq c g | 14 => .dhSpinacq c g
      | _ => .dhRel c g
    Gives row s (fun t => t.mem = s.mem ∧ Waiting s t i .atomic (ts.map (fun p => (BitVec.ofNat 5 p.1, BitVec.ofNat 48 p.2.1,
      match p.2.2 with | .local_ pa => BitVec.ofNat 48 pa | _ => 0))) (wakesYielded aop))) ∧
  (∀ (c : BitVec 7) (g : BitVec 6) (s : State) (i : LC) (l va pa : Nat), i.c = c.toNat → i.g = g.toNat → Issues s i →
    laneRow i.w = .deadhead → i.lanes = [l] → va = ((s.group i.c i.g).getX l (iRs1 i.w)).toNat →
    (s.modGroup i.c i.g (fun k => k.noteIssue i.e)).resolve i .atomic 1 true [(l, va)] = .go [(l, va, .local_ pa)] →
    s.unassigned [(l, va, .local_ pa)] = [] →
    Gives (.dhDeadhead c g) s (fun t => t.mem = s.mem ∧
      (∀ k ∈ (t.cluster i.c).cache, k.line.toNat = lineOf pa → k.dirty = [] ∧ k.valid = 0) ∧
      Waiting s t i .dead [(BitVec.ofNat 5 l, BitVec.ofNat 48 va, BitVec.ofNat 48 (pa / 2048 * 2048))]))

/-! ### Kernels -/

/-- KERNEL_LAUNCH and KERNEL_DISPATCH (R316, R317, R325, R326, R342): a launch that passes its checks fills its queue's launch record, one that does
not completes with status 0x07 and the check's number; dispatch puts its token at the end of every run list; a global launch that finds one full goes
into the holding buffer, a direct one waits in its fetcher (R328).

CLUSTER_READY, START and GO (R130, R192, R326, R398, R400), in Active: the head of the run list reports ready; once every cluster of the kernel has, each starts
it: its groups stand at the entry with every lane active, the frame pointer in x2, the argument in x10 and zero elsewhere, in cleared local store,
tokens and cache; after every acknowledgement the groups become ready. -/
def Obligations.KernelLaunchAndStart : Prop :=
  (
  (∀ (q : BitVec 14) (s : State) (e : BitVec 512), Ready s q.toNat e 1 →
    (s.launchFault q.toNat e = none → Gives (.kernelLaunch q) s (fun t =>
      let k := t.queue q.toNat
      OnlyEntry s t q.toNat ∧ k.running = some e ∧ ((s.queue q.toNat).stampAt = none → k.st = 5) ∧ k.launch.entry = e ∧
        k.launch.id = BitVec.ofNat 32 (q.toNat * 65536 + Ent.stamp e) ∧
      k.launch.ctx.toNat = (s.queue q.toNat).ctx ∧ k.launch.gen.toNat = s.genOf (s.queue q.toNat).ctx ∧ k.launch.replays = 0 ∧
      k.launch.state = 0 ∧ k.launch.complete = 0)) ∧
    (∀ info, s.launchFault q.toNat e = some info → Gives (.kernelLaunch q) s (fun t => OnlyEntry s t q.toNat ∧ Finished s t q.toNat e 7 info))) ∧
  (∀ (q : BitVec 14) (s : State), (s.queue q.toNat).launching q.toNat = true → (s.queue q.toNat).dispatched = false →
    (s.queue q.toNat).halted = false → (s.ctx (s.queue q.toNat).ctx).resetting = false → s.refuseWork = false → s.powerState = 1 →
    (q ∈ s.holding ∨ (s.queue q.toNat).type = 2 ∨ s.holding.length < 64) →
    let cs := s.launchClusters q.toNat
    let token := s.tokenOf q.toNat (s.queue q.toNat).launch.entry
    ((∀ c ∈ cs, (s.cluster c).runList.length < 16) → Gives (.kernelDispatch q) s (fun t =>
      (∀ c, t.cluster c = if c ∈ cs then { s.cluster c with runList := (s.cluster c).runList ++ [token] } else s.cluster c) ∧
      t.queue q.toNat = { s.queue q.toNat with dispatched := true } ∧ q ∉ t.holding ∧
      { t with clusters := s.clusters, queues := s.queues, holding := s.holding } = s)) ∧
    ((∃ c ∈ cs, 16 ≤ (s.cluster c).runList.length) → Gives (.kernelDispatch q) s (fun t =>
      t = if (s.queue q.toNat).type = 2 ∨ q ∈ s.holding then s else { s with holding := s.holding ++ [q] })))) ∧
  (
  (∀ (c : BitVec 7) (s : State), (s.cluster c.toNat).runList ≠ [] → (s.cluster c.toNat).kernel = none → s.powerState = 1 →
    Gives (.clusterReady c) s (fun t => OnlyCluster s t c.toNat ∧
      t.cluster c.toNat = { s.cluster c.toNat with ready := true, clock := .running })) ∧
  (∀ (c : BitVec 7) (s : State) (k : Kernel) (rest : List Kernel), (s.cluster c.toNat).runList = k :: rest →
    (s.cluster c.toNat).ready = true → (s.cluster c.toNat).kernel = none → s.powerState = 1 → (s.queue k.queue.toNat).halted = false →
    (s.power.withhold = false ∨ (s.queue k.queue.toNat).started = true) →
    (∀ d ∈ s.launchClusters k.queue.toNat, (s.cluster d).has k = true ∨
      ((s.cluster d).ready = true ∧ ∃ h, (s.cluster d).runList.head? = some h ∧ h.queue = k.queue ∧ h.id = k.id)) →
    Gives (.start c) s (fun t =>
      let u := t.cluster c.toNat
      u.kernel = some k ∧ u.runList = rest ∧ u.started = true ∧ u.acked = false ∧ u.ls = [] ∧ u.frame = [] ∧ u.cache = [] ∧ u.tokens = [] ∧
      (∀ d, d ≠ c.toNat → t.cluster d = s.cluster d) ∧ (t.queue k.queue.toNat).started = true ∧
      (∀ g, g < k.groups → (u.group g).status = .running ∧
        (u.group g).stack = [{ pc := k.entry, mask := BitVec.allOnes 32, st := .ready }] ∧
        ∀ l r, l < 32 → r < 32 → (u.group g).getX l r =
          if r = 2 then BitVec.ofNat 64 (k.frameBase c.toNat + g * k.frameBytes + (l + 1) * (k.frameBytes / 32))
          else if r = 10 then k.arg else 0) ∧
      (∀ g, k.groups ≤ g → u.group g = {}))) ∧
  (∀ (c : BitVec 7) (s : State) (k : Kernel), (s.cluster c.toNat).kernel = some k →
    (∀ d ∈ s.launchClusters k.queue.toNat, (s.cluster d).has k = true ∨ (s.queue k.queue.toNat).launch.complete.getLsbD d = true) →
    Gives (.go c) s (fun t => OnlyCluster s t c.toNat ∧ t.cluster c.toNat = { s.cluster c.toNat with acked := true })))

/-- KERNEL_REPLAY (R326, R343, R436): once no write of the withdrawn kernel is outstanding and its run lists have room it stands in them again, ahead
of every kernel but those at their head that have begun to start; its launch record counts the replay, and the clusters it had completed on run it
anew. In a stopped queue or a context that is being reset nothing happens.

GROUP_LIVELOCK and CLUSTER_KERNEL_COMPLETE (R137, R143, R193, R313, R319): a livelocked group puts its context in error with cause 2; a kernel
whose groups have all ended writes its dirty lines back, and then completes on its cluster; with the last cluster the entry completes with status
0x00, or 0x01 if a group was discarded. -/
def Obligations.KernelReplayAndEnd : Prop :=
  (
  ∀ (q : BitVec 14) (s : State) (e : BitVec 512), (s.queue q.toNat).launch.withdrawn = true → (s.queue q.toNat).running = some e →
    (∀ r ∈ s.sh.reqs, r.msg.src.toNat ∈ s.launchClusters q.toNat → r.msg.ctx = (s.queue q.toNat).launch.ctx → r.msg.vc = 0 ∧ r.msg.op = 1) →
    (∀ c ∈ s.launchClusters q.toNat, (s.cluster c).runList.length < 16) →
    let stopped := (s.queue q.toNat).halted = true ∨ (s.ctx (s.queue q.toNat).ctx).resetting = true
    (stopped → Gives (.kernelReplay q) s (fun t => t = s)) ∧
    (¬ stopped → Gives (.kernelReplay q) s (fun t =>
      let r := (s.queue q.toNat).launch
      let begun := fun (k : Kernel) => (t.queue k.queue.toNat).started
      (∀ c ∈ s.launchClusters q.toNat, let old := (s.cluster c).runList
        ∃ k, (t.cluster c).runList = old.takeWhile begun ++ k :: old.dropWhile begun ∧ k.id = BitVec.ofNat 32 (q.toNat * 65536 +
          Ent.stamp r.entry) ∧ k.gen = r.gen ∧ k.entry = BitVec.ofNat 48 (Ent.pc r.entry) ∧
          (t.cluster c).ready = ((s.cluster c).ready && (t.cluster c).runList.head? == old.head?)) ∧
      (∀ c, c ∉ s.launchClusters q.toNat → t.cluster c = s.cluster c) ∧
      (t.queue q.toNat).launch.replays = r.replays + 1 ∧ (t.queue q.toNat).launch.withdrawn = false ∧
      (t.queue q.toNat).launch.complete = 0 ∧ (t.queue q.toNat).launch.state = 2 ∧ (t.queue q.toNat).running = some e))) ∧
  (
  (∀ (c : BitVec 7) (g : BitVec 6) (s : State) (k : Kernel), (s.cluster c.toNat).kernel = some k → (s.group c.toNat g.toNat).livelock = true →
    (s.ctx k.ctx.toNat).resetting = false → Gives (.groupLivelock c g) s (fun t => InError s t k.ctx.toNat 2)) ∧
  (∀ (c : BitVec 7) (s : State) (kn : Kernel),
    let u := s.cluster c.toNat
    let q := kn.queue.toNat
    let r := (s.queue q).launch
    u.kernel = some kn → u.runs = true → (∀ g, g < kn.groups → (u.group g).status = .retired ∨ (u.group g).status = .discarded) →
    u.press.ops = [] → u.stream.ops = [] → u.stream.fills = [] →
    ((∃ l ∈ u.cache, l.dirty ≠ []) → Gives (.clusterKernelComplete c) s (fun t =>
      t.cluster c.toNat = { u with cache := u.cache.map (fun l => { l with dirty := [] }) } ∧ (t.queue q).running = (s.queue q).running)) ∧
    ((∀ l ∈ u.cache, l.dirty = []) → (∀ x ∈ s.sh.reqs, x.msg.src.toNat = c.toNat → x.why ≠ .writeBack) →
      r.id = kn.id → r.withdrawn = false → ∀ e, (s.queue q).running = some e →
      let last := { r with complete := setB r.complete c.toNat true }.allDone
      Gives (.clusterKernelComplete c) s (fun t =>
        (t.cluster c.toNat).kernel = none ∧ (∀ d, d ≠ c.toNat → t.cluster d = s.cluster d) ∧
        (t.queue q).launch.complete = setB r.complete c.toNat true ∧ (t.queue q).launch.num = r.num ||| u.num ∧
        (last = false → (t.queue q).running = some e) ∧
        (last = true → Finished s t q e (if r.discarded || u.discarded then 1 else 0) 0 (r.num ||| u.num).toNat r.replays.toNat)))))

/-! ### Queues -/

/-- DOORBELL (R320, R321, R323, R333): from the host at the start of the queue's page or from a core at the queue's word, a value at most one ring
beyond Head becomes Tail; an armed queue that it announces work to starts to fetch. Any other value leaves every queue as it was. What the host sends
while the endpoint grants no credits waits (R403).

ENTRY_FETCH (R315, R323, R324, R327): an empty queue is armed, and idle where nothing of it runs; otherwise, within the fetcher's slots and buffer
and with no other queue to be served first, Head moves on, one more fetch is in flight, and the queue is the last that its priority served; a ring
that is not readable local memory puts the queue in error 2.

ENTRY_ARRIVAL, STAMP_REREAD and STAMP_TIMEOUT (R238, R322, R324): once no ordered reduction and no transaction of the cores is open into it, an entry whose Stamp is that of its slot is
taken up; one whose Stamp is not leaves Head at it and the queue waiting (State 3, or State 4 while a fence wait blocks it), until a reread finds the
Stamp or 10 ms pass, which puts the queue in error 1.

NOP, INVALID_ENTRY, FENCE_WAIT and FENCE_WAIT_SATISFIED (R313, R316, R329, R330): a no-operation completes with status 0x00; an invalid entry with
0x06, with the Info of a copy where it is one, and no other effect; a fence wait completes with 0x00 once its target's Done has reached its Value, and blocks its queue in State 4 until then.

WAIT_GRAPH_WALK (R334-R336): the walk from the queue that blocked first follows the fence waits; one that comes back to it puts the context in
error with cause 1, any other changes nothing. -/
def Obligations.QueuesAndEntries : Prop :=
  (
  (∀ (off : BitVec 26) (v : Word) (s : State), s.hostWaits = true → Gives (.doorbell true off v) s (fun t =>
    t.queues = s.queues ∧ t.host.held = s.host.held ++ [.doorbell off v])) ∧
  ∀ (host : Bool) (off : BitVec 26) (v : Word) (s : State), s.hostWaits = false →
    let q := if host then off.toNat / 4096 else off.toNat / 8
    let k := s.queue q
    let tail := v.toNat % 65536
    (if host then off.toNat % 4096 = 0 else off.toNat < 0x20000 ∧ off.toNat % 8 = 0) →
    (k.st ≠ 0 → stampDiff tail k.head ≤ 2 ^ k.ringLog2.toNat → Gives (.doorbell host off v) s (fun t =>
      let b := t.queue q
      (∀ p, p ≠ q → t.queue p = s.queue p) ∧ b.tail = tail ∧ b.head = k.head ∧ b.done = k.done ∧ b.fetched = k.fetched ∧ b.running = k.running ∧
      (k.armed = true ∧ tail ≠ k.head → b.armed = false ∧ b.st = if k.st = 1 then 2 else k.st) ∧
      (k.armed = false ∨ tail = k.head → b.armed = k.armed ∧ b.st = k.st))) ∧
    (k.st = 0 ∨ 2 ^ k.ringLog2.toNat < stampDiff tail k.head → Gives (.doorbell host off v) s (fun t =>
      t.queues = s.queues ∧ (9 ≤ s.coldStep.toNat → t.events.next = s.events.next + 1)))) ∧
  (
  ∀ (q : BitVec 14) (s : State), let k := s.queue q.toNat
    k.fetches = true → s.feedStopped k = false →
    (k.head = k.tail → Gives (.entryFetch q) s (fun t => OnlyQueue s t q.toNat ∧
      t.queue q.toNat = if k.held = 0 then (k.setArmed true).setSt 1 else k.setArmed true)) ∧
    (k.head ≠ k.tail → k.held < 4 →
      let peers := (s.queues.filter (fun p => p.2.st != 0 && sameFetcher p.2 k)).map (fun p => p.2)
      (peers.map (fun p => p.inFetch)).sum < (if k.type = 2 then 16 else 256) →
      (peers.map (fun p => p.fetched.length + p.inFetch)).sum < (if k.type = 2 then 64 else 4096) →
      s.fetchBehind q.toNat k = false →
      let others := fun (t : State) => OnlyRecords s { t with queues := s.queues, sh := s.sh } ∧ (∀ p, p ≠ q.toNat → t.queue p = s.queue p) ∧
        t.sh = { s.sh with lastFetch := t.sh.lastFetch } ∧ tget 16383 t.sh.lastFetch k.ring_ = q
      (∀ w, s.walk k.ctx (k.slotVA k.head) = .ok w → w.remote = false → w.r = true →
        Gives (.entryFetch q) s (fun t => others t ∧ (t.queue q.toNat).head = (k.head + 1) % 65536 ∧
          (t.queue q.toNat).inFetch = k.inFetch + 1 ∧ (t.queue q.toNat).st = k.st ∧ (t.queue q.toNat).tail = k.tail)) ∧
      ((∀ w, s.walk k.ctx (k.slotVA k.head) = .ok w → w.remote = true ∨ w.r = false) →
        Gives (.entryFetch q) s (fun t => others t ∧ t.queue q.toNat = (k.setSt 7).setErr 2)))) ∧
  (
  (∀ (q : BitVec 14) (s : State) (bs : List Byte), let k := s.queue q.toNat
    let stamp := stampDiff k.head k.inFetch
    let e := BitVec.ofNat 512 (leNat bs)
    k.inFetch ≠ 0 → s.tracksVA k.ctx (k.slotVA stamp) 64 = false → s.readVA k.ctx (k.slotVA stamp) 64 = some bs →
    (Ent.stamp e = stamp → Gives (.entryArrival q) s (fun t => OnlyEntry s t q.toNat ∧
      t.queue q.toNat = { k with fetched := k.fetched ++ [e], inFetch := k.inFetch - 1 })) ∧
    (Ent.stamp e ≠ stamp → k.st ≠ 0 → k.st ≠ 6 → k.st ≠ 7 → Gives (.entryArrival q) s (fun t => OnlyEntry s t q.toNat ∧
      (t.queue q.toNat).head = stamp ∧ (t.queue q.toNat).st = (if k.fence.isSome then 4 else 3) ∧ (t.queue q.toNat).inFetch = 0 ∧
      (t.queue q.toNat).fetched = k.fetched ∧ (t.queue q.toNat).stampAt = some s.launchCounter))) ∧
  (∀ (q : BitVec 14) (s : State) (bs : List Byte), let k := s.queue q.toNat
    let e := BitVec.ofNat 512 (leNat bs)
    k.rereads = true → s.fetchRoom k = true → s.tracksVA k.ctx (k.slotVA k.head) 64 = false → s.readVA k.ctx (k.slotVA k.head) 64 = some bs →
    (Ent.stamp e = k.head → Gives (.stampReread q) s (fun t => OnlyEntry s t q.toNat ∧
      (t.queue q.toNat).fetched = k.fetched ++ [e] ∧ (t.queue q.toNat).head = (k.head + 1) % 65536 ∧
      (t.queue q.toNat).st = (if k.fence.isSome then 4 else if k.running.isSome then 5 else 2) ∧ (t.queue q.toNat).stampAt = none)) ∧
    (Ent.stamp e ≠ k.head → Gives (.stampReread q) s (fun t => OnlyRecords s t))) ∧
  (∀ (q : BitVec 14) (s : State), (s.queue q.toNat).rereads = true → Gives (.stampTimeout q) s (fun t =>
    OnlyEntry s t q.toNat ∧ (t.queue q.toNat).st = 7 ∧ fld (t.queue q.toNat).reg 27 24 = 1 ∧ (t.queue q.toNat).stampAt = none ∧
    (9 ≤ s.coldStep.toNat → t.events.next = s.events.next + 1)))) ∧
  (
  (∀ (q : BitVec 14) (s : State) (e : BitVec 512), Ready s q.toNat e 4 →
    Gives (.nop q) s (fun t => OnlyEntry s t q.toNat ∧ Finished s t q.toNat e 0)) ∧
  (∀ (q : BitVec 14) (s : State) (e : BitVec 512), s.readyEntry q.toNat = some e → s.attachOnly q.toNat e = false → s.entryValid q.toNat e = false →
    Gives (.invalidEntry q) s (fun t => OnlyEntry s t q.toNat ∧ Finished s t q.toNat e 6 (if Ent.op e = 2 then Ent.xfer e else 0))) ∧
  (∀ (q : BitVec 14) (s : State) (e : BitVec 512), Ready s q.toNat e 3 →
    (Ent.value e ≤ (s.queue (Ent.target e)).done → Gives (.fenceWait q) s (fun t => OnlyEntry s t q.toNat ∧ Finished s t q.toNat e 0)) ∧
    ((s.queue (Ent.target e)).done < Ent.value e → Gives (.fenceWait q) s (fun t =>
      { t with queues := s.queues, walkPending := s.walkPending } = s ∧ (∀ p, p ≠ q.toNat → t.queue p = s.queue p) ∧
      (t.queue q.toNat).st = 4 ∧ (t.queue q.toNat).running = some e ∧ t.walkPending = s.walkPending ++ [q]))) ∧
  (∀ (q : BitVec 14) (s : State) (e : BitVec 512), (s.queue q.toNat).fence = some e → (s.queue q.toNat).halted = false →
    Ent.value e ≤ (s.queue (Ent.target e)).done →
    Gives (.fenceWaitSatisfied q) s (fun t => OnlyEntry s t q.toNat ∧ Finished s t q.toNat e 0))) ∧
  (
  ∀ (q : BitVec 14) (rest : List (BitVec 14)) (s : State), s.walkPending = q :: rest →
    (s.waitCycle q.toNat 16384 q.toNat [] = none → Gives (.waitGraphWalk q) s (fun t => t = { s with walkPending := rest })) ∧
    (∀ ms, s.waitCycle q.toNat 16384 q.toNat [] = some ms → (s.ctx (s.queue q.toNat).ctx).resetting = false →
      Gives (.waitGraphWalk q) s (fun t => InError s t (s.queue q.toNat).ctx 1)))

/-- COPY, COPY_COMPLETE and COPY_STALL (R304, R312, R313, R318, R336): a copy goes to the engine its queue is bound to, which takes it up if it has
nothing else; after its last byte the entry completes with status 0x00, after an early end with that status; a transfer that stays stopped puts its
context in error with cause 3.

FAULT_RESUME_RETRY, FAULT_RESUME_ABORT and TRANSLATION_FAULT_RECORD (R300-R303, R319): once its record is in the log, a stopped transfer whose
record says so goes on, with the same entry; any stopped one can be ended, its entry completing with status 0x02; a waiting record enters the log
while the log has room, those of windows first. -/
def Obligations.CopiesAndTheirFaults : Prop :=
  (
  (∀ (q : BitVec 14) (s : State) (e : BitVec 512), Ready s q.toNat e 2 →
    let b := (s.queue q.toNat).bind
    ((s.engine b).queue = none → (s.engine b).todo = [] → (s.engine b).recordWaits = false → Gives (.copy q) s (fun t =>
      (t.engine b).queue = some q ∧ (t.engine b).entry = e ∧ (t.engine b).done = 0 ∧ (t.queue q.toNat).running = some e)) ∧
    ((s.engine b).queue ≠ none → Gives (.copy q) s (fun t => (∀ d, d ≠ b → t.engine d = s.engine d) ∧
      t.engine b = { s.engine b with todo := (s.engine b).todo ++ [q] } ∧ (t.queue q.toNat).running = some e))) ∧
  (∀ (n : BitVec 6) (s : State) (q : BitVec 14) (e : BitVec 512), let k := s.engine n.toNat
    k.queue = some q → (s.queue q.toNat).running = some e → s.engineBusy n.toNat = false → k.todo = [] → k.halt ≠ some endsByReset →
    (k.ends = none → k.stopped = false → k.done.toNat = Ent.length k.entry → Gives (.copyComplete n) s (fun t =>
      (t.engine n.toNat).queue = none ∧ Finished s t q.toNat e 0 (Ent.xfer k.entry))) ∧
    (∀ st, k.ends = some st → Gives (.copyComplete n) s (fun t =>
      (t.engine n.toNat).queue = none ∧ Finished s t q.toNat e st.toNat (Ent.xfer k.entry)))) ∧
  (∀ (n : BitVec 6) (s : State) (q : BitVec 14), (s.engine n.toNat).queue = some q → (s.engine n.toNat).stopped = true →
    (s.ctx (s.queue q.toNat).ctx).resetting = false → Gives (.copyStall n) s (fun t => InError s t (s.queue q.toNat).ctx 3))) ∧
  (
  (∀ (aq : Bool) (s : State) (e e2 : BitVec 512) (c : BitVec 14), let q := if aq then 1 else 0
    let n := fld e 479 474
    let k := s.engine n
    AdminReady s aq e 0x48 → k.queue = some c → k.stopped = true → k.recordWaits = false → k.halt ≠ some endsByReset →
    (fld e 473 472 = 0 → bit k.record 249 = true →
      Gives (.faultResumeRetry aq) s (fun t => Finished s t q e 0 ∧ (t.engine n).queue = some c ∧ (t.engine n).entry = k.entry ∧
        ∀ m, m ≠ n → t.engine m = s.engine m)) ∧
    (fld e 473 472 = 0 → bit k.record 249 = true → Ent.length k.entry ≤ k.done.toNat →
      Gives (.faultResumeRetry aq) s (fun t => Finished s t q e 0 ∧ t.engine n = { k with stopped := false } ∧
        ∀ m, m ≠ n → t.engine m = s.engine m)) ∧
    (fld e 473 472 = 0 → bit k.record 249 = false →
      Gives (.faultResumeRetry aq) s (fun t => OnlyEntry s t q ∧ Finished s t q e 8 2)) ∧
    (fld e 473 472 = 1 → c.toNat ≠ q → (s.queue c.toNat).running = some e2 → k.todo = [] →
      Gives (.faultResumeAbort aq) s (fun t => Finished s t q e 0 ∧ (t.engine n).queue = none ∧ (t.engine n).stopped = false ∧
        Finished s t c.toNat e2 2 (Ent.xfer k.entry)))) ∧
  (∀ (n : BitVec 6) (s : State) (r : BitVec 256) (rest : List (BitVec 256)), s.sh.faultWait = r :: rest → s.faultLog.length < faultLogRoom →
    Gives (.translationFaultRecord n) s (fun t => t.sh = { s.sh with faultWait := rest } ∧ t.faultLog = s.faultLog ++ [r] ∧
      t.engines = s.engines)) ∧
  (∀ (n : BitVec 6) (s : State), (s.engine n.toNat).recordWaits = true → s.sh.faultWait = [] → s.faultLog.length < faultLogRoom →
    (s.engine n.toNat).queue ≠ none ∨ (s.engine n.toNat).todo = [] →
    Gives (.translationFaultRecord n) s (fun t => t.engine n.toNat = { s.engine n.toNat with recordWaits := false } ∧
      t.faultLog = s.faultLog ++ [(s.engine n.toNat).record] ∧ (∀ m, m ≠ n.toNat → t.engine m = s.engine m))))

/-! ### Admin commands -/

/-- CONTEXT_OPEN, CONTEXT_CLOSE and CONTEXT_RESET (R290, R331, R340, R341, R351): a closed context opens with the root, slots and purpose named and
its generation one on; an open one without queues closes; an open or held one begins its reset, which takes its kernels from every cluster, while the
command runs on. Context 0 is rejected with Info 3.

CONTEXT_RESET_COMPLETE (R340, R341): a reset that has waited for the answers of the generation to come goes on once they have come; once nothing
of the context is outstanding it is open again, each of its queues has discarded what it had not completed of the entries that stood in it as the reset
began, counted in Done, and is idle and armed, or fetches where Tail has moved since, and the command that asked for the reset completes. -/
def Obligations.ContextOpenCloseReset : Prop :=
  (
  ∀ (aq : Bool) (s : State) (e : BitVec 512), let x := Ent.ctx e
    let q := if aq then 1 else 0
    s.genBusy x = false →
    (AdminReady s aq e 0x40 →
      (x ≠ 0 → fld e 467 466 ≠ 3 → fld e 465 464 ≠ 3 → fld e 388 380 ≤ 256 → s.ctxState x = 0 →
        Gives (.contextOpen aq) s (fun t => Finished s t q e 0 ∧ t.ctxState x = 1 ∧ t.genOf x = (s.genOf x + 1) % 16 ∧
          bit (t.ctx x).xlat 0 = true ∧ fld (t.ctx x).xlat 47 12 = fld e 460 425 ∧ fld (t.ctx x).xlat 83 75 = fld e 388 380 ∧
          fld (t.ctx x).xlat 119 84 = fld e 424 389 ∧ fld (t.ctx x).status 7 6 = fld e 467 466 ∧ bit (t.ctx x).status 5 = bit e 461 ∧
          bit (t.ctx x).status 4 = bit e 462 ∧ ∀ y, y ≠ x → SameCtx s t y)) ∧
      (x = 0 → Gives (.contextOpen aq) s (fun t => OnlyEntry s t q ∧ Finished s t q e 8 3))) ∧
    (AdminReady s aq e 0x41 → x ≠ 0 → s.ctxState x = 1 → s.queuesOf x = [] →
      Gives (.contextClose aq) s (fun t => Finished s t q e 0 ∧ t.ctxState x = 0 ∧ bit (t.ctx x).xlat 0 = false ∧
        t.genOf x = (s.genOf x + 1) % 16 ∧ ∀ y, y ≠ x → SameCtx s t y)) ∧
    (AdminReady s aq e 0x42 → x ≠ 0 → s.ctxState x = 1 ∨ s.ctxState x = 2 →
      Gives (.contextReset aq) s (fun t => t.ctxState x = 3 ∧ (t.ctx x).resetting = true ∧ t.genOf x = (s.genOf x + 1) % 16 ∧
        (t.queue q).running = some e ∧ (∀ c k, (t.cluster c).kernel = some k → k.ctx.toNat ≠ x) ∧ ∀ y, y ≠ x → SameCtx s t y))) ∧
  (
  (∀ (x : BitVec 12) (s : State), (s.ctx x.toNat).resetting = true → (s.ctx x.toNat).waitGen = true → s.genBusy x.toNat = false →
    Gives (.contextResetComplete x) s (fun t => (t.ctx x.toNat).waitGen = false ∧ (t.ctx x.toNat).resetting = true ∧
      t.genOf x.toNat = (s.genOf x.toNat + 1) % 16 ∧ (∀ c k, (t.cluster c).kernel = some k → k.ctx ≠ x) ∧
      ∀ y, y ≠ x.toNat → SameCtx s t y)) ∧
  ∀ (x : BitVec 12) (s : State), (s.ctx x.toNat).resetting = true → (s.ctx x.toNat).waitGen = false → s.ctxBusy x.toNat = false →
    Gives (.contextResetComplete x) s (fun t =>
      t.ctxState x.toNat = 1 ∧ (t.ctx x.toNat).resetting = false ∧
      (∀ q ∈ s.queuesOf x.toNat, 2 ≤ q → let k := s.queue q
        let b := t.queue q
        let last := (k.resetTail.map (fun v => v.toNat)).getD k.tail
        b.running = none ∧ b.fetched = [] ∧ b.inFetch = 0 ∧ b.st = (if k.tail = last then 1 else 2) ∧ b.armed = decide (k.tail = last) ∧
        b.head = last ∧ b.tail = k.tail ∧ b.done = (k.done + stampDiff last (k.done % 65536)) % 2 ^ 64) ∧
      (∀ (aq : Bool) (e : BitVec 512), let q := if aq then 1 else 0
        (s.queue q).running = some e → Ent.op e = 0x42 → Ent.ctx e = x.toNat → q ∉ s.queuesOf x.toNat → Finished s t q e 0)))

/-- QUEUE_CREATE, QUEUE_DESTROY and QUEUE_RESET (R312, R314, R331): a queue that does not exist is created over a ring that its context maps; an idle
one or one in error that nothing waits for goes; one in error fetches again from Head. -/
def Obligations.QueueCommands : Prop :=
  ∀ (aq : Bool) (s : State) (e : BitVec 512), let q := if aq then 1 else 0
    let n := Ent.queue e
    (AdminReady s aq e 0x43 →
      let ty := fld e 465 464
      let x := fld e 463 452
      let lg := fld e 451 448
      let ring := fld e 447 400
      let bind := fld e 330 325
      ty ≠ 0 → 4 ≤ lg → lg ≤ 12 → 4 ≤ fld e 334 331 → ring % (2 ^ lg * 64) = 0 → fld e 399 336 % (2 ^ fld e 334 331 * 32) = 0 →
      (ty = 1 → bind = 0) → (ty = 2 → bind ≤ 15) → 2 ≤ n → (s.queue n).st = 0 → s.ctxState x = 1 →
      (∀ i, i < (2 ^ lg * 64 + 4095) / 4096 → ∃ w, s.walk x (ring + i * 4096) = .ok w ∧ w.remote = false ∧ w.pin = true ∧ w.r = true) →
      Gives (.queueCreate aq) s (fun t => Finished s t q e 0 ∧ (∀ p, p ≠ q → p ≠ n → t.queue p = s.queue p) ∧
        let k := t.queue n
        k.st = 1 ∧ k.type = ty ∧ k.ctx = x ∧ k.bind = bind ∧ k.head = 0 ∧ k.tail = 0 ∧ k.done = 0 ∧ k.armed = true ∧ k.ring.toNat = ring ∧
        k.ringLog2.toNat = lg ∧ k.cpl.toNat = fld e 399 336 ∧ k.cplHost = bit e 335 ∧ k.fetched = [] ∧ k.running = none)) ∧
    (AdminReady s aq e 0x44 → (s.queue n).st = 1 ∨ (s.queue n).st = 7 → 2 ≤ n → s.fenceNames n = false → (s.queue n).running = none →
      Gives (.queueDestroy aq) s (fun t => Finished s t q e 0 ∧ t.queue n = {} ∧ ∀ p, p ≠ q → p ≠ n → t.queue p = s.queue p)) ∧
    (AdminReady s aq e 0x45 → (s.queue n).st = 7 →
      Gives (.queueReset aq) s (fun t => let k := s.queue n
        let b := t.queue n
        Finished s t q e 0 ∧ (∀ p, p ≠ q → p ≠ n → t.queue p = s.queue p) ∧ fld b.reg 27 24 = 0 ∧ b.head = k.head ∧ b.tail = k.tail ∧
        b.done = k.done ∧ b.running = k.running ∧
        (∀ r, k.running = some r → b.st = if Ent.op r = 3 then 4 else 5) ∧
        (k.running = none → k.head ≠ k.tail → b.st = 2) ∧
        (k.running = none → k.head = k.tail → k.held ≠ 0 → b.st = 2) ∧
        (k.head = k.tail → k.held = 0 → b.st = 1 ∧ b.armed = true)))

/-- GROUP_ACCESS_READ, GROUP_ACCESS_WRITE and INSPECTION_APERTURE_WRITE (R153, R154, R331): the group state image of a group, or the frame of a parked
one, is read into the buffer or written from it; the register part of the image of a resumable parked group can be written, by a core too; a write
that is not allowed changes nothing of the group and is reported, to the core as a trap (log 89).

GROUP_RESUME_REPLAY, GROUP_RESUME_SKIP, GROUP_RESUME_DISCARD and GROUP_STOP (R145, R148, R155, R156): a parked group whose record allows it goes
on at the parked instruction, whatever it waited for, or past it, with the next pending cause parking it again; or it ends as discarded; a running
group parks with cause 0x0B and the command completes, or, while an access of it is outstanding, parks and completes later. -/
def Obligations.GroupStateCommands : Prop :=
  (
  (∀ (aq : Bool) (s : State) (e : BitVec 512) (k : Kernel),
    let q := if aq then 1 else 0
    let c := fld e 467 461
    let g := fld e 460 455
    let o := fld e 452 436
    let n := fld e 435 422 * 8
    let frame := bit e 453
    AdminReady s aq e 0x4B → (s.cluster c).kernel = some k → k.ctx.toNat = Ent.ctx e → g < k.groups → n ≠ 0 → o % 8 = 0 →
    o + n ≤ (if frame then k.frameBytes else 16384) → (frame = true → (s.group c g).status = .parked) →
    (bit e 454 = false → bit e 357 = true → s.host.attach = 2 → Gives (.groupAccessRead aq) s (fun t =>
      Finished s t q e 0 ∧ t.clusters = s.clusters ∧
      SentToHost s t (BitVec.ofNat 64 (fld e 421 358))
        (if frame then readBytes (s.cluster c).frame (g * k.frameBytes + o) n
         else (List.range n).map (fun i => (s.group c g).imageByte (o + i))))) ∧
    (∀ bs, bit e 454 = true → bit e 357 = false → s.tracksVA 0 (fld e 421 358) n = false → s.readVA 0 (fld e 421 358) n = some bs →
      (frame = true → Gives (.groupAccessWrite aq) s (fun t => Finished s t q e 0 ∧
        t.cluster c = { s.cluster c with frame := writeBytes (s.cluster c).frame (g * k.frameBytes + o) bs } ∧
        ∀ d, d ≠ c → t.cluster d = s.cluster d)) ∧
      (∀ u : State, frame = false → s.imageWrite c g o bs = some u → Gives (.groupAccessWrite aq) s (fun t => Finished s t q e 0 ∧
        t.clusters = u.clusters)) ∧
      (frame = false → s.imageWrite c g o bs = none → Gives (.groupAccessWrite aq) s (fun t => Finished s t q e 8 2 ∧
        t.clusters = s.clusters)))) ∧
  (∀ (n : BitVec 6) (off : BitVec 27) (v : Word) (s : State), let c := off.toNat / 2 ^ 20
    let g := off.toNat / 2 ^ 14 % 64
    let o := off.toNat % 2 ^ 14
    (s.group c g).status = .parked → bit (s.group c g).park 229 = true → 0x400 ≤ o → o < 0x2400 → o % 8 = 0 →
    Gives (.inspectionApertureWrite n off true v) s (fun t => OnlyGroup s t c g ∧
      (∀ l r, l < 32 → r < 32 → (t.group c g).getX l r = if r ≠ 0 ∧ l * 32 + r = (o - 0x400) / 8 then v else (s.group c g).getX l r) ∧
      { t.group c g with x := (s.group c g).x } = s.group c g)) ∧
  (∀ (n : BitVec 6) (off : BitVec 27) (wide : Bool) (v : Word) (s : State),
    (s.group (off.toNat / 2 ^ 20) (off.toNat / 2 ^ 14 % 64)).mayResume = false ∨ off.toNat % 4 ≠ 0 →
    Gives (.inspectionApertureWrite n off wide v) s (fun t => OnlyCore s t n.toNat ∧
      t.core n.toNat = (s.core n.toNat).takeTrap { cause := 7, tval := 0x060000000000 + off.toNat }))) ∧
  (
  ∀ (aq : Bool) (s : State) (e : BitVec 512), let q := if aq then 1 else 0
    let c := fld e 467 461
    let g := fld e 460 455
    let a := s.group c g
    s.owns (Ent.ctx e) c = true →
    (AdminReady s aq e 0x4C → a.status = .parked →
      (fld e 454 453 = 0 → a.mayResume = true → Gives (.groupResumeReplay aq) s (fun t => Finished s t q e 0 ∧
        (∀ h, h ≠ g → t.group c h = s.group c h) ∧
        t.group c g = { a with status := .running, park := 0, parking := a.causes.head?, causes := a.causes.drop 1,
                               stack := a.stack.map (fun x => if x.pc = BitVec.ofNat 48 (fld a.park 143 96) then
                                 { x with st := .ready, wait := .nothing, walking := false } else x) })) ∧
      (fld e 454 453 = 1 → a.maySkip = true → Gives (.groupResumeSkip aq) s (fun t => Finished s t q e 0 ∧
        (∀ h, h ≠ g → t.group c h = s.group c h) ∧ (t.group c g).status = .running ∧ (t.group c g).park = 0 ∧ (t.group c g).x = a.x ∧
        ∀ x, a.stack = [x] → x.mask ≠ 0 → x.pc = BitVec.ofNat 48 (fld a.park 143 96) →
          (t.group c g).stack.map (fun y => (y.pc, y.mask)) = [(x.pc + 4, x.mask)])) ∧
      (fld e 454 453 = 2 → Gives (.groupResumeDiscard aq) s (fun t => Finished s t q e 0 ∧
        (t.group c g).status = .discarded ∧ (t.group c g).stack = [] ∧ (t.cluster c).discarded = true ∧
        (∀ o ∈ (t.cluster c).press.ops, o.group = BitVec.ofNat 6 g → o.phase ≠ .queued)))) ∧
    (AdminReady s aq e 0x4D → a.status = .running → a.parking = none → Gives (.groupStop aq) s (fun t =>
      (∀ h, h ≠ g → t.group c h = s.group c h) ∧
      ((∀ x ∈ a.stack, x.out = none) → a.causes = [] → Finished s t q e 0 ∧ fld (t.group c g).park 255 248 = 0x0B ∧
        t.group c g = { a with status := .parked, park := (t.group c g).park }) ∧
      ((∃ x ∈ a.stack, x.out ≠ none) → (t.queue q).running = some e ∧
        t.group c g = { a with parking := some { cause := 0x0B, notify := false } }))))

/-- REGISTER_READ, REGISTER_WRITE and APERTURE_WRITE (R8, R331, R333): a register read sends the value of the register and clears its clear-on-read
fields; a one written to a write-one-to-clear bit clears it and nothing else of the register; a misaligned offset is rejected with Info 1.

The reads of status registers (R8, R31, R244, R261, R332, R396, R432): each answers the register as it was and clears its clear-on-read counts,
nothing else. -/
def Obligations.RegisterAccess : Prop :=
  (
  (∀ (aq : Bool) (s : State) (e : BitVec 512), let q := if aq then 1 else 0
    let off := fld e 479 456
    (AdminReady s aq e 0x4E → 0x60000 ≤ off → off % 8 = 0 → fld e 455 448 = 0 → bit e 383 = true → s.host.attach = 2 →
      Gives (.registerRead aq) s (fun t => Finished s t q e 0 ∧
        SentToHost s t (BitVec.ofNat 64 (fld e 447 384)) (leBytes 8 (s.apertureValue off).toNat))) ∧
    (AdminReady s aq e 0x4F → 0x88200 ≤ off → off < 0x88270 → off % 8 = 0 →
      let i := (off - 0x88200) / 8
      Gives (.registerWrite aq) s (fun t => Finished s t q e 0 ∧ (∀ j, j ≠ i → t.linkEnd j = s.linkEnd j) ∧
        ∀ b, (t.linkEnd i).status.getLsbD b = ((s.linkEnd i).status.getLsbD b && !(b == 0 && bit e 392)))) ∧
    (AdminReady s aq e 0x4E → off % 8 ≠ 0 → Gives (.registerRead aq) s (fun t => OnlyEntry s t q ∧ Finished s t q e 8 1)) ∧
    (AdminReady s aq e 0x4F → off % 8 ≠ 0 → Gives (.registerWrite aq) s (fun t => OnlyEntry s t q ∧ Finished s t q e 8 1))) ∧
  (∀ (n : BitVec 6) (off : BitVec 24) (v : Word) (s : State), off.toNat % 8 = 0 → 0x70000 ≤ off.toNat → off.toNat < 0x78000 →
    let x := (off.toNat - 0x70000) / 8
    Gives (.apertureWrite n off v) s (fun t => OnlyCtx s t x ∧ { t.ctx x with status := (s.ctx x).status } = s.ctx x ∧
      ∀ b, (t.ctx x).status.getLsbD b = ((s.ctx x).status.getLsbD b && !(b == 0 && v.getLsbD 0)))) ∧
  (∀ (n : BitVec 6) (off : BitVec 24) (v : Word) (s : State), off.toNat % 8 = 0 → 0x78000 ≤ off.toNat → off.toNat < 0x80000 →
    let x := (off.toNat - 0x78000) / 8
    Gives (.apertureWrite n off v) s (fun t => OnlyCtx s t x ∧ { t.ctx x with num := (s.ctx x).num } = s.ctx x ∧
      ∀ b, (t.ctx x).num.getLsbD b = ((s.ctx x).num.getLsbD b && !(decide (b < 5) && v.getLsbD b))))) ∧
  (
  ∀ s : State, let answers := fun (t : State) (v : Word) => t.sh = { s.sh with readData := leBytes 8 v.toNat }
    (∀ (l : BitVec 3) (e : Bool), l.toNat < 7 → let i := 2 * l.toNat + if e then 1 else 0
      Gives (.linkStatusRead l e) s (fun t => answers t (s.linkEnd i).status ∧ { t with links := s.links, sh := s.sh } = s ∧
        (∀ j, j ≠ i → t.linkEnd j = s.linkEnd j) ∧ t.linkEnd i = { s.linkEnd i with status := setF (s.linkEnd i).status 63 48 0 })) ∧
    (∀ ch : BitVec 8, Gives (.channelStatusRead ch) s (fun t => answers t (s.channel ch.toNat).status ∧
      { t with channels := s.channels, sh := s.sh } = s ∧ (∀ j, j ≠ ch.toNat → t.channel j = s.channel j) ∧
      t.channel ch.toNat = { s.channel ch.toNat with status := setF (s.channel ch.toNat).status 63 40 0 })) ∧
    (∀ x : BitVec 12, Gives (.quireCounterRead x) s (fun t => answers t (s.ctx x.toNat).counter ∧
      { t with ctxs := s.ctxs, sh := s.sh } = s ∧ (∀ j, j ≠ x.toNat → t.ctx j = s.ctx j) ∧
      t.ctx x.toNat = { s.ctx x.toNat with counter := 0 })) ∧
    (∀ x : BitVec 12, Gives (.contextStatusRead x) s (fun t => answers t (s.ctx x.toNat).status ∧
      { t with ctxs := s.ctxs, sh := s.sh } = s ∧ (∀ j, j ≠ x.toNat → t.ctx j = s.ctx j) ∧
      t.ctx x.toNat = { s.ctx x.toNat with status := setF (s.ctx x.toNat).status 63 48 0 })) ∧
    (∀ p : BitVec 4, p.toNat < 12 → Gives (.portStatusRead p) s (fun t => answers t (s.port p.toNat).status ∧
      { t with ports := s.ports, sh := s.sh } = s ∧ (∀ j, j ≠ p.toNat → t.port j = s.port j) ∧
      t.port p.toNat = { s.port p.toNat with status := setF (s.port p.toNat).status 63 48 0 })) ∧
    (∀ upper : Bool, Gives (.timedStatusRead upper) s (fun t =>
      answers t (BitVec.ofNat 64 (s.timed.toNat >>> if upper then 64 else 0)) ∧
      { t with timed := s.timed, sh := s.sh } = s ∧ t.timed = if upper then s.timed else setF s.timed 47 0 0)))

/-! ### Translation, windows and copy faults -/

/-- TRANSLATION_INVALIDATE and WINDOW_SET (R299, R307, R310, R351): with no access of the context outstanding, every look-aside entry of the context
that the command names goes; a valid encoding becomes the window's register, an invalid one is rejected with Info 1; window 0 is rejected with Info 3,
whatever the fields. -/
def Obligations.MappingCommands : Prop :=
  ∀ (aq : Bool) (s : State) (e : BitVec 512), let q := if aq then 1 else 0
    (AdminReady s aq e 0x47 → (∀ r ∈ s.sh.reqs, r.msg.ctx.toNat ≠ Ent.ctx e) → (∀ r ∈ s.fabric.winReqs, r.ctx.toNat ≠ Ent.ctx e) →
      (∀ w ∈ s.sh.walks, w.ctx.toNat ≠ Ent.ctx e) → (∀ w ∈ s.sh.walkQueue, w.2.1.toNat ≠ Ent.ctx e) → bit e 467 = true →
      Gives (.translationInvalidate aq) s (fun t => Finished s t q e 0 ∧
        (∀ c, ∀ x ∈ (t.cluster c).tlb, x.ctx.toNat ≠ Ent.ctx e) ∧ (∀ c, ∀ x ∈ (t.cluster c).xlat, x.2.ctx.toNat ≠ Ent.ctx e) ∧
          (∀ n, ∀ x ∈ (t.engine n).tlb, x.ctx.toNat ≠ Ent.ctx e) ∧
        (Tbl.wf {} s.clusters = true → ∀ c, (t.cluster c).tlb = (s.cluster c).tlb.filter (fun x => x.ctx.toNat != Ent.ctx e)) ∧
        (Tbl.wf {} s.engines = true → ∀ n, (t.engine n).tlb = (s.engine n).tlb.filter (fun x => x.ctx.toNat != Ent.ctx e)) ∧
        t.sh.winTlb = s.sh.winTlb.filter (fun x => x.ctx.toNat != Ent.ctx e) ∧
        t.sh.wcWest = s.sh.wcWest.filter (fun x => x.ctx.toNat != Ent.ctx e) ∧
        t.sh.wcEast = s.sh.wcEast.filter (fun x => x.ctx.toNat != Ent.ctx e) ∧
        t.sh.wcSpine = s.sh.wcSpine.filter (fun x => x.ctx.toNat != Ent.ctx e))) ∧
    (AdminReady s aq e 0x46 → let w : BitVec 128 := BitVec.ofNat 128 (fld e 467 340)
      let win := Ent.ctx e
      let valid := fld w 4 0 = 0 ∧ (Win.valid w = true → Win.src w ≠ 0) ∧ Win.base w % 4096 = 0
      (∀ a ∈ s.fabric.held, a.win.toNat ≠ win) →
      (win ≠ 0 → valid → Gives (.windowSet aq) s (fun t => Finished s t q e 0 ∧ tget 0 t.windows win = w ∧
        ∀ v, v ≠ win → tget 0 t.windows v = tget 0 s.windows v)) ∧
      (win ≠ 0 → ¬ valid → Gives (.windowSet aq) s (fun t => OnlyEntry s t q ∧ Finished s t q e 8 1)) ∧
      (win = 0 → Gives (.windowSet aq) s (fun t => OnlyEntry s t q ∧ Finished s t q e 8 3)))

/-! ### The Quire -/

/-- RDSEC, WRFULL, WRMASK, ATOMIC, REDINT, REDORD and DEAD at a home that holds the sector (R179, R218, R221, R231-R234, R241): each is performed in
one step and answered under its own tag; a read returns the sector, a write or reduction replaces it whole or by the mask, a dead line leaves without
being written back. -/
def Obligations.RequestsAtHome : Prop :=
  ∀ (m : MemMsg) (s : State) (w : Nat) (l : QLine), AtHome s m w l →
    let pa := m.pa.toNat
    let h := homeOf pa
    let old := s.homeData pa
    (m.vc = 0 → m.op = 1 → Gives (.rdSec m false) s (fun t =>
      OnlyQuire s t ∧ Answered s t m (replyTo m 1 1 (data := old)) ∧ HomeWritten s t pa old)) ∧
    (m.vc = 0 → m.op = 2 → Gives (.wrFull m false) s (fun t =>
      OnlyQuire s t ∧ Answered s t m (replyTo m 1 2) ∧ HomeWritten s t pa m.data)) ∧
    (m.vc = 0 → m.op = 3 → Gives (.wrMask m false) s (fun t =>
      OnlyQuire s t ∧ Answered s t m (replyTo m 1 2) ∧ HomeWritten s t pa (mergeSector old m.data m.ctl))) ∧
    (m.vc = 0 → m.op = 4 → fld m.attr 11 7 < 0x10 → let n := if bit m.attr 6 then 8 else 4
      let was := sectorNum old pa n
      let v := amoNew (fld m.attr 11 7) n was (fld m.ctl 63 0 % 2 ^ (8 * n)) (fld m.ctl 127 64 % 2 ^ (8 * n))
      Gives (.atomic m false) s (fun t => OnlyQuire s t ∧ Answered s t m (replyTo m 1 3 (ctl := BitVec.ofNat 128 was)) ∧
        HomeWritten s t pa (mergeSector old (numSector pa n v) (byteMask pa n)))) ∧
    (m.vc = 3 → m.op = 2 → redIntOk (Red.fmt m) (Red.rop m) (Red.redId m) (Red.ordinal m) (Red.count m) = true →
      Gives (.redInt m false) s (fun t => OnlyQuire s t ∧ Answered s t m (replyTo m 3 3) ∧
        HomeWritten s t pa (redInt (Red.fmt m) (Red.rop m) old m.data))) ∧
    (∀ d, m.vc = 3 → m.op = 1 → redOrdOk (Red.fmt m) (Red.rop m) (Red.ordinal m) (Red.count m) = true → (s.half h).reds = [] →
      (s.half h).staged = [] → Red.ordinal m = 0 → redFold (Red.fmt m) (Red.rop m) old m.data = some d →
      Gives (.redOrd m false) s (fun t => OnlyQuire s t ∧ Answered s t m (replyTo m 3 3) ∧ HomeWritten s t pa d ∧
        (t.half h).reds = if Red.count m = 1 then []
          else [{ pa := BitVec.ofNat 48 (sectorBase pa), ctx := m.ctx, redId := BitVec.ofNat 32 (Red.redId m),
                  count := BitVec.ofNat 24 (Red.count m), next := 1 }])) ∧
    (m.vc = 0 → m.op = 5 → (s.half h).lineHeld (lineOf pa) = [] → l.busy = false → l.lock = false → l.lost = 0 →
      Gives (.dead m) s (fun t => OnlyQuire s t ∧ Answered s t m (replyTo m 1 2) ∧ (t.half h).way (quireSet pa) w = {} ∧
        (BitVec.ofNat 37 (lineOf pa), m.ctx) ∈ (t.half h).filter))

/-- Where a read is not performed at once (R215, R218, R219, R225, R238, R256): a sector that is not held waits for the fetch of its line, critical
sector first; a reserved hint or an absent address is answered Err 0x004, unassigned scratchpad Err 0x002, and a sector with an open reduction Retry.

INVALID_MESSAGE (R225): a message whose opcode is not listed is dropped and recorded; a request is answered Err 0x004.

DATA, DONE, ATOMRES, ERR, RETRY, REDDONE and MAINTDONE at the source of the request (R207, R217, R224-R226, R232, R234, R238, R243, R280): each
but Retry frees the tag, and what the request was for goes on with the answer.

QUIRE_RETRY_RESEND and REDORD_RESEND (R235, R238): a refused request goes out again under its tag and is no longer marked; one that was not
refused does not. -/
def Obligations.WaitingFailingAndAnsweredRequests : Prop :=
  (
  ∀ (m : MemMsg) (s : State), m.vc = 0 → m.op = 1 →
    let pa := m.pa.toNat
    let h := homeOf pa
    let ch := (s.placeOf pa).1
    s.inTurn m = true → QuietHalf s h →
    (∀ w l, m.hint = 0 ∨ m.hint = 1 → isScratch pa = false → pa < s.capacity → (s.half h).lineAt pa = some (w, l) →
      ((s.half h).dirOf pa).dstate = 0 → s.trackerOpen pa = false → l.evicting = false → l.filling = 0 →
      l.valid.getLsbD (sectorOf pa) = false → l.lost.getLsbD (sectorOf pa) = false → (s.channel ch).fetches.length < 64 →
      let sectors := (l.absent (sectorOf pa)).map (fun i => BitVec.ofNat 48 (lineOf pa * 2048 + i * 128))
      let f : Fetch := { sectors := sectors, src := m.src, ctx := m.ctx, issued := false }
      Gives (.rdSec m false) s (fun t => OnlyQuire s t ∧ (t.half h).wait = [m] ∧ t.sh.inflight = s.sh.inflight.erase (.mem m) ∧
        (t.channel ch).fetches = (s.channel ch).fetches ++ [f])) ∧
    (m.hint = 3 ∨ (isScratch pa = false ∧ s.capacity ≤ pa) →
      Gives (.rdSec m false) s (fun t => OnlyQuire s t ∧ Answered s t m (replyTo m 1 4 4))) ∧
    (m.hint ≠ 3 → isScratch pa = true → (s.half h).scratchWays * 2 ^ 25 ≤ pa % 0x10000000 →
      Gives (.rdSec m false) s (fun t => OnlyQuire s t ∧ Answered s t m (replyTo m 1 4 2))) ∧
    (m.hint ≠ 3 → isScratch pa = false → pa < s.capacity → s.trackerOpen pa = true →
      Gives (.rdSec m false) s (fun t => OnlyQuire s t ∧ Answered s t m (replyTo m 1 5)))) ∧
  (
  ∀ (l : BitVec 3) (m : MemMsg) (s : State), listedOp m.vc.toNat m.op.toNat = false →
    Gives (.invalidMessage l m) s (fun t =>
      (9 ≤ s.coldStep.toNat → t.events.next = s.events.next + 1) ∧
      t.sh.inflight = s.sh.inflight.erase (.mem m) ++ (if m.vc = 0 ∨ m.vc = 3 then [.mem (replyTo m 1 4 4)] else []))) ∧
  (
  ∀ (m : MemMsg) (s : State),
    let src := m.src.toNat
    (∀ r l, m.vc = 1 → m.op = 1 → Answers s m r → r.why = .fill → (∀ g, ∀ e ∈ (s.group src g).stack, e.out = none) →
      (s.cluster src).cline r.msg.pa.toNat = some l →
      let i := sectorOf r.msg.pa.toNat
      let d := mergeSector m.data (tget 0 l.data i) (tget 0 l.dirty i)
      let l2 : CLine := { l with filling := setB l.filling i false, valid := setB l.valid i true, data := tput 0 l.data i d }
      Gives (.data ⟨m, false⟩) s (fun t => TagFreed s t m ∧ (t.cluster src).cline r.msg.pa.toNat = some l2)) ∧
    (∀ n r bad, m.vc = 1 → m.op = 1 → s.coreReqOf m = some (n, r) → r.grant = none →
      Gives (.data ⟨m, bad⟩) s (fun t => { t with cores := s.cores, sh := s.sh } = s ∧ (∀ j, j ≠ n → t.core j = s.core j) ∧
        t.core n = { s.core n with reqs := (s.core n).reqs.map (fun x => if x.tag = m.tag then { x with data := some m.data, bad := bad } else x) })) ∧
    (∀ r, m.vc = 1 → m.op = 2 → Answers s m r → r.why = .writeBack → Gives (.done m) s (fun t => { t with sh := s.sh } = s ∧ TagFreed s t m)) ∧
    (∀ r, m.vc = 1 → m.op = 2 → Answers s m r → r.why = .coreAccess →
      Gives (.done m) s (fun t => TagFreed s t m ∧ (t.core (src - 0x100)).unc =
        (s.core (src - 0x100)).unc.map (fun u => if u.answer = none then { u with answer := some (0, 0) } else u))) ∧
    (∀ r g lane k e a, m.vc = 1 → m.op = 3 → Answers s m r → r.why = .laneAtomic g lane → (s.cluster src).kernel = some k →
      (s.group src g.toNat).stack = [e] → e.out = some a → a.kind = .atomic → (∃ x, a.wait.filter (fun w => w.1 == lane) = [x]) →
      (∃ w ∈ a.wait, w.1 ≠ lane) →
      Gives (.atomRes m) s (fun t => TagFreed s t m ∧ (t.group src g.toNat).x = (s.group src g.toNat).x ∧ (t.group src g.toNat).stack =
        [{ e with out := some { a with wait := a.wait.filter (fun w => !(w.1 == lane)),
                                       vals := tins a.vals lane.toNat (BitVec.ofNat 64 (fld m.ctl 63 0)) } }])) ∧
    (∀ n r, m.vc = 1 → m.op = 4 → s.coreReqOf m = some (n, r) →
      Gives (.err m) s (fun t => { t with cores := s.cores, sh := s.sh } = s ∧ (∀ j, j ≠ n → t.core j = s.core j) ∧
        t.core n = { s.core n with reqs := (s.core n).reqs.filter (fun x => x.tag != r.tag), failed := (s.core n).failed ++ [r.pa] })) ∧
    (∀ r k, m.vc = 1 → m.op = 4 → Answers s m r → r.why = .copyWrite k → m.attr = 1 →
      (s.engine (src - 0x200)).halt ≠ some endsByReset →
      Gives (.err m) s (fun t => TagFreed s t m ∧
        t.engine (src - 0x200) = { s.engine (src - 0x200) with ends := some 3, held := [] })) ∧
    (∀ r, m.vc = 1 → m.op = 5 → Answers s m r →
      Gives (.retry m) s (fun t => { t with sh := s.sh } = s ∧ t.sh.reqs = s.sh.reqs.map (fun x => if x = r then { x with again := true } else x))) ∧
    (∀ r k q, m.vc = 3 → m.op = 3 → Answers s m r → r.why = .copyWrite k →
      let e := s.engine (src - 0x200)
      e.queue = some q → e.halt ≠ some endsByReset → Ent.length e.entry ≤ (e.done + BitVec.ofNat 40 k).toNat →
      Gives (.redDone m) s (fun t => TagFreed s t m ∧ t.engine (src - 0x200) = { e with held := [], done := e.done + BitVec.ofNat 40 k })) ∧
    (m.vc = 1 → m.op = 6 → 0xFFE ≤ src → s.sh.maintGot = [] →
      Gives (.maintDone m) s (fun t => { t with sh := s.sh } = s ∧ t.sh.maintGot = [(m.src, BitVec.ofNat 32 (fld m.ctl 31 0))])) ∧
    (∀ n e, m.vc = 1 → m.op = 6 → 0xFFE ≤ src → s.sh.maintGot = [(m.src, n)] → (s.queue (src - 0xFFE)).running = some e →
      Gives (.maintDone m) s (fun t => t.sh.maintGot = [] ∧
        Finished s t (src - 0xFFE) e 0 (n + BitVec.ofNat 32 (fld m.ctl 31 0)).toNat))) ∧
  (
  ∀ (src : BitVec 12) (tag : BitVec 16) (s : State) (r : Req), (s.sh.reqs.filter (fun x => x.again)) = [r] → r.msg.src = src → r.msg.tag = tag →
    let sent := fun (t : State) => OnlyQuire s t ∧ t.sh.inflight = s.sh.inflight ++ [.mem r.msg] ∧
      t.sh.reqs = s.sh.reqs.map (fun x => if x = r then { x with again := false } else x)
    (isRedOrd r.msg = false → Gives (.quireRetryResend src tag) s sent ∧ Gives (.redordResend src tag) s (fun t => t = s)) ∧
    (isRedOrd r.msg = true → Gives (.redordResend src tag) s sent ∧ Gives (.quireRetryResend src tag) s (fun t => t = s)))

/-- SECTOR_ARRIVAL, WRITE_AROUND_DRAIN, STORE_TRACKER_EXPIRY and REDUCTION_STALL (R218, R220, R222, R223, R239, R249): a fetched sector without errors
becomes valid with the bytes of the dies, one that cannot be corrected is recorded and stays invalid; the oldest buffered sector goes to its channel;
a source's oldest tracker is freed; a stalled reduction ends with Err 0x005 for what is staged and its context in error with cause 5. -/
def Obligations.QuireEvents : Prop :=
  (∀ (ch : BitVec 8) (pa : BitVec 48) (errs : List SymErr) (s : State) (f : Fetch) (rest : List Fetch) (more : List (BitVec 48)) (w : Nat) (l : QLine),
    let p := pa.toNat
    let h := homeOf p
    (s.channel ch.toNat).fetches = f :: rest → f.issued = true → f.sectors = pa :: more → QuietHalf s h → isScratch p = false →
    (s.half h).lineAt p = some (w, l) → l.valid.getLsbD (sectorOf p) = false → (∀ e ∈ (s.half h).around, e.1 ≠ pa) →
    (∀ e ∈ (s.channel ch.toNat).writes, e.1 ≠ pa) → tget [] (s.channel ch.toNat).dieErrs (p / 128) = [] →
    (errs = [] → l.filling.getLsbD (sectorOf p) = true → Gives (.sectorArrival ch pa errs) s (fun t => OnlyQuire s t ∧
      (t.channel ch.toNat).fetches = (if more = [] then rest else { f with sectors := more } :: rest) ∧
      t.homeData p = ofSectorBytes (readBytes s.mem p 128) ∧
      ∃ l2, (t.half h).lineAt p = some (w, l2) ∧ l2.valid.getLsbD (sectorOf p) = true ∧ l2.filling.getLsbD (sectorOf p) = false)) ∧
    (errsUncorrectable errs = true → p < s.reservedBase → Gives (.sectorArrival ch pa errs) s (fun t => bit (t.channel ch.toNat).status 0 = true ∧
      (9 ≤ s.coldStep.toNat → t.events.next = s.events.next + 1) ∧
      tget [] (t.channel ch.toNat).dieErrs (p / 128) = errs ∧ ((t.half h).way (quireSet p) w).valid.getLsbD (sectorOf p) = false))) ∧
  (∀ (h : Bool) (s : State) (p : BitVec 48) (d : Sector) (rest : List (BitVec 48 × Sector)), (s.half h).around = (p, d) :: rest → QuietHalf s h →
    let ch := (s.placeOf p.toNat).1
    (∀ e ∈ rest, e.1 ≠ p) → (∀ e ∈ (s.channel ch).writes, e.1 ≠ p) → (s.channel ch).writes.length < 128 →
    Gives (.writeAroundDrain h) s (fun t => OnlyQuire s t ∧ (t.half h).around = rest ∧ (t.channel ch).writes = (s.channel ch).writes ++ [(p, d)])) ∧
  (∀ (h : Bool) (src : BitVec 12) (s : State) (a b : List SeqTracker) (x : SeqTracker), (s.half h).seqs = a ++ x :: b → x.src = src →
    (∀ y ∈ b, y.src ≠ src) → Gives (.storeTrackerExpiry h src) s (fun t => OnlyHalf s t h ∧ t.half h = { s.half h with seqs := a ++ b })) ∧
  (∀ (h : Bool) (pa : BitVec 48) (s : State) (x : RedTracker), (s.half h).reds = [x] → x.pa.toNat = sectorBase pa.toNat → QuietHalf s h →
    (s.ctx x.ctx.toNat).resetting = false →
    Gives (.reductionStall h pa) s (fun t => InError s t x.ctx.toNat 5 ∧ (t.half h).reds = [] ∧
      ∀ m ∈ (s.half h).staged, sectorBase m.pa.toNat = sectorBase pa.toNat → Msg.mem (replyTo m 1 4 5) ∈ t.sh.inflight))

/-- QUIRE_PARTITION and SCRATCH_WAYS_CHANGE_DONE (R213, R214): a listed value becomes the partition of the half, Busy while ways change hands; the
scratchpad that stays keeps its content and what is added reads zero; an unlisted value is rejected; with no line left in a scratchpad way Busy
clears.

QUIRE_PRELOAD, QUIRE_PRELOAD_AND_LOCK, QUIRE_UNLOCK, QUIRE_WRITE_BACK and QUIRE_WRITE_BACK_INVALIDATE of one held line, as a message (R216, R217):
the line is aged by the hint, locked within the limits, unlocked, cleaned, or cleaned and dropped; both halves report the lines they have processed.
One with the reserved hint is answered Err 0x004 (R10, R224). -/
def Obligations.PartitionAndMaintenance : Prop :=
  (
  (∀ (aq : Bool) (s : State) (e : BitVec 512), let q := if aq then 1 else 0
    let h := bit e 479
    let n := fld e 426 423
    let lock := fld e 417 415
    AdminReady s aq e 0x49 → QuietHalf s h →
    (n ≤ 8 → lock ≤ 4 → Gives (.quirePartition (.admin aq)) s (fun t => Finished s t q e 0 ∧
      (t.half h).scratchWays = n ∧ (t.half h).lockMax = lock ∧ bit (t.half h).part 16 = (bit (s.half h).part 16 || n != (s.half h).scratchWays))) ∧
    (8 < n ∨ 4 < lock → Gives (.quirePartition (.admin aq)) s (fun t => OnlyEntry s t q ∧ Finished s t q e 8 1))) ∧
  (∀ (n : BitVec 6) (h : Bool) (v : Word) (s : State), (s.core n.toNat).mode ≠ 0 → (s.core n.toNat).virt = false → fld v 11 8 ≤ 8 → fld v 2 0 ≤ 4 →
    QuietHalf s h → (∀ p ∈ (s.half h).lines, p.2.present = false) →
    Gives (.quirePartition (.core n h v)) s (fun t => OnlyQuire s t ∧ (t.half h).scratchWays = fld v 11 8 ∧ (t.half h).lockMax = fld v 2 0 ∧
      ∀ o, tget 0 (t.half h).scratch o = if o < fld v 11 8 * 2 ^ 18 then tget 0 (s.half h).scratch o else 0)) ∧
  (∀ (h : Bool) (s : State), (∀ p ∈ (s.half h).lines, p.2.present = true → p.1 % 16 < (s.half h).ways) →
    Gives (.scratchWaysChangeDone h) s (fun t => OnlyHalf s t h ∧ t.half h = { s.half h with part := setB (s.half h).part 16 false }))) ∧
  (
  ∀ (m : MemMsg) (s : State) (w : Nat) (l : QLine), m.vc = 0 → m.op = 6 →
    let pa := fld m.ctl 47 0
    let h := homeOf pa
    let set := quireSet pa
    let op := fld m.ctl 127 124
    let reply := fun (lines : Nat) => ({ vc := 1, op := 6, src := m.src, tag := m.tag, ctl := BitVec.ofNat 128 (lines * 2 ^ 32) } : MemMsg)
    let ends := fun (t : State) => OnlyQuire s t ∧
      t.sh.inflight = s.sh.inflight.erase (.mem m) ++ [.mem (reply (if h then 0 else 1)), .mem (reply (if h then 1 else 0))]
    (m.hint = 3 → ∀ row ∈ [Instr.quirePreload (.message m), .quirePreloadAndLock (.message m), .quireUnlock (.message m),
        .quireWriteBack (.message m), .quireWriteBackInvalidate (.message m)],
      Gives row s (fun t => OnlyQuire s t ∧ Answered s t m (replyTo m 1 4 4))) ∧ (
    m.hint ≠ 3 → l.weak &&& l.dirty = 0 → s.maintOk m.ctl = true → fld m.ctl 95 64 = 1 → s.sh.maint = [] → (s.half h).lineAt pa = some (w, l) → l.evicting = false →
    (∀ g, ∀ p ∈ (s.half g).lines, p.2.filling = 0) → (s.half h).trans = [] → (s.half h).lineHeld (lineOf pa) = [] → s.roomBelow l = true →
    (op = 1 → l.absent 0 = [] → Gives (.quirePreload (.message m)) s (fun t => ends t ∧
      (t.half h).way set w = { l with age := hitAge (fld m.ctl 123 122) l.age })) ∧
    (op = 2 → l.absent 0 = [] → (∀ v, v < 16 → v ≠ w → ((s.half h).way set v).lock = false ∧ ((s.half h).way set v).lost = 0) →
      1 ≤ (s.half h).lockMax →
      Gives (.quirePreloadAndLock (.message m)) s (fun t => ends t ∧ (t.half h).way set w = { l with age := hitAge 1 l.age, lock := true })) ∧
    (op = 3 → Gives (.quireUnlock (.message m)) s (fun t => ends t ∧ (t.half h).way set w = { l with lock := false, age := 2 })) ∧
    (op = 4 → Gives (.quireWriteBack (.message m)) s (fun t => ends t ∧ (t.half h).way set w = { l with dirty := 0 })) ∧
    (op = 5 → l.busy = false → l.lost = 0 → Gives (.quireWriteBackInvalidate (.message m)) s (fun t => ends t ∧ (t.half h).way set w = {}))))

/-! ### Channels -/

/-- One wrong symbol in a codeword, at any position and with any value, is found and corrected (R247, R248). -/
def Obligations.CodeCorrectsOneSymbol : Prop :=
  ∀ (cw : BitVec 2) (pos : BitVec 7) (v : BitVec 4), pos.toNat < 72 → v ≠ 0 →
    checkErrors [{ cw := cw, pos := pos, val := v }] = .corrected pos.toNat v

/-- CHANNEL_FETCH, CHANNEL_WRITE, REFRESH, PATROL_SCRUB and SYMBOL_THRESHOLD (R249, R251, R252, R260, R262-R264, R266): the fetch whose turn it is,
one that may issue, goes to its die and leaves its row open; the oldest sector of the write queue becomes the bytes of memory, and no other byte
changes; refresh commands are postponed while fetches wait, made up later, and close the bank's row; the scrubber goes on line by line when no fetch
may issue; a position with 1,024 corrections in an hour is flagged and recorded.

CHANNEL_TRAINING_DONE and CHANNEL_FAILED_OUTSIDE_COLD_START (R253-R258): training with no marked lane brings the channel into service, one marked
lane is steered onto the first spare; a failed phase, or a failure before the cold start, maps the channel out at cold start, and its mirror with it,
once the mirror's own training is done; outside cold start the channel fails and the module takes no new work. -/
def Obligations.ChannelWorkAndTraining : Prop :=
  (
  ∀ (ch : BitVec 8) (s : State), let c := ch.toNat
    let k := s.channel c
    chState k = 2 → s.tooHot (c / 16) = false →
    ((s.nextFetch c).isSome = k.fetches.any (s.mayIssue c)) ∧
    (∀ f, k.drainMode = false → s.nextFetch c = some f →
      f ∈ k.fetches ∧ s.mayIssue c f = true ∧
      Gives (.channelFetch ch) s (fun t => OnlyChannel s t c ∧ (t.channel c).writes = k.writes ∧
        (t.channel c).fetches = k.fetches.map (fun g => if g = f then { g with issued := true } else g) ∧
        tget none (t.channel c).rows (s.fetchPlace f).bank = some (s.fetchPlace f).row)) ∧
    (∀ p d rest, k.writes = (p, d) :: rest → QuietHalf s (homeOf p.toNat) →
      Gives (.channelWrite ch) s (fun t => (t.channel c).writes = rest ∧ readBytes t.mem p.toNat 128 = sectorBytes d ∧
        (∀ a, a < p.toNat ∨ p.toNat + 128 ≤ a → tget 0 t.mem a = tget 0 s.mem a) ∧ tget [] (t.channel c).dieErrs (p.toNat / 128) = [] ∧
        (∀ j, j ≠ c → t.channel j = s.channel j) ∧ { t with channels := s.channels, mem := s.mem, west := s.west, east := s.east, sh := s.sh } = s)) ∧
    (∀ b : BitVec 5, let n : Int := tget 0 k.owed b.toNat
      let waits := ∃ f ∈ k.fetches, f.issued = false ∧ ∃ p ∈ f.sectors, s.dieBank p.toNat = b.toNat
      let busy := ∃ f ∈ k.fetches, ∃ p ∈ f.sectors, s.dieBank p.toNat = b.toNat
      s.timedOn = false →
      Gives (.refresh ch b .issue) s (fun t => OnlyChannel s t c ∧ t.channel c = { k with rows := tput none k.rows b.toNat none }) ∧
      (waits → n < 8 → Gives (.refresh ch b .postpone) s (fun t => OnlyChannel s t c ∧ tget 0 (t.channel c).owed b.toNat = n + 1)) ∧
      (0 < n ∨ (¬busy ∧ -8 < n) → Gives (.refresh ch b .pullIn) s (fun t => OnlyChannel s t c ∧ tget 0 (t.channel c).owed b.toNat = n - 1))) ∧
    (k.dieErrs = [] → s.scrubTurn c = true → Gives (.patrolScrub ch []) s (fun t => OnlyChannel s t c ∧
      t.channel c = { k with scrub := k.scrub + 1 })) ∧
    (∀ pos : BitVec 7, let ts := tget [] k.corr pos.toNat
      pos ∉ k.flagged → 1024 ≤ ts.length → (ts.headD 0).toNat - (ts.getD 1023 0).toNat ≤ 3600000000000 →
      Gives (.symbolThreshold ch pos) s (fun t => (t.channel c).flagged = k.flagged ++ [pos] ∧ bit (t.channel c).status 0 = true ∧
        (9 ≤ s.coldStep.toNat → t.events.next = s.events.next + 1)))) ∧
  (
  ∀ (ch : BitVec 8) (s : State), let c := ch.toNat
    let mirror := c ^^^ 0x80
    let k := s.channel c
    (chState k = 1 → s.starting = true → k.failed = true → Gives (.channelTrainingDone ch { phaseFail := false, marked := [] }) s (fun t =>
      chState (t.channel c) = 4 ∧ (t.channel c).failed = false)) ∧
    (chState k = 1 → s.starting = true → k.failed = false → k.flagged = [] → k.factory = [] → chState (s.channel mirror) = 4 →
      Gives (.channelTrainingDone ch { phaseFail := false, marked := [] }) s (fun t => OnlyChannel s t c ∧ chState (t.channel c) = 5)) ∧
    (chState k = 1 → s.starting = true → k.failed = false → chState (s.channel mirror) ≠ 4 → k.flagged = [] → k.factory = [] →
      Gives (.channelTrainingDone ch { phaseFail := false, marked := [] }) s (fun t => OnlyChannel s t c ∧ chState (t.channel c) = 2 ∧
        bit (t.channel c).status 19 = false ∧ bit (t.channel c).status 27 = false) ∧
      (∀ p : BitVec 7, Gives (.channelTrainingDone ch { phaseFail := false, marked := [p] }) s (fun t => chState (t.channel c) = 2 ∧
        bit (t.channel c).status 19 = true ∧ fld (t.channel c).status 18 12 = p.toNat ∧ bit (t.channel c).status 27 = false)) ∧
      Gives (.channelTrainingDone ch { phaseFail := true, marked := [] }) s (fun t => chState (t.channel c) = 4 ∧
        (chState (s.channel mirror) = 2 → chState (t.channel mirror) = 5))) ∧
    (chState k = 1 → s.starting = false → Gives (.channelTrainingDone ch { phaseFail := true, marked := [] }) s (fun t =>
      chState (t.channel c) = 6 ∧ t.refuseWork = true)) ∧
    (s.starting = false → s.coldStep ≠ 0 → chState k < 4 → Gives (.channelFailedOutsideColdStart ch) s (fun t =>
      chState (t.channel c) = 6 ∧ t.refuseWork = true)))

/-! ### Zawick cores and their directory -/

/-- RDSHARED, RDUNIQUE and UPGRADE at the home (R273, R276, R280), in the order their core has sent them: a sector that no core holds is granted with
the Quire's data, S, E or M as asked; a sharer's upgrade is granted without data where no other core shares it; a sector that another core owns is
snooped for and waits; what the home may not accept is answered Retry.

COMPACK, EVICTCLEAN and WBFULL at the home (R276, R278, R279): the acknowledgement of a grant enters the core in the directory and closes the
transaction; an eviction takes it out; a write-back by the owner enters its data in the Quire and takes it out unless Keep is set, one by any other
core is discarded; each write-back is acknowledged. -/
def Obligations.DirectoryRequests : Prop :=
  (
  ∀ (m : CohMsg) (s : State), let pa := m.pa.toNat
    let h := homeOf pa
    let k := s.half h
    let e := k.dirOf pa
    let ask := fun (op : BitVec 8) => if op = 1 then Instr.rdShared m else if op = 2 then Instr.rdUnique m else Instr.upgrade m
    let grant := fun (attr : BitVec 8) => ({ op := 0x18, src := homeSrc h, tag := m.tag, core := m.core, dst := m.core, pa := m.pa,
                                             attr := attr } : CohMsg)
    let trans := fun (snooped : List (BitVec 6)) (own : Bool) (st : Option (BitVec 2)) =>
      ({ pa := m.pa, what := .core m, waitFor := snooped, snooped := snooped, ownerSends := own, granted := st } : Transaction)
    m.op = 1 ∨ m.op = 2 ∨ m.op = 3 → s.cohInTurn m = true → pa < s.capacity → k.trans = [] →
    (s.admits m = true →
      (∀ w l, e.dstate = 0 → isScratch pa = false → k.lineAt pa = some (w, l) → l.valid.getLsbD (sectorOf pa) = true →
        l.lost.getLsbD (sectorOf pa) = false → l.weak.getLsbD (sectorOf pa) = false →
        let st : BitVec 2 := if m.op = 1 then (if bit m.attr 0 then 1 else 2) else 3
        Gives (ask m.op) s (fun t => OnlyQuire s t ∧ (t.half h).trans = [trans [] false (some st)] ∧
          t.sh.inflight = s.sh.inflight.erase (.coh m) ++
            [.mem { toCore m with data := tget 0 l.data (sectorOf pa) }, .coh (grant (BitVec.ofNat 8 (4 + st.toNat)))])) ∧
      (m.op = 3 → e.dstate = 1 → e.sharers = 1#64 <<< m.core.toNat →
        Gives (ask m.op) s (fun t => OnlyQuire s t ∧ (t.half h).trans = [trans [] false (some 3)] ∧
          t.sh.inflight = s.sh.inflight.erase (.coh m) ++ [.coh (grant 3)])) ∧
      (e.dstate = 2 → m.op = 1 ∨ m.op = 2 →
        Gives (ask m.op) s (fun t => OnlyQuire s t ∧ (t.half h).trans = [trans [e.owner] true none] ∧
          t.sh.inflight = s.sh.inflight.erase (.coh m) ++ [.coh { op := if m.op = 1 then 0x10 else 0x11, src := homeSrc h, tag := m.tag,
                                                                  core := m.core, dst := e.owner, pa := m.pa }]))) ∧
    (s.admits m = false → Gives (ask m.op) s (fun t => OnlyQuire s t ∧ (t.half h).trans = [] ∧
      t.sh.inflight = s.sh.inflight.erase (.coh m) ++ [.mem { toCore m with op := 5 }]))) ∧
  (
  ∀ (m : CohMsg) (s : State), let pa := m.pa.toNat
    let h := homeOf pa
    let n := m.src.toNat % 64
    let e := (s.half h).dirOf pa
    let ack : CohMsg := { op := 0x19, src := homeSrc h, tag := m.tag, core := m.core, dst := BitVec.ofNat 6 n, pa := m.pa }
    IdleHalf s h → s.cohInTurn m = true →
    (∀ x r st, m.op = 6 → (s.half h).trans = [x] → x.pa.toNat = sectorBase pa → x.what = .core r → x.granted = some st → r.src = m.src →
      Gives (.compAck m) s (fun t => OnlyQuire s t ∧ (t.half h).trans = [] ∧ t.sh.inflight = s.sh.inflight.erase (.coh m) ∧
        (st = 1 → e.dstate = 0 → (t.half h).dirOf pa = { dstate := 1, sharers := 1#64 <<< n }) ∧
        (st = 1 → e.dstate = 1 → (t.half h).dirOf pa = { dstate := 1, sharers := e.sharers ||| (1#64 <<< n) }) ∧
        (st = 1 → e.dstate = 2 → (t.half h).dirOf pa = { dstate := 1, sharers := (1#64 <<< e.owner.toNat) ||| (1#64 <<< n) }) ∧
        (st ≠ 1 → (t.half h).dirOf pa = { dstate := 2, owner := BitVec.ofNat 6 n }))) ∧
    (m.op = 5 → (s.half h).trans = [] → Gives (.evictClean m) s (fun t => OnlyQuire s t ∧ t.sh.inflight = s.sh.inflight.erase (.coh m) ∧
      ((t.half h).dirOf pa).holders = e.holders.filter (fun c => c != n))) ∧
    (∀ w l, m.op = 4 → (s.half h).trans = [] → isScratch pa = false → (s.half h).lineAt pa = some (w, l) → bit m.attr 0 = false →
      e.dstate = 2 → e.owner.toNat = n →
      Gives (.wbFull m) s (fun t => OnlyQuire s t ∧ HomeWritten s t pa m.data ∧ t.sh.inflight = s.sh.inflight.erase (.coh m) ++ [.coh ack] ∧
        (t.half h).dirOf pa = if bit m.attr 1 then e else {})) ∧
    (m.op = 4 → (s.half h).trans = [] → e.dstate = 0 → bit m.attr 1 = true →
      Gives (.wbFull m) s (fun t => OnlyQuire s t ∧ t.homeData pa = s.homeData pa ∧
        t.sh.inflight = s.sh.inflight.erase (.coh m) ++ [.coh ack])))

/-- SNPACK and SNPDATA at the home (R272, R277, R282): the last answer to a recall empties the directory entry and ends the transaction, dirty data
entering the Quire; an answer that the owner held the sector completes a core's request with its grant.

SNPFWDS, SNPFWDU, SNPINV, SNPDOWN, SNPRECALL and SNPDROP at a core with a sound copy, or none, and no write-back of it on its way (R241, R277):
what goes to the requester and to the home, and the state that the copy is left in. That a SnpInv at a copy in M, a pair that R277 marks as not
arising, is answered as one at a copy in S is the model's choice (log 104). -/
def Obligations.SnoopsAndAnswers : Prop :=
  (
  ∀ (m : CohMsg) (s : State) (x : Transaction), let pa := m.pa.toNat
    let h := homeOf pa
    IdleHalf s h → s.cohInTurn m = true → (s.half h).trans = [x] → x.pa = m.pa → pa % 128 = 0 → x.waitFor = [BitVec.ofNat 6 m.src.toNat] →
      x.wbSlot = [] →
    (m.op = 0x20 → bit m.attr 2 = false → x.what = .recall → Gives (.snpAck m) s (fun t => OnlyQuire s t ∧ (t.half h).trans = [] ∧
      (t.half h).dirOf pa = {} ∧ t.sh.inflight = s.sh.inflight.erase (.coh m) ∧ t.homeData pa = s.homeData pa)) ∧
    (∀ w l, m.op = 0x21 → x.what = .recall → isScratch pa = false → (s.half h).lineAt pa = some (w, l) →
      Gives (.snpData m) s (fun t => OnlyQuire s t ∧ (t.half h).trans = [] ∧ (t.half h).dirOf pa = {} ∧ HomeWritten s t pa m.data)) ∧
    (∀ r, m.op = 0x20 → bit m.attr 1 = true → bit m.attr 2 = false → x.what = .core r → r.op = 2 → x.ownerSends = true →
      Gives (.snpAck m) s (fun t => OnlyQuire s t ∧ t.sh.inflight = s.sh.inflight.erase (.coh m) ++
        [.coh { op := 0x18, src := homeSrc h, tag := r.tag, core := r.core, dst := r.core, pa := m.pa, attr := 7 }]))) ∧
  (
  ∀ (m : CohMsg) (s : State), let n := m.dst.toNat
    let pa := m.pa.toNat
    let k := s.core n
    let l := k.sector pa
    let data : Msg := .mem { vc := 1, op := 1, src := BitVec.ofNat 12 (0x100 + m.core.toNat), tag := m.tag, pa := m.pa, data := l.data }
    let ack := fun (attr : BitVec 8) => Msg.coh { op := 0x20, src := BitVec.ofNat 12 (0x100 + n), tag := m.tag, core := m.core, pa := m.pa, attr := attr }
    let dirty : Msg := .coh { op := 0x21, src := BitVec.ofNat 12 (0x100 + n), tag := m.tag, core := m.core, pa := m.pa, data := l.data }
    let does := fun (i : Instr) (msgs : List Msg) (keep : Bool) => Gives i s (fun t => OnlyCoreAndMessages s t n ∧
      t.sh.inflight = s.sh.inflight.erase (.coh m) ++ msgs ∧ (t.core n).sector pa = (if keep then { l with st := .shared } else {}) ∧
      (∀ q, q / 128 ≠ pa / 128 → (t.core n).sector q = k.sector q) ∧
      (t.core n).res = if keep then k.res else if k.res.any (fun r => r.toNat / 128 == pa / 128) then none else k.res)
    (∀ w ∈ k.wb, w.pa ≠ m.pa) → l.bad = false →
    (l.st = .modified →
      (m.op = 0x10 → does (.snpFwdS m) [data, dirty] true) ∧ (m.op = 0x11 → does (.snpFwdU m) [data, ack 2] false) ∧
      (m.op = 0x12 → does (.snpInv m) [ack 2] false) ∧ (m.op = 0x13 → does (.snpDown m) [dirty] true) ∧
      (m.op = 0x14 → does (.snpRecall m) [dirty] false) ∧ (m.op = 0x15 → does (.snpDrop m) [ack 2] false)) ∧
    (l.st = .exclusive →
      (m.op = 0x10 → does (.snpFwdS m) [data, ack 2] true) ∧ (m.op = 0x11 → does (.snpFwdU m) [data, ack 2] false) ∧
      (m.op = 0x13 → does (.snpDown m) [ack 2] true) ∧ (m.op = 0x14 → does (.snpRecall m) [ack 2] false) ∧
      (m.op = 0x15 → does (.snpDrop m) [ack 2] false)) ∧
    (l.st = .shared → (m.op = 0x12 → does (.snpInv m) [ack 2] false) ∧ (m.op = 0x13 → does (.snpDown m) [ack 2] true) ∧
      (m.op = 0x14 → does (.snpRecall m) [ack 2] false) ∧ (m.op = 0x15 → does (.snpDrop m) [ack 2] false)) ∧
    (l.st = .invalid → ∀ p ∈ [(0x10#8, Instr.snpFwdS m), (0x11#8, .snpFwdU m), (0x12#8, .snpInv m), (0x13#8, .snpDown m), (0x14#8, .snpRecall m),
        (0x15#8, .snpDrop m)], m.op = p.1 → Gives p.2 s (fun t => OnlyCoreAndMessages s t n ∧ t.core n = k ∧
      t.sh.inflight = s.sh.inflight.erase (.coh m) ++ [ack 0])))

/-- GRANT, WBACK, COHERENT_RETRY_RESEND and STARVATION_RECORD_EXPIRY (R278-R281): with the grant and its data the sector is installed and CompAck goes
out; an acknowledged write-back leaves its buffer; a refused request goes out again under its raised age; an expired record is empty. -/
def Obligations.CoherenceAtTheCore : Prop :=
  (∀ (m : CohMsg) (s : State) (r : CoreReq), let n := m.dst.toNat
    m.op = 0x18 → (s.core n).reqs = [r] → r.tag = m.tag → bit m.attr 2 = false ∨ r.data.isSome = true →
    Gives (.grant m) s (fun t => OnlyCoreAndMessages s t n ∧ (t.core n).reqs = [] ∧
      (t.core n).sector r.pa.toNat = { st := if fld m.attr 1 0 = 1 then .shared else if fld m.attr 1 0 = 2 then .exclusive else .modified,
                                       data := r.data.getD ((s.core n).sector r.pa.toNat).data,
                                       bad := if r.data.isSome then r.bad else ((s.core n).sector r.pa.toNat).bad } ∧
      (t.core n).failed = (if r.bad then (s.core n).failed ++ [r.pa] else (s.core n).failed) ∧
      t.sh.inflight = s.sh.inflight.erase (.coh m) ++
        [.coh { op := 6, src := BitVec.ofNat 12 (0x100 + n), tag := r.tag, core := BitVec.ofNat 6 n, pa := r.pa }])) ∧
  (∀ (m : CohMsg) (s : State), let n := m.dst.toNat
    m.op = 0x19 → Gives (.wbAck m) s (fun t => OnlyCoreAndMessages s t n ∧ (∀ w ∈ (t.core n).wb, w.tag ≠ m.tag) ∧
      (∀ w ∈ (s.core n).wb, w.tag ≠ m.tag → w ∈ (t.core n).wb) ∧ (t.core n).l2 = (s.core n).l2)) ∧
  (∀ (n : BitVec 6) (tag : BitVec 16) (s : State) (r : CoreReq), (s.core n.toNat).reqs = [r] → r.tag = tag → r.again = true →
    Gives (.coherentRetryResend n tag) s (fun t => OnlyCoreAndMessages s t n.toNat ∧ (t.core n.toNat).reqs = [{ r with again := false }] ∧
      t.sh.inflight = s.sh.inflight ++ [.coh { op := r.op, src := BitVec.ofNat 12 (0x100 + n.toNat), tag := tag, core := n, age := r.age,
                                               attr := if r.noExcl then 1 else 0, pa := r.pa }])) ∧
  (∀ (h : Bool) (b : BitVec 6) (s : State), Gives (.starvationRecordExpiry h b) s (fun t => OnlyHalf s t h ∧
    tget none (t.half h).starved b.toNat = none ∧ ∀ c, c ≠ b.toNat → tget none (t.half h).starved c = tget none (s.half h).starved c))

/-- CORE_INSTRUCTION (R268-R270, R276): of the instructions a core in M-mode issues, the integer instructions write rd, branches and jumps go to their
target, a doubleword load or store whose sector the L2 holds reads or writes it there, a load whose sector it does not hold asks its home and changes
no register, and ECALL traps to M-mode. What the RISC-V instructions compute is followed from the RISC-V specifications, which R268 names (log 30).

CBO_CLEAN, CBO_FLUSH, CBO_INVAL and CBO_ZERO of a core in M-mode (R279, R285): a dirty block is written back, with Keep for a clean, and kept in E
by it; a flush or inval gives the block up, a clean one by EvictClean, once no request or write-back of it is outstanding (R278); a zero asks for a shared block by RdUnique, and writes one held uniquely with
zeros. -/
def Obligations.CoreAndCacheBlockInstructions : Prop :=
  (
  ∀ (n : BitVec 6) (s : State) (w : BitVec 32), CoreIssues s n.toNat w →
    let k := s.core n.toNat
    let a := k.getX (iRs1 w)
    let b := k.getX (iRs2 w)
    let keeps := fun (t : State) => OnlyCoreRun s t n.toNat ∧ (t.core n.toNat).f = k.f ∧ (t.core n.toNat).mode = k.mode
    let op := fld w 6 0
    (∀ v, op = 0x13 ∨ op = 0x33 ∨ op = 0x37 ∨ op = 0x17 ∨ op = 0x1B ∨ op = 0x3B → coreAlu w k.pc.toNat a b = some v →
      Gives (.coreInstruction n .none) s (fun t => keeps t ∧ CorePast s t n.toNat ∧ (t.core n.toNat).l2 = k.l2 ∧
        ∀ r, (t.core n.toNat).getX r = if r = iRd w ∧ r ≠ 0 then v else k.getX r)) ∧
    (op = 0x6F → Gives (.coreInstruction n .none) s (fun t => keeps t ∧ (t.core n.toNat).pc = k.pc + BitVec.ofInt 64 (iImmJ w) ∧
      ∀ r, (t.core n.toNat).getX r = if r = iRd w ∧ r ≠ 0 then k.pc + 4 else k.getX r)) ∧
    (op = 0x63 → iF3 w ≠ 2 → iF3 w ≠ 3 → Gives (.coreInstruction n .none) s (fun t => keeps t ∧ (t.core n.toNat).x = k.x ∧
      (t.core n.toNat).pc = if branchTaken (iF3 w) a b then k.pc + BitVec.ofInt 64 (iImmB w) else k.pc + 4)) ∧
    (op = 0x03 → iF3 w = 3 → let va := (a + BitVec.ofInt 64 (iImm w)).toNat
      va % 8 = 0 → va < s.capacity → k.pmpOk 3 va 8 .load = true →
      ((k.sector va).st ≠ .invalid → (k.sector va).bad = false → Gives (.coreInstruction n .none) s (fun t => keeps t ∧ CorePast s t n.toNat ∧
        ∀ r, (t.core n.toNat).getX r = if r = iRd w ∧ r ≠ 0 then BitVec.ofNat 64 (sectorNum (k.sector va).data va 8) else k.getX r)) ∧
      ((k.sector va).st = .invalid → k.reqs = [] → k.wb = [] → k.l2.length < 16 → s.roomFor (0x100 + n.toNat) 1 = true →
        Gives (.coreInstruction n .none) s (fun t => OnlyCoreAndMessages s { t with free := s.free } n.toNat ∧ (t.core n.toNat).pc = k.pc ∧
          (t.core n.toNat).x = k.x ∧
        ∃ m : CohMsg, t.sh.inflight = s.sh.inflight ++ [.coh m] ∧ m.op = 1 ∧ m.src = BitVec.ofNat 12 (0x100 + n.toNat) ∧
          m.pa.toNat = sectorBase va))) ∧
    (op = 0x23 → iF3 w = 3 → let va := (a + BitVec.ofInt 64 (iImmS w)).toNat
      va % 8 = 0 → va < s.capacity → k.pmpOk 3 va 8 .store = true → (k.sector va).st = .modified ∨ ((k.sector va).st = .exclusive ∧
        (k.sector va).bad = false ∧ ∀ e ∈ k.wb, e.pa ≠ BitVec.ofNat 48 (sectorBase va)) →
      Gives (.coreInstruction n .none) s (fun t => keeps t ∧ CorePast s t n.toNat ∧ (t.core n.toNat).x = k.x ∧
        ((t.core n.toNat).sector va).st = .modified ∧ sectorNum ((t.core n.toNat).sector va).data va 8 = b.toNat ∧
        ∀ q, q / 128 ≠ va / 128 → (t.core n.toNat).sector q = k.sector q)) ∧
    (w = 0x73#32 → Gives (.coreInstruction n .none) s (fun t => OnlyCoreRun s t n.toNat ∧ (t.core n.toNat).x = k.x ∧
      (t.core n.toNat).getCsr Csr.mepc = k.pc ∧ (t.core n.toNat).getCsr Csr.mcause = 11 ∧ (t.core n.toNat).mode = 3 ∧
      (t.core n.toNat).pc = BitVec.ofNat 64 ((k.getCsr Csr.mtvec).toNat / 4 * 4)))) ∧
  (
  ∀ (n : BitVec 6) (s : State) (w : BitVec 32), CoreIssues s n.toNat w →
    let k := s.core n.toNat
    let va := (k.getX (iRs1 w)).toNat
    let base := sectorBase va
    let l := k.sector base
    let wrote := fun (t : State) (attr : BitVec 8) (keep : Bool) => ∃ tag, t.sh.inflight = s.sh.inflight ++
        [.coh { op := 4, src := BitVec.ofNat 12 (0x100 + n.toNat), tag := tag, core := n, attr := attr, pa := BitVec.ofNat 48 base, data := l.data }] ∧
      (t.core n.toNat).wb = k.wb ++ [{ tag := tag, pa := BitVec.ofNat 48 base, data := l.data, keep := keep }]
    let past := fun (t : State) => OnlyCoreAndMessages s { t with free := s.free } n.toNat ∧ CorePast s t n.toNat ∧ (t.core n.toNat).x = k.x
    va < s.capacity → k.pmpOk 3 va 1 .load = true → k.pmpOk 3 va 1 .store = true → l.bad = false →
    let free := (∀ e ∈ k.wb, e.pa.toNat ≠ base) ∧ ∀ r ∈ k.reqs, r.pa.toNat ≠ base
    (l.st = .modified → k.wb.length < 16 → s.roomFor (0x100 + n.toNat) 1 = true → free →
      (cboOf w = some 1 → Gives (.cboClean n) s (fun t => past t ∧ wrote t 2 true ∧ (t.core n.toNat).sector base = { l with st := .exclusive })) ∧
      (cboOf w = some 2 → Gives (.cboFlush n) s (fun t => past t ∧ wrote t 0 false ∧ (t.core n.toNat).sector base = {})) ∧
      (cboOf w = some 0 → Gives (.cboInval n) s (fun t => past t ∧ wrote t 0 false ∧ (t.core n.toNat).sector base = {}))) ∧
    (l.st = .shared ∨ l.st = .exclusive → let evict : Msg := .coh { op := 5, src := BitVec.ofNat 12 (0x100 + n.toNat), tag := 0, core := n,
                                                                    pa := BitVec.ofNat 48 base }
      (cboOf w = some 1 → Gives (.cboClean n) s (fun t => past t ∧ t.sh.inflight = s.sh.inflight ∧ (t.core n.toNat).sector base = l)) ∧
      (free → cboOf w = some 2 → Gives (.cboFlush n) s (fun t => past t ∧ t.sh.inflight = s.sh.inflight ++ [evict] ∧
        (t.core n.toNat).sector base = {})) ∧
      (free → cboOf w = some 0 → Gives (.cboInval n) s (fun t => past t ∧ t.sh.inflight = s.sh.inflight ++ [evict] ∧
        (t.core n.toNat).sector base = {})) ∧
      (¬ free → cboOf w = some 2 ∨ cboOf w = some 0 → Gives (if cboOf w = some 2 then .cboFlush n else .cboInval n) s (fun t =>
        (t.core n.toNat).pc = k.pc ∧ t.sh.inflight = s.sh.inflight ∧ (t.core n.toNat).sector base = l))) ∧
    (l.st = .shared → cboOf w = some 4 → (∀ r ∈ k.reqs, r.pa ≠ BitVec.ofNat 48 base) → (∀ e ∈ k.wb, e.pa ≠ BitVec.ofNat 48 base) →
      s.roomFor (0x100 + n.toNat) 1 = true → Gives (.cboZero n) s (fun t => (t.core n.toNat).pc = k.pc ∧
        ∃ m : CohMsg, t.sh.inflight = s.sh.inflight ++ [.coh m] ∧ m.op = 2 ∧ m.pa = BitVec.ofNat 48 base)) ∧
    (l.st = .modified ∨ (l.st = .exclusive ∧ ∀ e ∈ k.wb, e.pa ≠ BitVec.ofNat 48 base) → cboOf w = some 4 →
      Gives (.cboZero n) s (fun t => past t ∧ t.sh.inflight = s.sh.inflight ∧ ((t.core n.toNat).sector base).data = 0 ∧
        ((t.core n.toNat).sector base).st = .modified)))

/-! ### The host link -/

/-- HOST_ATTACH, HOST_DETACH, HOST_APERTURE_SET, COMPLETION_RING_SET and EVENT_RESEND (R353, R361, R363): attaching takes the event ring and queue 0's
completion ring named, counts AttachGen, closes every aperture, suspends every other host ring and sends the logged events from StartSeq on; detaching
closes and suspends them once its record is sent; a set aperture or ring holds what the command names, and every write issued under an aperture's
old setting has then entered the link. -/
def Obligations.HostLinkCommands : Prop :=
  ∀ (aq : Bool) (s : State) (e : BitVec 512), let q := if aq then 1 else 0
    let ended := fun (t : State) => (t.queue q).running = none ∧ (t.queue q).done = ((s.queue q).done + 1) % 2 ^ 64
    let closed := fun (t : State) => ∀ i, (tget {} t.host.apertures i).valid = false
    let inStream := fun (t : State) (ring : Word) (lg start : Nat) => ∀ n, max start s.events.oldest.toNat ≤ n → n < s.events.next.toNat →
      { addr := ring + BitVec.ofNat 64 (n % 2 ^ lg * 64), bytes := leBytes 64 (tget 0 s.events.log (n % 65536)).toNat : HostWrite } ∈
        t.host.stream
    (AdminReady s aq e 0x50 →
      let lg := fld e 415 411
      let clg := fld e 346 343
      let ring : Word := BitVec.ofNat 64 (fld e 479 416)
      10 ≤ lg → lg ≤ 20 → 4 ≤ clg → ring.toNat % (2 ^ lg * 64) = 0 →
      Gives (.hostAttach aq) s (fun t => ended t ∧ closed t ∧ t.host.attach = 2 ∧ t.host.attachGen = s.host.attachGen + 1 ∧
        t.host.evRing = ring ∧ t.host.evLog2.toNat = lg ∧ t.host.startSeq.toNat = fld e 342 279 ∧ t.host.modUs.toNat = fld e 278 271 ∧
        (t.queue 0).cpl.toNat = fld e 410 347 ∧ (t.queue 0).cplHost = true ∧ (t.queue 0).cplLog2.toNat = clg ∧
        (t.queue 0).suspended = false ∧ (∀ p, p ≠ 0 → (t.queue p).cplHost = true → (t.queue p).suspended = true) ∧
        (s.events.next.toNat + 1 < 2 ^ 64 → s.events.next.toNat < s.events.oldest.toNat + 65536 → inStream t ring lg (fld e 342 279)) ∧
        (aq = false →
          { addr := BitVec.ofNat 64 (fld e 410 347 + (s.queue 0).done % 2 ^ clg * 32),
            bytes := leBytes 32 (cplRecord (Ent.stamp e) 0 0 (((s.queue 0).done + 1) % 2 ^ 64) 0 0 s.launchCounter.toNat) : HostWrite } ∈
              t.host.stream))) ∧
    (∀ unsent, AdminReady s aq e 0x51 → Gives (.hostDetach aq unsent) s (fun t => Finished s t q e 0 ∧ closed t ∧ t.host.attach = 0 ∧
      ∀ p, (t.queue p).cplHost = true → (t.queue p).suspended = true)) ∧
    (AdminReady s aq e 0x52 → fld e 466 403 % 4096 = 0 →
      let i := fld e 479 468
      let a : HostAperture := { valid := bit e 467, base := BitVec.ofNat 64 (fld e 466 403), length := BitVec.ofNat 28 (fld e 402 375) }
      Gives (.hostApertureSet aq) s (fun t => Finished s t q e 0 ∧ OnlyEntry s t q ∧ tget {} t.host.apertures i = a ∧
        t.host.entered = s.host.stream.length ∧
        ∀ j, j ≠ i → tget {} t.host.apertures j = tget {} s.host.apertures j)) ∧
    (AdminReady s aq e 0x53 →
      let n := Ent.queue e
      let cpl := fld e 465 402
      let clg := fld e 400 397
      4 ≤ clg → cpl % (2 ^ clg * 32) = 0 → (s.queue n).st ≠ 0 → n ≠ q →
      Gives (.completionRingSet aq) s (fun t => Finished s t q e 0 ∧
        t.queue n = { s.queue n with
          cpl := BitVec.ofNat 64 cpl, cplHost := bit e 401, cplLog2 := BitVec.ofNat 4 clg, suspended := false } ∧
        ∀ p, p ≠ q → p ≠ n → t.queue p = s.queue p)) ∧
    (AdminReady s aq e 0x54 → s.host.attach = 2 →
      Gives (.eventResend aq) s (fun t => Finished s t q e 0 ∧ OnlyEntry s t q ∧
        inStream t s.host.evRing s.host.evLog2.toNat (fld e 479 416)))

/-- HOST_READ, MSIX_UNMASK, MSIX_HOLDOFF_EXPIRY and the four resets of the function (R345, R348, R350, R359-R361, R403, R453, R478): a read of the
status page, the MSI-X table (laid out as log 31 says) or the pending bits answers what they hold, one of an unused offset zero, one of the other
apertures ones, counted; a read of the configuration space is answered with Retry Status until step 12 has ended and then with what it holds, as log 99
lays it out, of which the host changes writable bits only; what is read while the endpoint grants no credits waits; a vector that was held is written
once when it is unmasked or its hold-off ends; a reset clears the PCIe state and detaches, and the writes that are not yet sent are dropped and
counted. -/
def Obligations.HostReadsVectorsAndResets : Prop :=
  (∀ (bar : BitVec 3) (off : BitVec 40) (len : BitVec 10) (s : State), s.hostWaits = false → 12 ≤ s.coldStep.toNat → s.modState ≠ 3 →
    (bar = 0 ∨ bar = 2 → Gives (.hostRead bar off len) s (fun t => { t with host := s.host } = s ∧
      t.host = { s.host with hostReads := s.host.hostReads + 1, readData := List.replicate (len.toNat + 1) 0xFF, readRetry := false })) ∧
    (∀ v, (off.toNat, v) ∈ [(0, s.host.moduleId.toNat),
        (8, put s.modState.toNat 4 16 + put s.host.attachGen.toNat 8 8 + put s.host.attach.toNat 2 0), (24, s.events.next.toNat),
        (16, (s.queue 0).head), (32, s.events.oldest.toNat), (40, s.host.dropped.toNat), (48, s.host.hostReads.toNat),
        (56, s.launchCounter.toNat), (0x2000, s.host.pending.toNat)] →
      Gives (.hostRead 4 off 7) s (fun t => { t with host := s.host } = s ∧ t.host = { s.host with readData := leBytes 8 v, readRetry := false })) ∧
    (∀ v, v < 32 → off.toNat = 0x1000 + 16 * v → let x := tget {} s.host.msix v
      Gives (.hostRead 4 off 15) s (fun t => { t with host := s.host } = s ∧ t.host = { s.host with
        readData := leBytes 8 x.addr.toNat ++ leBytes 4 x.data.toNat ++ leBytes 4 (if x.masked then 1 else 0), readRetry := false })) ∧
    (64 ≤ off.toNat ∧ off.toNat + len.toNat < 0x1000 ∨ 0x1200 ≤ off.toNat ∧ off.toNat + len.toNat < 0x2000 ∨ 0x2008 ≤ off.toNat →
      Gives (.hostRead 4 off len) s (fun t => { t with host := s.host } = s ∧ t.host = { s.host with
        readData := List.replicate (len.toNat + 1) 0, readRetry := false }))) ∧
  (∀ (bar : BitVec 3) (off : BitVec 40) (len : BitVec 10) (s : State), s.hostWaits = true →
    Gives (.hostRead bar off len) s (fun t => t.host.held = s.host.held ++ [.read bar off len] ∧ t.host.readData = s.host.readData)) ∧
  (∀ (s : State), s.hostWaits = false → s.modState ≠ 3 →
    (3 ≤ s.coldStep.toNat → s.coldStep.toNat ≤ 12 → ∀ off len, Gives (.hostRead 7 off len) s (fun t => { t with host := s.host } = s ∧
      t.host = { s.host with readData := [], readRetry := true })) ∧
    (12 < s.coldStep.toNat → s.host.cfg = [] → ∀ p ∈ [(0, 0x04161DB4), (8, 0x12000000 + fld s.sec.steppings 31 24)],
      Gives (.hostRead 7 (BitVec.ofNat 40 p.1) 3) s (fun t => { t with host := s.host } = s ∧
        t.host = { s.host with readData := leBytes 4 p.2, readRetry := false })) ∧
    (12 < s.coldStep.toNat → ∀ off bytes, Gives (.hostIngressWrite (.config off) bytes) s (fun t => { t with host := s.host } = s ∧
      ∀ d, t.host.cfgWord d &&& ~~~cfgMask d = s.host.cfgWord d &&& ~~~cfgMask d))) ∧
  (∀ (v : BitVec 5) (s : State), let h := s.host
    let x := tget {} h.msix v.toNat
    let w : HostWrite := { addr := x.addr, bytes := leBytes 4 x.data.toNat, msi := some v }
    h.functionMask = false →
    (h.attach = 2 → bit h.holdOff v.toNat = false → Gives (.msixUnmask v) s (fun t => { t with host := s.host } = s ∧
      tget {} t.host.msix v.toNat = { x with masked := false } ∧ bit t.host.pending v.toNat = false ∧
      t.host.stream = h.stream ++ (if bit h.pending v.toNat then [w] else []) ∧
      ∀ u, u ≠ v.toNat → tget {} t.host.msix u = tget {} h.msix u ∧ bit t.host.pending u = bit h.pending u)) ∧
    (h.attach = 2 → bit h.holdOff v.toNat = true → x.masked = false → Gives (.msixHoldoffExpiry v) s (fun t =>
      { t with host := s.host } = s ∧ bit t.host.holdDue v.toNat = false ∧ t.host.msix = h.msix ∧ t.host.pending = h.pending ∧
      bit t.host.holdOff v.toNat = (bit h.holdDue v.toNat && h.modUs != 0) ∧
      t.host.stream = h.stream ++ (if bit h.holdDue v.toNat then [w] else [])))) ∧
  (∀ (unsent : Nat) (i : Instr) (s : State), i ∈ [.pcieLinkDown unsent, .perst unsent, .hotReset unsent, .flr unsent] →
    let n := min unsent (s.host.stream.length - s.host.entered)
    Gives i s (fun t =>
      { t with host := s.host, queues := s.queues } = s ∧ t.host.attach = 0 ∧ t.host.msix = [] ∧ t.host.pending = 0 ∧
      t.host.holdOff = 0 ∧ t.host.holdDue = 0 ∧ t.host.cfg = [] ∧ t.host.held = [] ∧
      t.host.stream = s.host.stream.take (s.host.stream.length - n) ∧ t.host.dropped = s.host.dropped + BitVec.ofNat 64 n ∧
      (∀ a, (tget {} t.host.apertures a).valid = false) ∧ (∀ p, (t.queue p).cplHost = true → (t.queue p).suspended = true) ∧
      (Tbl.wf {} s.queues = true → ∀ p, { t.queue p with suspended := (s.queue p).suspended } = s.queue p)))

/-- HOST_INGRESS_WRITE (R308, R309, R311): a write that its window admits and whose page is in the look-aside buffer becomes a write of the sector
that holds it, whole or by a byte mask, under the window's context; one to a window without Valid is dropped and leaves a record of Kind 0x3 and
reason 6.

WINREAD, WINWRITE, WINREDINT and WINREDORD (R308, R371): an access that its window admits, within one sector, whose page is in the look-aside
buffer becomes one request of the port's source at the Quire: a read, a write whole or by a mask, or a reduction with its control unit.

WINDATA, WINREDDONE, WINERR and WINDOW_RESPONSE_TIMEOUT (R309, R371): the data read goes to the engine that asked; a reduction accepted counts its
bytes; an error, or no answer from the target, stops the engine with a fault record of its own and leaves a record of Kind 0x4 in the log. -/
def Obligations.WindowsAtThisModule : Prop :=
  (
  ∀ (off : BitVec 40) (bytes : List Byte) (s : State), s.hostWaits = false → bytes ≠ [] → off.toNat % 4096 + bytes.length ≤ 4096 →
    let n := off.toNat / 2 ^ 28
    let o := off.toNat % 2 ^ 28
    let w := tget 0 s.windows n
    let x := Win.ctx w
    let va := Win.base w + o
    (∀ h ∈ s.fabric.held, h.win.toNat ≠ n) →
    (∀ l : TlbEnt, Win.valid w = true → Win.gen w = s.genOf x → Win.src w % 2 = 1 → bit w 124 = true → o < Win.length w → va < 2 ^ 48 →
      s.sh.winTlb.find? (fun l => l.covers x (s.genOf x) va) = some l → l.remote = false → l.pin = true → l.w = true →
      let pa := l.addr va
      pa % 128 + bytes.length ≤ 128 → s.roomFor 0x300 1 = true →
      Gives (.hostIngressWrite (.aperture off) bytes) s (fun t => ∃ r : Req, t.sh.reqs = s.sh.reqs ++ [r] ∧ t.sh.inflight = s.sh.inflight ++ [.mem r.msg] ∧
        r.why = .window (BitVec.ofNat 12 n) ∧ r.held = false ∧ r.msg.vc = 0 ∧ r.msg.src = 0x300 ∧ r.msg.ctx.toNat = x ∧
        r.msg.pa = BitVec.ofNat 48 (pa / 128 * 128) ∧ r.msg.data = BitVec.ofNat 1024 (leNat bytes <<< (8 * (pa % 128))) ∧
        (bytes.length = 128 → r.msg.op = 2) ∧ (bytes.length ≠ 128 → r.msg.op = 3 ∧ r.msg.ctl = byteMask pa bytes.length) ∧ t.mem = s.mem)) ∧
    (Win.valid w = false → s.faultLog.length < faultLogRoom → Gives (.hostIngressWrite (.aperture off) bytes) s (fun t => t.sh.reqs = s.sh.reqs ∧
      t.fabric.held = s.fabric.held ∧
      t.faultLog = s.faultLog ++ [faultRecord 3 1 false 0 x (Win.gen w) 0 0xFFFFFF n 6 0 0 0 s.time32]))) ∧
  (
  ∀ (p : BitVec 4) (m u : EMsg) (k : EPort) (l : TlbEnt) (s : State), Reaches s p m u k → m.vc = 0 →
    let a := accessOf u
    let n := fld a 75 66 + 1
    let win := fld a 127 116
    let w := tget 0 s.windows win
    let x := Win.ctx w
    let va := Win.base w + fld a 115 76
    let pa := l.addr va
    let src := 0x301 + p.toNat
    (∀ h ∈ s.fabric.held, h.win.toNat ≠ win) → Win.valid w = true → Win.gen w = s.genOf x → 2 ≤ Win.src w →
    (Win.anyNode w = true ∨ Win.node w = m.src.toNat) → fld a 115 76 < Win.length w → va < 2 ^ 48 →
    s.sh.winTlb.find? (fun l => l.covers x (s.genOf x) va) = some l → l.remote = false → l.pin = true → pa % 128 + n ≤ 128 →
    s.roomFor src 1 = true →
    let asks := fun (t : State) (P : MemMsg → Prop) => ∃ r : Req, t.sh.reqs = s.sh.reqs ++ [r] ∧
      t.sh.inflight = s.sh.inflight ++ [.mem r.msg] ∧ r.why = .window (BitVec.ofNat 12 win) ∧ r.held = false ∧
      r.msg.src.toNat = src ∧ r.msg.ctx.toNat = x ∧ r.msg.pa = BitVec.ofNat 48 (pa / 128 * 128) ∧ P r.msg
    let whole := fun (skip : Nat) => BitVec.ofNat 1024 (leNat ((unitBytes (m.units.drop skip)).take n) <<< (8 * (pa % 128)))
    (m.op = 2 → bit w 123 = true → l.r = true → Gives (.winRead p m) s (fun t => asks t (fun r => r.vc = 0 ∧ r.op = 1))) ∧
    (m.op = 1 → bit w 124 = true → l.w = true → Gives (.winWrite p m) s (fun t => asks t (fun r =>
      r.vc = 0 ∧ r.data = whole 1 ∧ (n = 128 → r.op = 2) ∧ (n ≠ 128 → r.op = 3 ∧ r.ctl = byteMask pa n)))) ∧
    (m.op = 3 → bit w 122 = true → l.w = true → Gives (.winRedInt p m) s (fun t => asks t (fun r =>
      r.vc = 3 ∧ r.op = 2 ∧ r.ctl = m.units.getD 1 0 ∧ r.data = whole 2))) ∧
    (m.op = 4 → bit w 122 = true → l.w = true → Gives (.winRedOrd p m) s (fun t => asks t (fun r =>
      r.vc = 3 ∧ r.op = 1 ∧ r.ctl = m.units.getD 1 0 ∧ r.data = whole 2)))) ∧
  (
  (∀ (p : BitVec 4) (m u : EMsg) (k : EPort) (r : WinReq) (s : State), Reaches s p m u k → m.vc = 1 → s.winReqOf u = some r →
    s.accessCurrent u = true → r.gen.toNat = s.genOf r.ctx.toNat →
    let e := s.engine r.engine.toNat
    let q := e.queue.getD 0
    let x := fld (accessOf u) 65 54
    e.halt ≠ some endsByReset →
    (m.op = 1 → r.dir = 0 → e.queue ≠ none →
      s.look (engineSrc r.engine.toNat) (s.queue q.toNat).ctx (Ent.dst e.entry + e.done.toNat) matches .miss →
      Gives (.winData p m) s (fun t => (t.engine r.engine.toNat).held = (unitBytes (m.units.drop 1)).take r.n ∧
        (t.engine r.engine.toNat).done = e.done ∧ t.mem = s.mem)) ∧
    (m.op = 2 → r.dir = 2 → Gives (.winRedDone p m) s (fun t => (t.engine r.engine.toNat).held = [] ∧
      (t.engine r.engine.toNat).done = e.done + BitVec.ofNat 40 r.n ∧ t.mem = s.mem)) ∧
    (m.op = 3 → 1 ≤ fld (accessOf u) 33 30 → fld (accessOf u) 33 30 ≤ 10 → s.faultLog.length < faultLogRoom → Gives (.winErr p m) s (fun t => (t.engine r.engine.toNat).stopped = true ∧
      (t.engine r.engine.toNat).recordWaits = true ∧
      fld (t.engine r.engine.toNat).record 255 252 = 2 ∧ fld (t.engine r.engine.toNat).record 187 184 = fld (accessOf u) 33 30 ∧
      t.fabric.winReqs = s.fabric.winReqs.erase r ∧ bit (t.ctx x).status 0 = true ∧
      t.faultLog = s.faultLog ++ [faultRecord 4 r.dir.toNat false 0 x (s.genOf x) 0 r.node.toNat r.win.toNat (fld (accessOf u) 33 30)
        r.va.toNat 0 (Ent.xfer e.entry) s.time32]))) ∧
  (∀ (tag : BitVec 16) (r : WinReq) (s : State), s.fabric.winReqs.find? (fun r => r.tag == tag) = some r →
    r.gen.toNat = s.genOf r.ctx.toNat → (s.engine r.engine.toNat).halt ≠ some endsByReset → s.faultLog.length < faultLogRoom →
    let x := r.ctx.toNat
    Gives (.windowResponseTimeout tag) s (fun t => (t.engine r.engine.toNat).stopped = true ∧
      fld (t.engine r.engine.toNat).record 187 184 = 6 ∧ t.fabric.winReqs = s.fabric.winReqs.erase r ∧ bit (t.ctx x).status 0 = true ∧
      t.faultLog = s.faultLog ++ [faultRecord 4 r.dir.toNat false 0 x (s.genOf x) 0 r.node.toNat r.win.toNat 6 r.va.toNat 0
        (Ent.xfer (s.engine r.engine.toNat).entry) s.time32])))

/-! ### Etmos ports and messages -/

/-- ETMOS_PORT_TRAINING, ETMOS_PORT_LOSS, PORT_RESTART, PORT_SLEEP_NOTICE, PORT_ACTIVITY_WAKE and REKEY (R365, R366, R376, R384, R385, R395, R396,
R403): a port whose lanes, peer port, peer ModuleId and versions fit waits for the handshake in State 2, its Hello sent and every other message held;
the first that does not fit takes it down with that Why, 1 leaving it failed; a lost port reports its Why, has no session and drops what waited there;
the fabric manager lets it train again.

HANDSHAKE (R370, R384-R386): the bytes of the peer's messages make up its steps, which come in order, each answered by this end's next; a key that
is no point, a certificate that does not verify, or a wrong Finished takes the port down with Why 3; the right Finished brings it up, or makes a new
session ready beside the old one; at number 15 the end-to-end session comes up. How a step is cut into messages is the model's choice (log 103). -/
def Obligations.PortsAndHandshake : Prop :=
  (
  ∀ (p : BitVec 4) (s : State), p.toNat < 12 →
    let i := p.toNat
    let k := s.port i
    let st := fld k.status 31 28
    let shows := fun (t : State) (a b : Nat) => OnlyPort s t i ∧ fld (t.port i).status 31 28 = a ∧ fld (t.port i).status 27 24 = b
    (∀ r : PortTraining, 12 ≤ s.coldStep.toNat → fld k.record 31 28 ≠ 0 → st = 0 ∨ st = 1 → s.modState ≠ 3 →
      let own := fld s.fabric.node 35 32
      let peer := r.peerVersion.toNat
      let width := min (if r.marked = 0 then 8 else 4) r.peerWidth.toNat
      let lanes := (r.marked = 0 ∨ 4 ≤ min own peer ∧ (r.marked.toNat < 16 ∨ r.marked.toNat % 16 = 0)) ∧
        (width = 8 ∨ width = 4 ∧ 4 ≤ min own peer)
      let facing := r.peerPort.toNat = i ^^^ 1
      let known := r.peerModuleId.toNat = fld (s.nodeEntry (fld k.record 23 0)) 191 128
      let versions := max own peer - min own peer ≤ 1
      (lanes → facing → known → versions → (∀ m ∈ k.out, ¬(m.vc = 2 ∧ m.op = 0x11)) → k.flit.waiting = [] →
        Gives (.etmosPortTraining p r) s (fun t => let b := t.port i
        { t with ports := s.ports, free := s.free, sh := s.sh } = s ∧ (∀ j, j ≠ i → t.port j = s.port j) ∧ fld b.status 31 28 = 2 ∧
        fld b.status 27 24 = 0 ∧ fld b.status 39 36 = min own peer ∧ fld b.status 35 32 = width ∧
        fld b.status 23 8 = min r.rtt.toNat 65535 ∧ fld b.status 7 4 = r.peerPort.toNat ∧ b.sess.theirs = [] ∧
        b.sess.up = false ∧ b.next = none ∧ b.out = k.out ∧ b.flit.txSeq = 0 ∧ b.flit.rxSeq = 0 ∧ b.flit.replay = [] ∧ b.flit.wire = [] ∧
        b.flit.credits = ([16384, 16384, 16384, 16384, 2048, 2048, 1024, 1024] : List Nat).set (if bit k.record 27 then 5 else 4) 2036 ∧
        ∃ h, b.sess.mine = [h] ∧ h.length = 128 ∧ SentStep s t p h)) ∧
      (s.fabric.forwards = [] →
        (¬lanes → Gives (.etmosPortTraining p r) s (fun t => PortDown s t i 4 1)) ∧
        (lanes → ¬facing → Gives (.etmosPortTraining p r) s (fun t => PortDown s t i 0 2)) ∧
        (lanes → facing → ¬known → Gives (.etmosPortTraining p r) s (fun t => PortDown s t i 0 3)) ∧
        (lanes → facing → known → ¬versions → Gives (.etmosPortTraining p r) s (fun t => PortDown s t i 0 4)))) ∧
    (∀ why : BitVec 4, 1 ≤ why.toNat → why.toNat ≤ 7 → st ≠ 0 → st ≠ 4 → s.fabric.forwards = [] →
      Gives (.etmosPortLoss p why) s (fun t => PortDown s t i (if why = 1 ∨ why = 6 then 4 else 0) why.toNat)) ∧
    (s.fabric.e2e.up = true → st = 0 ∨ st = 4 → Gives (.portRestart p) s (fun t => shows t 1 0 ∧ (t.port i).flit = {} ∧
      (t.port i).record = k.record)) ∧
    (st = 3 → Gives (.portSleepNotice p) s (fun t => shows t 0 0 ∧ (t.port i).asleep = true ∧ (t.port i).sess = k.sess ∧
      (t.port i).out = k.out)) ∧
    (s.powerState = 3 → s.split = false → Gives (.portActivityWake p) s (fun t => fld (t.port i).status 31 28 = 1 ∧ (t.port i).sess = {} ∧
      t.powerState = 5 ∧ t.power.entering = 3 ∧ ∀ j, j ≠ i → t.port j = s.port j)) ∧
    (st = 3 → k.next = none →
      (4 ≤ fld k.status 39 36 → Gives (.rekey p) s (fun t => { t with ports := s.ports, free := s.free, sh := s.sh } = s ∧
        (∀ j, j ≠ i → t.port j = s.port j) ∧ (t.port i).status = k.status ∧ (t.port i).record = k.record ∧
        ∃ (n : Session) (h : List Byte), (t.port i).next = some n ∧ n.phase = !k.sess.phase ∧ n.mine = [h] ∧ h.length = 128 ∧
          n.theirs = [] ∧ n.up = false ∧ SentStep s t p h)) ∧
      (fld k.status 39 36 < 4 → Gives (.rekey p) s (fun t => shows t 1 0 ∧ (t.port i).sess = {})))) ∧
  (
  ∀ (p : BitVec 4) (m : EMsg) (s : State), let i := p.toNat
    let k := s.port i
    let first := i % 2 == 0
    let bs := unitBytes ((m.units.drop 1).dropLast)
    (p.toNat < 12 → fld k.status 31 28 = 2 → m.vc = 2 → m.op = 0x11 → etmosValid m = true → k.next = none → k.sess.up = false →
      s.fabric.forwards = [] →
      (∀ t0, k.sess.gather bs = (t0, none) → Gives (.handshake p m) s (fun t => OnlyPort s t i ∧ t.port i = { k with sess := t0 })) ∧
      (∀ t0 key nonce, k.sess.gather bs = (t0, some (.hello key nonce)) → k.sess.mine.length = 1 →
        ((keyPoint (beBytes 96 key.toNat)).isSome = true → Gives (.handshake p m) s (fun t =>
          { t with ports := s.ports, sh := s.sh } = s ∧ (∀ j, j ≠ i → t.port j = s.port j) ∧ SentStep s t p s.sec.cert ∧
          (t.port i).status = k.status ∧ (t.port i).sess = { t0 with
            theirs := [beBytes 96 key.toNat ++ beBytes 32 nonce.toNat], peerKey := key, peerNonce := nonce,
            mine := k.sess.mine ++ [s.sec.cert] })) ∧
        (keyPoint (beBytes 96 key.toNat) = none → Gives (.handshake p m) s (fun t => PortDown s t i 0 3))) ∧
      (∀ t0 c, k.sess.gather bs = (t0, some (.certificate c)) → verifySigned (c.take 160) (sub_ c 160 4096) 2 = false →
        Gives (.handshake p m) s (fun t => PortDown s t i 0 3)) ∧
      (∀ t0 c id, k.sess.gather bs = (t0, some (.certificate c)) → leAt c 0 4 = 0xA5C30418 → leAt c 4 2 = 1 →
        verifySigned (c.take 160) (sub_ c 160 4096) 2 = true → s.sec.idKey = some id →
        Gives (.handshake p m) s (fun t => { t with ports := s.ports, free := s.free, sh := s.sh } = s ∧
          (∀ j, j ≠ i → t.port j = s.port j) ∧ (t.port i).sess.theirs = k.sess.theirs ++ [c] ∧ (t.port i).status = k.status ∧
          ∃ v, (t.port i).sess.mine = k.sess.mine ++ [v] ∧ leAt v 0 4 = 0xA5C30419 ∧
            sub_ v 32 32 = beBytes 32 k.sess.peerNonce.toNat ∧ SentStep s t p v)) ∧
      (∀ t0 mac, k.sess.gather bs = (t0, some (.finished mac)) →
        (beBytes 48 mac.toNat = k.sess.mac first (!first) → Gives (.handshake p m) s (fun t => OnlyPort s t i ∧
          fld (t.port i).status 31 28 = 3 ∧ fld (t.port i).status 27 24 = 0 ∧ (t.port i).asleep = false ∧ (t.port i).sess.up = true ∧
          (t.port i).sess.keyTx = k.sess.keyTx ∧ (t.port i).sess.keyRx = k.sess.keyRx)) ∧
        (beBytes 48 mac.toNat ≠ k.sess.mac first (!first) → Gives (.handshake p m) s (fun t => PortDown s t i 0 3)))) ∧
    (∀ us k2 (n n0 : Session) mac, p.toNat < 12 → fld k.status 31 28 = 3 → s.powerState ≠ 2 → s.powerState ≠ 4 → m.vc = 2 → m.op = 0x11 →
      etmosValid m = true → k.openMsg m = some (us, k2) → k2.next = some n → n.gather (unitBytes us) = (n0, some (.finished mac)) →
      beBytes 48 mac.toNat = n.mac first (!first) → Gives (.handshake p m) s (fun t => OnlyPort s t i ∧
        t.port i = { k2 with next := some { n0 with theirs := n.theirs ++ [beBytes 48 mac.toNat], up := true } })) ∧
    (∀ t0 mac, p = 15 → m.vc = 2 → m.op = 0x10 → s.fabric.e2e.up = false → s.fabric.e2e.mine ≠ [] →
      s.fabric.e2e.gather (unitBytes m.units) = (t0, some (.finished mac)) → beBytes 48 mac.toNat = s.fabric.e2e.mac false true →
      Gives (.handshake p m) s (fun t => { t with fabric := s.fabric } = s ∧ t.fabric.e2e.up = true ∧ t.fabric.replies = s.fabric.replies)))

/-- ETMOS_FORWARD (R373, R376, R396, R403): a valid message in transit counts a hop and leaves by its leg's port, or by the next leg's once the count
is used up, or is dropped and counted where that port is down; one whose peer sleeps takes it; at 4,095 hops it is dropped, at the end of a route that
does not end here a misroute is counted and logged, and an invalid encoding is dropped with an error. -/
def Obligations.RouteSteps : Prop :=
  ∀ (p : BitVec 4) (m : EMsg) (s : State), p.toNat < 12 → fld (s.port p.toNat).status 31 28 = 3 →
    let i := m.legIdx.toNat
    let port := fld m.route (16 * i + 15) (16 * i + 12)
    let c := fld m.route (16 * i + 11) (16 * i) - 1
    let next := fld m.route (16 * i + 31) (16 * i + 28)
    let up := fun (n : Nat) => n < 12 ∧ (fld (s.port n).status 31 28 = 3 ∨ (s.port n).asleep = true)
    let u := { m with hops := m.hops + 1, route := setF m.route (16 * i + 11) (16 * i) c }
    (etmosValid m = false → Gives (.etmosForward p m) s (fun t => t.sh = s.sh ∧ t.fabric = s.fabric ∧
      bit (t.port p.toNat).status 0 = true ∧ (9 ≤ s.coldStep.toNat → t.events.next = s.events.next + 1))) ∧
    (etmosValid m = true → m.vc.toNat < 2 → s.powerState ≠ 2 → s.powerState ≠ 4 → s.modState ≠ 3 →
      (m.hops.toNat = 4094 → Gives (.etmosForward p m) s (fun t => OnlyFabric s t p.toNat ∧ t.sh = s.sh ∧
        t.fabric = { s.fabric with drops := s.fabric.drops + 1 } ∧ bit (t.port p.toNat).status 0 = true)) ∧
      (m.hops.toNat < 4094 →
        (0 < c → up port → Gives (.etmosForward p m) s (fun t =>
          Left s t (BitVec.ofNat 4 port) (fun r => r = { u with d := m.d || bit (s.port port).record 27 }))) ∧
        (0 < c → port < 12 → ¬up port → Gives (.etmosForward p m) s (fun t => t.sh = s.sh ∧
          t.fabric = { s.fabric with drops := s.fabric.drops + 1 } ∧ bit (t.port port).status 0 = true)) ∧
        (c = 0 → i + 1 < m.legCnt.toNat → up next → Gives (.etmosForward p m) s (fun t =>
          Left s t (BitVec.ofNat 4 next) (fun r =>
            r = { u with legIdx := BitVec.ofNat 3 (i + 1), d := m.d || bit (s.port next).record 27 }))) ∧
        (c = 0 → m.legCnt.toNat ≤ i + 1 → m.dst.toNat ≠ s.ownNode → m.relay = false → Gives (.etmosForward p m) s (fun t =>
          OnlyFabric s t p.toNat ∧ t.sh = s.sh ∧ t.fabric = { s.fabric with misroutes := s.fabric.misroutes + 1 } ∧
          bit (t.port p.toNat).status 0 = true))))

/-- MGMT, PTP, COUNTERSYNC, DELAYPROBE, DELAYREPLY and their timers (R386-R389): a management frame is kept once the manager's session is up; at the
port wall time comes from, a PTP Follow_Up of the Sync taken last sets the TAI offset, and the module serves its other ports and asks for the delay,
which the Delay_Resp gives; a Delay_Req is answered; the upstream counter value makes what is owed to the launch counter and decides whether it is
locked, and after Dormant steps the counter forward or holds it; a probe is answered with its time; the answer gives the link delay; and the timers
send what they are for. What of IEEE 1588 is used, and how, is log 43's. -/
def Obligations.ManagementAndTime : Prop :=
  (∀ (p : BitVec 4) (m u : EMsg) (k : EPort) (s : State), Reaches s p m u k →
    let now := s.launchCounter.toNat
    let a := u.units.headD 0
    let b := u.units.getD 1 0
    let alone := fun (t : State) => { t with ports := s.ports, fabric := s.fabric } = s ∧ (∀ j, j ≠ p.toNat → t.port j = s.port j)
    (m.vc = 2 → m.op = 0x10 →
      (s.fabric.e2e.up = true → Gives (.mgmt p m) s (fun t => alone t ∧ t.port p.toNat = k ∧
        t.fabric = { s.fabric with frames := s.fabric.frames ++ [unitBytes u.units] })) ∧
      (s.fabric.e2e.up = false → Gives (.mgmt p m) s (fun t => t.port p.toNat = k ∧ t.fabric.frames = s.fabric.frames))) ∧
    (m.vc = 2 → m.op = 0x12 → let bs := unitBytes u.units
      let seq := BitVec.ofNat 16 (beNat (sub_ bs 30 2))
      let corr : Int := sint 64 (beNat (sub_ bs 8 8)) / 65536
      let sends := fun (t : State) (i type : Nat) => ∃ r : EMsg, .etmos (BitVec.ofNat 4 i) r ∈ t.sh.inflight ∧ r.vc = 2 ∧ r.op = 0x12 ∧
        leAt (unitBytes r.units) 0 1 % 16 = type
      (leAt bs 0 1 % 16 = 1 → Gives (.ptp p m) s (fun t => Left s t p (fun r => r.vc = 2 ∧ r.op = 0x12 ∧
        leAt (unitBytes r.units) 0 1 % 16 = 9))) ∧
      (s.ptpPort p.toNat = true →
        (leAt bs 0 1 % 16 = 0 → Gives (.ptp p m) s (fun t => alone t ∧ t.port p.toNat = k ∧
          t.fabric = { s.fabric with ptpSync := some (seq, s.launchCounter) })) ∧
        (∀ t2 : Word, leAt bs 0 1 % 16 = 8 → s.fabric.ptpSync = some (seq, t2) → Gives (.ptp p m) s (fun t =>
          let t1 := ptpTime (bs.drop 34) + corr
          t.fabric = { s.fabric with
            tai := t1 + s.fabric.ptpDelay.getD k.delay - (t2.toNat : Int), ptpSync := none, ptpPair := some (t1, t2),
            ptpSeq := s.fabric.ptpSeq + 1, ptpReq := some (s.fabric.ptpSeq, s.launchCounter) } ∧ sends t p.toNat 1 ∧
          ∀ i, i < 12 → i ≠ p.toNat → fld (s.port i).status 31 28 = 3 → bit (s.port i).record 25 = false → sends t i 0 ∧ sends t i 8)) ∧
        (∀ (t1 : Int) (t2 t3 : Word), leAt bs 0 1 % 16 = 9 → s.fabric.ptpPair = some (t1, t2) → s.fabric.ptpReq = some (seq, t3) →
          sub_ bs 44 10 = leBytes 8 s.host.moduleId.toNat ++ beBytes 2 (p.toNat + 1) → Gives (.ptp p m) s (fun t => alone t ∧
            let d := (((t2.toNat : Int) - t1) + (ptpTime (bs.drop 34) - corr - (t3.toNat : Int))) / 2
            t.fabric = { s.fabric with ptpDelay := some d, ptpReq := none, tai := t1 + d - (t2.toNat : Int) })))) ∧
    (m.vc = 3 → m.op = 0x20 → bit k.record 25 = true → bit s.fabric.node 31 = false →
      let e : Int := (fld a 127 64 : Int) + k.delay - (now : Int)
      let n := if e.natAbs ≤ 2 then min 16 (s.fabric.synced.toNat + 1) else 0
      (s.fabric.stepNext = false → s.fabric.hold = 0 ∨ 0 ≤ e → Gives (.counterSync p m) s (fun t => alone t ∧
        t.launchCounter = s.launchCounter ∧ t.fabric.owed = e ∧ t.fabric.hold = 0 ∧ t.fabric.synced.toNat = n ∧
        bit t.fabric.node 30 = (if 8 < e.natAbs then false else if n = 16 then true else bit s.fabric.node 30))) ∧
      (s.fabric.stepNext = true → 0 < e → Gives (.counterSync p m) s (fun t =>
        t.launchCounter = s.launchCounter + BitVec.ofInt 64 e ∧ t.fabric.owed = 0 ∧ t.fabric.stepNext = false)) ∧
      (s.fabric.stepNext = true ∨ 0 < s.fabric.hold → e < 0 → Gives (.counterSync p m) s (fun t => alone t ∧
        t.launchCounter = s.launchCounter ∧ t.fabric.owed = 0 ∧ t.fabric.stepNext = false ∧ t.fabric.hold = e.natAbs))) ∧
    (m.vc = 3 → m.op = 0x21 → Gives (.delayProbe p m) s (fun t => Left s t p (fun r => r.vc = 3 ∧ r.op = 0x22 ∧
      r.units = [timeUnit (fld a 127 64) now, timeUnit now 0]))) ∧
    (m.vc = 3 → m.op = 0x22 → k.probeT1 = some (BitVec.ofNat 64 (fld a 127 64)) → Gives (.delayReply p m) s (fun t => alone t ∧
      t.fabric = s.fabric ∧ t.port p.toNat = { k with
        delay := (((fld a 63 0 : Int) - (fld a 127 64 : Int)) + ((now : Int) - (fld b 127 64 : Int))) / 2, probeT1 := none }))) ∧
  (∀ (p : BitVec 4) (s : State), fld (s.port p.toNat).status 31 28 = 3 → bit (s.port p.toNat).record 25 = false →
    Gives (.counterSyncTimer p) s (fun t => Left s t p (fun r => r.vc = 3 ∧ r.op = 0x20 ∧
      r.units = [timeUnit s.launchCounter.toNat 0]))) ∧
  (∀ s : State, Gives .delayProbeTimer s (fun t => ∀ i, i < 12 →
    if fld (s.port i).status 31 28 = 3 ∧ bit (s.port i).record 25 = true then
      (t.port i).probeT1 = some s.launchCounter ∧ ∃ r : EMsg, .etmos (BitVec.ofNat 4 i) r ∈ t.sh.inflight ∧ r.vc = 3 ∧ r.op = 0x21 ∧
        r.units.headD 0 = timeUnit s.launchCounter.toNat 0
    else t.port i = s.port i))

/-- TRELLIS_GATHERING, BUDGET_GATHERING and GATHERING_COMMIT (R381, R386, R400, R407, R416, R417, R450, R451): a valid unsigned gathering of its class
waits, at most four of a class, and is answered; one whose CommitCount has come as it arrives commits with every other such at once; of all that wait
the one with the lowest CommitCount commits first, a Trellis one advancing the Epoch and emptying the route cache, a budget one setting the budget
granted; in Split, until its safe clock ends, and without the Spine it waits. -/
def Obligations.Gatherings : Prop :=
  (∀ (bytes : List Byte) (budget : Bool) (s : State), s.fabric.e2e.up = true →
    let cls := if budget then 6 else 4
    let i : Instr := if budget then .budgetGathering bytes else .trellisGathering bytes
    let room := s.fabric.pendingGath.countP (fun p => p.cls.toNat == cls) < 4
    (∀ g, gatheringOf s.sec.grade.toNat bytes = some g → g.signed = false → g.cls = cls → room →
      let p : PendingGath := { cls := BitVec.ofNat 8 cls, bytes := bytes,
                               commit := BitVec.ofNat 64 (if budget then leAt (g.last 0x50) 4 8 else g.commit) }
      (s.launchCounter.toNat < p.commit.toNat ∨ s.shadowsHeld = true → Gives i s (fun t => t = { s with fabric := { s.fabric with
        replies := s.fabric.replies ++ [[BitVec.ofNat 8 cls, 1]], pendingGath := s.fabric.pendingGath ++ [p] } })) ∧
      (p.commit.toNat ≤ s.launchCounter.toNat → s.shadowsHeld = false → s.spineOff = false → Gives i s (fun t =>
        t.launchCounter = s.launchCounter ∧ (∀ x ∈ t.fabric.pendingGath, s.launchCounter.toNat < x.commit.toNat ∧ x ∈ s.fabric.pendingGath) ∧
        ∀ x ∈ s.fabric.pendingGath, s.launchCounter.toNat < x.commit.toNat → x ∈ t.fabric.pendingGath))) ∧
    (gatheringOf s.sec.grade.toNat bytes = none ∨ ¬room → Gives i s (fun t =>
      t = { s with fabric := { s.fabric with replies := s.fabric.replies ++ [[BitVec.ofNat 8 cls, 0]] } }))) ∧
  (∀ (cls : BitVec 8) (g : PendingGath) (x : Gathering) (s : State), g ∈ s.fabric.pendingGath →
    (∀ h ∈ s.fabric.pendingGath, g.commit.toNat < h.commit.toNat ∨ h = g) → gatheringOf s.sec.grade.toNat g.bytes = some x →
    (g.cls ≠ cls ∨ s.shadowsHeld = true ∨ s.spineOff = true ∨ s.launchCounter.toNat < g.commit.toNat →
      Gives (.gatheringCommit cls) s (fun t => t = s)) ∧
    (g.cls = cls → s.shadowsHeld = false → s.spineOff = false → g.commit.toNat ≤ s.launchCounter.toNat →
      (x.cls = 4 → Gives (.gatheringCommit cls) s (fun t => t.epoch = (s.epoch + 1) % 16 ∧ t.fabric.routeCache = [] ∧
        t.fabric.pendingGath = s.fabric.pendingGath.erase g ∧ ((∀ r ∈ x.recs, r.1 ≠ 0x32) → t.mem = s.mem))) ∧
      (∀ b : List Byte, x.cls = 6 → x.recs = [(0x50, b)] → (∀ o, s.power.grantSeq = some o → o.toNat < leNat b >>> 96) →
        Gives (.gatheringCommit cls) s (fun t => t.power.granted = BitVec.ofNat 9 (leNat b >>> 23) ∧
          t.power.grantSeq = some (BitVec.ofNat 32 (leNat b >>> 96)) ∧ fld t.power.status 48 40 = t.capInForce ∧
          t.fabric.pendingGath = s.fabric.pendingGath.erase g))))

/-! ### Jobs -/

/-- JOB_GATE_SET, JOB_START and JOB_GATE_CLEAR (R391-R394): setting a gate stops idle queues of one context in State 6; at the root a start count
whose guard lies in the future arms the gate and sends JobArm on every Bcast port, one that does not aborts the gate with Reason 4; clearing a gate
that is not armed or confirmed lets its queues go on.

JOBARM, ARMACK, ARMNACK and JOB_GUARD_EXPIRY (R392, R393): a member with the set gate arms it if its counter is locked and the start lies ahead,
and stays set otherwise; the root, which counts as having acknowledged, confirms when the last listed member has, and aborts with the reason and node
on a refusal or at its guard; a JobConfirm that comes at the start or later confirms nothing. -/
def Obligations.JobGates : Prop :=
  (
  ∀ (aq : Bool) (s : State) (e : BitVec 512), let q := if aq then 1 else 0
    let g := fld e 479 476
    let k := s.gate g
    (AdminReady s aq e 0x58 → fld e 431 418 + fld e 417 410 + 1 ≤ 16384 → fld k.reg 63 60 = 0 →
      (∀ i, i ≤ fld e 417 410 → let u := s.queue (fld e 431 418 + i)
        u.st = 1 ∧ u.ctx = fld e 443 432 ∧ u.type ≠ 0) →
      Gives (.jobGateSet aq) s (fun t => Finished s t q e 0 ∧ fld (t.gate g).reg 63 60 = 1 ∧
        fld (t.gate g).reg 31 0 = fld e 475 444 ∧ (t.gate g).ctx.toNat = fld e 443 432 ∧
        (∀ i, i ≤ fld e 417 410 → (t.queue (fld e 431 418 + i)).st = 6) ∧ ∀ h, h ≠ g → t.gate h = s.gate h)) ∧
    (∀ bs, AdminReady s aq e 0x59 → bit s.fabric.node 31 = true → fld k.reg 63 60 = 1 →
      s.tracksVA 0 (fld e 379 332) (4 * fld e 331 308) = false → s.readVA 0 (fld e 379 332) (4 * fld e 331 308) = some bs →
      let start := fld e 475 412
      let guard := fld e 411 380
      let members := (List.range (fld e 331 308)).map (fun i => BitVec.ofNat 24 (leNat ((bs.drop (4 * i)).take 4)))
      (guard ≤ start → s.launchCounter.toNat < start - guard → (∃ n ∈ members, n.toNat ≠ s.ownNode) →
        (∀ i, i < 12 → bit (s.port i).record 26 = true → fld (s.port i).status 31 28 = 3 ∨ (s.port i).asleep = true) →
        Gives (.jobStart aq) s (fun t => Finished s t q e 0 ∧ fld (t.gate g).reg 63 60 = 2 ∧ fld (t.gate g).reg 59 32 = 0 ∧
          fld (t.gate g).reg 31 0 = fld k.reg 31 0 ∧ (t.gate g).s.toNat = start ∧ (t.gate g).guard.toNat = guard ∧
          (t.gate g).members = members ∧ (t.gate g).acks = [BitVec.ofNat 24 s.ownNode] ∧ (t.gate g).root = true ∧
          (∀ h, h ≠ g → t.gate h = s.gate h) ∧
          ∀ i, i < 12 → bit (s.port i).record 26 = true → ∃ r : EMsg, .etmos (BitVec.ofNat 4 i) r ∈ t.sh.inflight ∧ r.vc = 2 ∧ r.op = 0x13)) ∧
      (start < guard ∨ start - guard ≤ s.launchCounter.toNat →
        Gives (.jobStart aq) s (fun t => Finished s t q e 0 ∧ fld (t.gate g).reg 63 60 = 5 ∧ fld (t.gate g).reg 59 56 = 4 ∧
          t.sh = s.sh ∧ ∀ h, h ≠ g → t.gate h = s.gate h))) ∧
    (AdminReady s aq e 0x5A → fld k.reg 63 60 ≠ 2 → fld k.reg 63 60 ≠ 3 →
      Gives (.jobGateClear aq) s (fun t => Finished s t q e 0 ∧ t.gate g = {} ∧ (∀ h, h ≠ g → t.gate h = s.gate h) ∧
        (fld k.reg 63 60 ≠ 0 → fld k.reg 63 60 ≠ 4 → fld (s.ctx k.ctx.toNat).status 29 28 = 1 →
          ∀ n ∈ k.queues, n ≠ q → (s.queue n).st = 6 → (s.queue n).running = none → (s.queue n).stampAt = none →
            (t.queue n).st = (if (s.queue n).head ≠ (s.queue n).tail ∨ (s.queue n).held ≠ 0 then 2 else 1))))) ∧
  (
  (∀ (p : BitVec 4) (m u : EMsg) (b : EPort) (g : Nat) (s : State), Reaches s p m u b → m.vc = 2 →
    let body := jobBody u
    let job := fld body 255 224
    let node := fld body 223 200
    let reason := fld body 199 196
    let start := fld body 127 64
    let k := s.gate g
    let others := fun (t : State) => (∀ h, h ≠ g → t.gate h = s.gate h) ∧ t.queues = s.queues
    (m.op = 0x13 → s.gateOf job [1] = some g → node ≠ s.ownNode →
      let ready := (bit s.fabric.node 30 = true ∨ bit s.fabric.node 31 = true) ∧ s.launchCounter.toNat < start
      (ready → Gives (.jobArm p m) s (fun t => others t ∧ fld (t.gate g).reg 63 60 = 2 ∧ (t.gate g).s.toNat = start ∧
        (t.gate g).guard.toNat = fld body 195 164 ∧ ∃ f ∈ t.fabric.forwards, f.job.toNat = job ∧ f.root.toNat = node)) ∧
      (¬ready → Gives (.jobArm p m) s (fun t => others t ∧ t.gate g = k))) ∧
    (s.gateOf job [2] = some g → k.root = true →
      let acks := k.acks ++ [BitVec.ofNat 24 node]
      (m.op = 0x14 → (∃ n ∈ k.members, n ∉ acks) → Gives (.armAck p m) s (fun t => others t ∧ t.gate g = { k with acks := acks } ∧
        t.fabric = s.fabric)) ∧
      (m.op = 0x14 → (∀ n ∈ k.members, n ∈ acks) → Gives (.armAck p m) s (fun t => others t ∧ fld (t.gate g).reg 63 60 = 3 ∧
        t.fabric.replies = s.fabric.replies ++ [leBytes 8 (t.gate g).reg.toNat] ∧ ∀ f ∈ t.fabric.forwards, f.job.toNat ≠ job)) ∧
      (m.op = 0x15 → Gives (.armNack p m) s (fun t => others t ∧ fld (t.gate g).reg 63 60 = 5 ∧ fld (t.gate g).reg 59 56 = reason ∧
        fld (t.gate g).reg 55 32 = node ∧ t.fabric.replies = s.fabric.replies ++ [leBytes 8 (t.gate g).reg.toNat]))) ∧
    (m.op = 0x16 → s.gateOf job [2] = some g → k.s.toNat ≤ s.launchCounter.toNat →
      Gives (.jobConfirm p m) s (fun t => others t ∧ t.gate g = k))) ∧
  (∀ (g : BitVec 4) (n : BitVec 24) (s : State), let k := s.gate g.toNat
    fld k.reg 63 60 = 2 → k.root = true → s.gateOf (fld k.reg 31 0) [2] = some g.toNat →
    k.s.toNat - k.guard.toNat ≤ s.launchCounter.toNat → n ∈ k.members → n ∉ k.acks → (∀ m ∈ k.members, m ∉ k.acks → n.toNat ≤ m.toNat) →
    Gives (.jobGuardExpiry g) s (fun t => fld (t.gate g.toNat).reg 63 60 = 5 ∧ fld (t.gate g.toNat).reg 59 56 = 1 ∧
      fld (t.gate g.toNat).reg 55 32 = n.toNat ∧ t.queues = s.queues ∧ ∀ h, h ≠ g.toNat → t.gate h = s.gate h)))

/-- JOBCONFIRM, JOBABORT and JOB_START_COUNT (R394): a member that receives JobConfirm before S becomes confirmed; one that receives JobAbort becomes
aborted with its Reason and FailNode; when the counter has reached S a confirmed gate is started and its queues leave State 6, an armed one is missed
and its queues stay stopped. -/
def Obligations.JobOutcomes : Prop :=
  (∀ (p : BitVec 4) (m u : EMsg) (b : EPort) (g : Nat) (s : State), Reaches s p m u b → m.vc = 2 →
    let body := jobBody u
    let job := fld body 255 224
    let others := fun (t : State) => (∀ h, h ≠ g → t.gate h = s.gate h) ∧ t.queues = s.queues
    (m.op = 0x16 → s.gateOf job [2] = some g → s.launchCounter.toNat < (s.gate g).s.toNat →
      Gives (.jobConfirm p m) s (fun t => others t ∧ fld (t.gate g).reg 63 60 = 3 ∧ fld (t.gate g).reg 31 0 = fld (s.gate g).reg 31 0)) ∧
    (m.op = 0x17 → s.gateOf job [1, 2] = some g → Gives (.jobAbort p m) s (fun t => others t ∧ fld (t.gate g).reg 63 60 = 5 ∧
      fld (t.gate g).reg 59 56 = fld body 199 196 ∧ fld (t.gate g).reg 55 32 = fld body 223 200 ∧
      fld (t.gate g).reg 31 0 = fld (s.gate g).reg 31 0))) ∧
  (∀ (g : BitVec 4) (s : State), let k := s.gate g.toNat
    k.s.toNat ≤ s.launchCounter.toNat →
    (fld k.reg 63 60 = 3 → Gives (.jobStartCount g) s (fun t => { t with gates := s.gates, queues := s.queues } = s ∧
      fld (t.gate g.toNat).reg 63 60 = 4 ∧ (∀ h, h ≠ g.toNat → t.gate h = s.gate h) ∧
      (fld (s.ctx k.ctx.toNat).status 29 28 = 1 → ∀ n ∈ k.queues, (s.queue n).st = 6 → (t.queue n).st ≠ 6 ∧
        ((s.queue n).running = none → (s.queue n).stampAt = none →
          (t.queue n).st = (if (s.queue n).head ≠ (s.queue n).tail ∨ (s.queue n).held ≠ 0 then 2 else 1))) ∧
      ∀ n, n ∉ k.queues → t.queue n = s.queue n)) ∧
    (fld k.reg 63 60 = 2 → Gives (.jobStartCount g) s (fun t => { t with gates := s.gates } = s ∧ fld (t.gate g.toNat).reg 63 60 = 6 ∧
      ∀ h, h ≠ g.toNat → t.gate h = s.gate h)))

/-! ### Power, clocks and cooling -/

/-- CLUSTER_POWER_GATE, DOZE_ENTRY, DORMANT_ENTRY, SLEEP_ENTRY_STEP, CLOCHE_TIMER, SMBUS_WAKE, HOST_TLP_WAKE, WAKE_COMPLETE and
SPINE_TEMPERATURE_SAMPLE (R398, R399, R401-R405, R415, R421, R457, R464, R469): an idle cluster loses its store with its power; a quiet module enters
Doze, and from it Dormant, step by step, its ports asleep and the host link in L1; a wake event turns it back, is held while it may not wake or the
module is in Split, and leads from Dormant, with the identity key reconstructed from a new capture, through Doze to Idle, where what the host has sent
meanwhile is taken. -/
def Obligations.SleepAndWake : Prop :=
  ∀ s : State,
    let p := s.power
    let waked := fun (t : State) => { t with power := p, channels := s.channels, host := s.host, sec := s.sec } = s ∧
      { t.sec with wakePulses := s.sec.wakePulses } = s.sec ∧ { t.host with called := s.host.called } = s.host
    let serves := p.heldWake = true ∧ s.mayWake = true
    let still := ∀ c ∈ s.channels, fld c.2.status 7 4 ≠ 1 ∧ fld c.2.status 7 4 ≠ 3
    (∀ c : BitVec 7, let u := s.cluster c.toNat
      u.runList = [] → u.kernel = none → u.clock = .clockGated → s.timedOn = false →
      Gives (.clusterPowerGate c) s (fun t => OnlyCluster s t c.toNat ∧ (t.cluster c.toNat).clock = .powerGated ∧
        (t.cluster c.toNat).ls = [] ∧ (t.cluster c.toNat).groups = [] ∧ (t.cluster c.toNat).tokens = [] ∧
        (t.cluster c.toNat).press.acc = [] ∧ (t.cluster c.toNat).stream.oc = [])) ∧
    (s.modState = 1 → s.powerState = 1 → p.dozeAfter ≠ 0 → s.timedOn = false → s.split = false → s.quiet = true →
      Gives .dozeEntry s (fun t => { t with power := p } = s ∧ t.powerState = 4 ∧ t.power.entering = 2 ∧ t.power.entryStep = 1)) ∧
    (p.dozeAfter = 0 ∨ s.timedOn = true ∨ s.split = true ∨ s.quiet = false → Gives .dozeEntry s (fun t => t = s)) ∧
    (let may := s.powerState = 2 ∧ s.linkQuiet = true ∧ p.allowDormant = true ∧ p.dormantAfter ≠ 0 ∧ s.timedOn = false ∧ s.split = false ∧
      s.quiet = true ∧ s.updating = false ∧ ∀ g ∈ s.gates, fld g.2.reg 63 60 ≠ 2 ∧ fld g.2.reg 63 60 ≠ 3;
      (may → Gives .dormantEntry s (fun t => { t with power := p } = s ∧ t.powerState = 4 ∧ t.power.entering = 3 ∧ t.power.entryStep = 1 ∧
        t.power.heldWake = (p.heldWake || p.wakePending))) ∧
      (¬may → Gives .dormantEntry s (fun t => t = s))) ∧
    (s.powerState ≠ 4 ∨ s.split = true ∧ p.urgent = false → Gives .sleepEntryStep s (fun t => t = s)) ∧
    (s.powerState = 4 → s.split = false ∨ p.urgent = true → p.wakePending = false →
      (p.entering = 2 → p.entryStep = 2 → (∃ n, n < 64 ∧ (s.core n).empty = false) → Gives .sleepEntryStep s (fun t =>
        t.power = p ∧ t.clusters = s.clusters ∧ t.mem = s.mem)) ∧
      (p.entering = 2 → p.entryStep = 2 → (∀ n, n < 64 → (s.core n).empty = true) → s.coresHeard = true →
        Gives .sleepEntryStep s (fun t =>
        t.powerState = 4 ∧ t.power.entryStep = 3 ∧ (∀ c, c < 128 → (t.cluster c).clock = .powerGated ∧ (t.cluster c).ls = []) ∧
        ∀ l, 3 ≤ l → l < 7 → fld (s.linkEnd (2 * l)).status 7 4 ≠ 3 → fld (t.linkEnd (2 * l)).status 7 4 = 0)) ∧
      (p.entering = 2 → p.entryStep = 3 → (∀ c ∈ s.channels, fld c.2.status 7 4 ≠ 1) → ¬serves → Gives .sleepEntryStep s (fun t =>
        t.powerState = 2 ∧ t.power.entering = 0 ∧ t.clusters = s.clusters ∧
        ∀ ch, fld (s.channel ch).status 7 4 = 2 → fld (t.channel ch).status 7 4 = 3)) ∧
      (p.entering = 3 → p.entryStep = 1 → ¬still → Gives .sleepEntryStep s (fun t => { t with channels := s.channels } = s ∧
        ∀ ch, fld (s.channel ch).status 7 4 = 3 → fld (t.channel ch).status 7 4 = 1)) ∧
      (p.entering = 3 → p.entryStep = 2 → s.halfDirty false = false → s.halfDirty true = false →
        (∀ h, ∀ l ∈ (s.half h).lines, l.2.weak &&& l.2.dirty = 0) → Gives .sleepEntryStep s (fun t =>
        t.powerState = 4 ∧ t.power.entryStep = 3 ∧ (∀ h, ∀ l ∈ (t.half h).lines, l.2.valid = 0) ∧ t.mem = s.mem)) ∧
      (p.entering = 3 → p.entryStep = 3 → Gives .sleepEntryStep s (fun t => t.powerState = 4 ∧ t.power.entryStep = 4 ∧ t.host.l1 = true ∧
        ∀ i, i < 12 → fld (s.port i).status 31 28 = 3 →
          fld (t.port i).status 31 28 = 0 ∧ (t.port i).asleep = true ∧ (t.port i).sleepTold = true)) ∧
      (p.entering = 3 → p.entryStep = 4 → ¬serves → Gives .sleepEntryStep s (fun t => t.powerState = 3 ∧ t.sec.idKey = none ∧
        t.sec.modPg = false ∧ t.fabric.e2e = {} ∧ (∀ c, (t.cluster c).tlb = []) ∧ t.mem = s.mem))) ∧
    (s.powerState = 4 → s.split = false → p.wakePending = true → p.entering = 3 → p.entryStep = 1 → still → Gives .sleepEntryStep s (fun t =>
      t.powerState = 5 ∧ t.power.entering = 3)) ∧
    (∀ i : Instr, i = .clocheTimer ∨ (i = .smbusWake ∧ s.coldStep ≠ 0) ∨
        (i = .hostTlpWake ∧ (s.powerState = 3 ∨ s.powerState = 4 ∧ p.entering = 3)) →
      (s.powerState = 3 → s.split = false → Gives i s (fun t => waked t ∧ t.channels = s.channels ∧ t.powerState = 5 ∧ t.power.entering = 3)) ∧
      (s.powerState = 2 → s.split = false → s.mayWake = true → Gives i s (fun t => waked t ∧ t.powerState = 5 ∧ t.power.entering = 2 ∧
        ∀ ch, fld (s.channel ch).status 7 4 = 3 → fld (t.channel ch).status 7 4 = 1)) ∧
      (s.powerState = 2 ∧ (s.mayWake = false ∨ s.split = true) ∨ s.powerState = 3 ∧ s.split = true ∨ s.powerState = 4 → Gives i s (fun t =>
        waked t ∧ t.channels = s.channels ∧ t.power = { p with wakePending := true }))) ∧
    (s.powerState ≠ 3 → ¬(s.powerState = 4 ∧ p.entering = 3) → Gives .hostTlpWake s (fun t => t = s)) ∧
    (s.powerState ≠ 5 ∨ s.split = true ∨ p.entering ≠ 3 ∧ s.trained = false → Gives .wakeComplete s (fun t => t = s)) ∧
    (s.powerState = 5 → s.split = false →
      (p.entering = 3 → let new := { s with sec := { s.sec with puf := Config.pufCapture s.free } }
        Gives .wakeComplete s (fun t => t.sec.modPg = true ∧
        (s.sec.unlock = 2 ∨ s.sec.verified = false → t.sec.idKey = none ∧ t.modState = s.modState) ∧
        (s.sec.unlock ≠ 2 → s.sec.verified = true →
          (new.keyMatches s.helperData s.sec.cert = true → t.sec.idKey = some (identityKey s.helperData) ∧ t.modState = s.modState) ∧
          (new.keyMatches s.helperData s.sec.cert = false → t.sec.idKey = none ∧ t.modState = 2)) ∧
        (s.mayWake = false ∨ p.wakePending = false ∧ p.heldWake = false → t.powerState = 2 ∧ t.power.entering = 0) ∧
        (s.mayWake = true → p.wakePending = true ∨ p.heldWake = true → t.powerState = 5 ∧ t.power.entering = 2))) ∧
      (p.entering ≠ 3 → s.trained = true → Gives .wakeComplete s (fun t => ∃ u : State,
        { u with power := p, clusters := s.clusters } = s ∧ u.powerState = 1 ∧ u.power.wakePending = false ∧
        (s.timedOn = false → u.clusters = s.clusters) ∧ (s.timedOn = true → ∀ c, c < 128 → (u.cluster c).clock = .running) ∧
        t = u.takeHeld ∧ (s.host.held = [] → t = { u with host := { u.host with l1 := false, called := false } })))) ∧
    (∀ x : BitVec 8, let must := 95 ≤ x.toNat ∧ s.powerState = 2 ∧ bit p.status 57 = false ∧ s.updating = false;
      (must → Gives (.spineTemperatureSample x) s (fun t => { t with power := p } = s ∧ t.powerState = 4 ∧ t.power.entering = 3 ∧
        t.power.heldWake = (p.heldWake || p.wakePending))) ∧
      (¬must → Gives (.spineTemperatureSample x) s (fun t => t = s)))

/-- POWER_POLICY, POWER_SAMPLE and POWER_CONTROL_TICK (R406-R408, R415, R422): a valid policy holds at once, but waits in Split for a change of
clocks; over the cap a tick takes the next step down in the order of R408 and begins a throttle; after ten calm ticks the last step taken is undone
first; a tick divides the cap between the halves, to each at least 30 % of what is divided, and changes no half's budget in Split. -/
def Obligations.PolicyAndCap : Prop :=
  (∀ (aq : Bool) (s : State) (e : BitVec 512), let q := if aq then 1 else 0
    AdminReady s aq e 0x60 →
    let same := fld e 415 411 = s.power.clusterMax.toNat ∧ fld e 410 407 = s.power.coreMax.toNat
    (10 ≤ fld e 431 416 → 8 ≤ fld e 415 411 → fld e 415 411 ≤ 20 → 4 ≤ fld e 410 407 → fld e 410 407 ≤ 12 → s.split = false ∨ same →
      Gives (.powerPolicy aq) s (fun t => Finished s t q e 0 ∧ t.power.dozeAfter.toNat = fld e 479 448 ∧
        t.power.dormantAfter.toNat = fld e 447 432 ∧ t.power.gateAfter.toNat = fld e 431 416 ∧
        t.power.clusterMax.toNat = fld e 415 411 ∧ t.power.coreMax.toNat = fld e 410 407 ∧ t.power.allowDormant = bit e 406 ∧
        t.power.status = s.power.status ∧ t.power.granted = s.power.granted)) ∧
    (s.split = true → ¬same → Gives (.powerPolicy aq) s (fun t => t = s))) ∧
  (∀ (ms sec : BitVec 12) (s : State), Gives (.powerSample ms sec) s (fun t =>
    t = { s with power := { s.power with status := setF s.power.status 39 28 ms.toNat, avgSec := sec } })) ∧
  (∀ s : State, let p := s.power
    let cap := 10 * s.capInForce
    let ms := fld p.status 39 28
    let sec := p.avgSec.toNat
    let clk := min p.capClk.toNat s.clusterTop
    let core := min p.capCore.toNat s.coreTop
    let frame := fun (t : State) => t.power.clusterMax = p.clusterMax ∧ t.power.granted = p.granted ∧ t.clusters = s.clusters ∧
      t.queues = s.queues ∧ t.ctxs = s.ctxs
    (cap < ms ∨ 3200 < sec →
      Gives .powerControlTick s (fun t => frame t ∧ t.power.calmTicks = 0 ∧
        (8 < clk → t.power.capClk.toNat = clk - 1 ∧ t.power.capDuty = p.capDuty ∧ t.power.capCore = p.capCore) ∧
        (clk ≤ 8 → 4 < p.capDuty.toNat → t.power.capDuty = p.capDuty - 1 ∧ t.power.capClk = p.capClk ∧ t.power.capCore = p.capCore) ∧
        (clk ≤ 8 → p.capDuty.toNat ≤ 4 → 4 < core → t.power.capCore.toNat = core - 1 ∧ t.power.capDuty = p.capDuty) ∧
        (clk ≤ 8 → p.capDuty.toNat ≤ 4 → core ≤ 4 → t.power.withhold = true) ∧
        (p.withhold = false → t.throttled 1 0 0 = true ∧ bit t.power.status 49 = true ∧ bit t.sec.alert 1 = true))) ∧
    (ms + 100 ≤ cap → ms ≤ cap → sec + 100 ≤ 3200 →
      (p.calmTicks.toNat < 9 → Gives .powerControlTick s (fun t =>
        { t with power := { t.power with budgetWest := p.budgetWest, budgetEast := p.budgetEast }, free := s.free } =
          { s with power := { p with calmTicks := p.calmTicks + 1 } })) ∧
      (9 ≤ p.calmTicks.toNat → Gives .powerControlTick s (fun t => frame t ∧
        (p.withhold = true → t.power.withhold = false ∧ t.power.capCore = p.capCore ∧ t.power.capClk = p.capClk) ∧
        (p.withhold = false → p.capCore.toNat < s.coreTop → t.power.capCore = p.capCore + 1 ∧ t.power.capDuty = p.capDuty) ∧
        (p.withhold = false → s.coreTop ≤ p.capCore.toNat → p.capDuty.toNat < 16 → t.power.capDuty = p.capDuty + 1 ∧
          t.power.capClk = p.capClk) ∧
        (p.withhold = false → s.coreTop ≤ p.capCore.toNat → 16 ≤ p.capDuty.toNat → p.capClk.toNat < p.clusterMax.toNat →
          t.power.capClk = p.capClk + 1)))) ∧
  (∀ s : State, Gives .powerControlTick s (fun t =>
    let w := t.power.budgetWest.toNat
    let e := t.power.budgetEast.toNat
    (s.split = true → t.power.budgetWest = s.power.budgetWest ∧ t.power.budgetEast = s.power.budgetEast) ∧
    (s.split = false → w + e ≤ 10 * t.capInForce ∧ (2 ≤ w + e → 3 * (w + e) ≤ 10 * w ∧ 3 * (w + e) ≤ 10 * e)))))

/-- RAIL_OVERCURRENT, RAIL_LIMITER_STEP, DROOP, DROOP_RELEASE and THROTTLE_COALESCE_WINDOW (R409-R414): a rail's limiter takes its steps one at a time
and undoes them one at a time; a droop halves the die's clocks until it is released; each coalesced throttle of the last window makes one
record, and one still in force is counted into the next window. -/
def Obligations.RailsAndDroops : Prop :=
  (∀ (rail : BitVec 4) (s : State), let r := rail.toNat
    let n := tget 0 s.power.railSteps r
    let frame := fun (t : State) => { t with power := s.power, timed := s.timed, sec := s.sec } = s ∧
      ∀ x, x ≠ r → tget 0 t.power.railSteps x = tget 0 s.power.railSteps x
    (n = 0 → 0 < railMax r → Gives (.railOvercurrent rail) s (fun t => frame t ∧ tget 0 t.power.railSteps r = 1 ∧
      bit t.sec.alert 1 = true ∧ t.sec.alertLow = true ∧ bit t.power.status 50 = true ∧
      ∃ c ∈ t.power.coalesced, c.reason = 2 ∧ c.rail.toNat = r ∧ c.since.isSome = true)) ∧
    (0 < n → n < railMax r → Gives (.railLimiterStep rail true) s (fun t => frame t ∧ tget 0 t.power.railSteps r = n + 1)) ∧
    (0 < n → Gives (.railLimiterStep rail false) s (fun t => frame t ∧ tget 0 t.power.railSteps r = n - 1 ∧
      (n = 1 → ∀ c ∈ t.power.coalesced, c.reason = 2 → c.unit.toNat = (railUnit r).2 → c.rail.toNat = r → c.since = none)))) ∧
  (∀ (die : BitVec 3) (s : State), let d := die.toNat
    let n := tget 0 s.power.droops d
    let frame := fun (t : State) => { t with power := s.power, timed := s.timed, sec := s.sec } = s ∧
      ∀ x, x ≠ d → t.clusterClock x = s.clusterClock x ∧ t.coreClock x = s.coreClock x
    let clocks := fun (t : State) (cluster core : Nat) => t.clusterClock d = cluster ∧ t.coreClock d = core
    (3 ≤ d → d ≤ 6 → Gives (.droop die) s (fun t => frame t ∧ tget 0 t.power.droops d = n + 1 ∧
      clocks t (s.steadyClock d / 2) (s.steadyCore d / 2))) ∧
    (n = 1 → Gives (.droopRelease die) s (fun t => frame t ∧ tget 0 t.power.droops d = 0 ∧ clocks t (s.steadyClock d) (s.steadyCore d))) ∧
    (1 < n → Gives (.droopRelease die) s (fun t => frame t ∧ tget 0 t.power.droops d = n - 1 ∧
      clocks t (s.clusterClock d) (s.coreClock d)))) ∧
  (∀ s : State, Gives .throttleCoalesceWindow s (fun t =>
    t.power.coalesced = (s.power.coalesced.filter (fun c => c.since.isSome)).map (fun c =>
      { c with since := some s.launchCounter, start := s.launchCounter, count := 1, duration := 0 }) ∧
    t.power.throttleNext = s.power.throttleNext + BitVec.ofNat 14 s.power.coalesced.length ∧ t.power.railSteps = s.power.railSteps ∧
    t.power.droops = s.power.droops ∧ t.power.throttles = s.power.throttles ∧
    (9 ≤ s.coldStep.toNat → (∀ pa, s.dieErr pa = 0) → t.events.next = s.events.next + BitVec.ofNat 64 s.power.coalesced.length)))

/-- HEARTBEAT, HEARTBEAT_TIMEOUT, SPLIT_NOTICE, SPLIT_RELEASE and SPLIT_TIMEOUT (R27, R415-R417): a half that misses heartbeats holds Split and at most
1.0 GHz and sends the other a notice, which makes it do the same; sixteen heartbeats from the far agent at both monitors end Split and give both
halves the leader's commits; at a multiple of 10 µs the clocks are released and the gatherings held commit; in Split a Hinge that is up is retrained
by order. -/
def Obligations.HalvesAndSplit : Prop :=
  ∀ s : State, let p := s.power
    let lead := if bit p.status 59 then p.eastEpoch else p.westEpoch
    (∀ h : Bool, let beats := fun (t : State) (east : Bool) => (if east then t.power.beatsEast else t.power.beatsWest).toNat
      Gives (.heartbeat h true) s (fun t => { t with power := p } = s ∧ beats t h = min 16 (beats s h + 1) ∧
        beats t (!h) = beats s (!h) ∧ t.power.splitWest = p.splitWest ∧ t.power.splitEast = p.splitEast ∧
        (p.splitWest = true → p.splitEast = true → beats t false = 16 → beats t true = 16 → t.power.splitEnding = true ∧
          bit t.power.status 58 = false ∧ t.split = false ∧ t.power.westEpoch = lead ∧ t.power.eastEpoch = lead) ∧
        (p.splitWest = false ∨ p.splitEast = false ∨ beats t false ≠ 16 ∨ beats t true ≠ 16 →
          t.power.splitEnding = p.splitEnding ∧ t.power.status = p.status)) ∧
      Gives (.heartbeat h false) s (fun t => t = s)) ∧
    (∀ (h : Bool) (i : Instr), i = .splitNotice h ∨ (∃ own, i = .heartbeatTimeout h own) →
      (s.inSplit h = false ∨ p.splitEnding = true → Gives i s (fun t => t.inSplit h = true ∧ t.inSplit (!h) = s.inSplit (!h) ∧
        bit t.power.status 58 = true ∧ t.power.splitEnding = false ∧ t.power.beatsWest = 0 ∧ t.power.beatsEast = 0 ∧
        (s.inSplit h = false → t.throttled 8 2 (if h then 2 else 1) = true) ∧ (s.inSplit h = true → t.power.throttles = p.throttles) ∧
        ∀ d, 3 ≤ d → d ≤ 6 → decide (5 ≤ d) = h → t.clusterClock d ≤ 10 ∧ t.coreClock d ≤ 4)) ∧
      (s.inSplit h = true → p.splitEnding = false → Gives i s (fun t => { t with power := p } = s ∧ t.power.status = p.status ∧
        t.power.splitWest = p.splitWest ∧ t.power.splitEast = p.splitEast ∧ t.power.throttles = p.throttles))) ∧
    (∀ own, Gives (.heartbeatTimeout false own) s (fun t => t.power.noticeEast = true ∧ t.power.noticeWest = p.noticeWest) ∧
      Gives (.heartbeatTimeout true own) s (fun t => t.power.noticeWest = true ∧ t.power.noticeEast = p.noticeEast)) ∧
    Gives (.splitNotice false) s (fun t => t.power.noticeWest = false) ∧ Gives (.splitNotice true) s (fun t => t.power.noticeEast = false) ∧
    (p.splitEnding = true → s.launchCounter.toNat % 10000 = 0 → Gives .splitRelease s (fun t => t.split = false ∧
      t.inSplit false = false ∧ t.inSplit true = false ∧
      t.power.splitEnding = false ∧ bit t.power.status 58 = false ∧ t.power.westEpoch = t.power.eastEpoch ∧
      t.fabric.pendingGath = s.fabric.pendingGath.filter (fun g => decide (s.launchCounter.toNat < g.commit.toNat)))) ∧
    (p.splitEnding = false ∨ s.launchCounter.toNat % 10000 ≠ 0 → Gives .splitRelease s (fun t => t = s)) ∧
    (s.split = true → fld (s.linkEnd 0).status 7 4 = 2 → Gives .splitTimeout s (fun t => { t with links := s.links } = s ∧
      (t.linkEnd 0).flit.ordered = true ∧
      (t.linkEnd 1).flit.ordered = true ∧ (∀ i, 1 < i → t.linkEnd i = s.linkEnd i) ∧ (t.linkEnd 0).status = (s.linkEnd 0).status)) ∧
    (s.split = false ∨ fld (s.linkEnd 0).status 7 4 ≠ 2 → Gives .splitTimeout s (fun t => t = s))

/-- COOLANT_SAMPLE, FLOW_LOSS, DIE_TEMPERATURE_SAMPLE and STACK_TEMPERATURE_SAMPLE (R261, R263, R266, R418-R422): samples show in their registers; a
low flow, a warm inlet, a hot die or a hot branch is a throttle; a hot stack is refreshed faster; and an inlet above 55 °C, a die at 115 °C, a stack
at 110 °C or lost flow holds every open context and takes the module into Doze, which it leaves once every die reads below 95 °C. -/
def Obligations.CoolantAndTemperatures : Prop :=
  let stopped := fun (s t : State) => (∀ x, x ≠ 0 → fld (s.ctx x).status 29 28 = 1 → fld (t.ctx x).status 29 28 = 2) ∧
    (s.powerState = 1 ∨ s.powerState = 5 ∧ s.power.entering ≠ 3 → t.powerState = 4 ∧ t.power.entering = 2 ∧ t.power.urgent = true)
  (∀ (flow inlet : BitVec 8) (s : State), Gives (.coolantSample flow inlet) s (fun t =>
    let v := t.power.status
    let f := flow.toNat
    let x := inlet.toNat
    fld v 27 20 = x ∧ fld v 19 12 = f ∧ bit v 11 = decide (x < 17) ∧ fld v 48 40 = t.capInForce ∧
    (f < 60 → bit v 57 = false) ∧ (60 ≤ f → bit s.power.status 57 = true → bit v 57 = true) ∧
    (∀ since, 60 ≤ f → s.power.flowSince = some since → 1000000000 ≤ (s.launchCounter - since).toNat → bit v 57 = true) ∧
    (40 ≤ f → f < 60 → t.throttled 6 0 0 = true) ∧ (f < 40 → t.throttled 6 0 0 = s.throttled 6 0 0) ∧ (45 < x → t.throttled 7 0 0 = true) ∧
    (55 < x → bit t.power.stopHold 2 = true) ∧ (55 < x → bit s.power.stopHold 2 = false → stopped s t) ∧
    (x ≤ 55 → bit t.power.stopHold 2 = false ∧ t.ctxs = s.ctxs))) ∧
  (∀ s : State, fld s.power.status 19 12 < 40 → Gives .flowLoss s (fun t => stopped s t ∧
    t.throttled 6 0 0 = true ∧ fld t.power.status 27 11 = fld s.power.status 27 11 ∧ fld t.power.status 48 40 = t.capInForce)) ∧
  (∀ s : State, 40 ≤ fld s.power.status 19 12 → Gives .flowLoss s (fun t => t = s)) ∧
  (∀ (die : BitVec 3) (x : BitVec 8) (s : State), let d := die.toNat
    3 ≤ d → d ≤ 6 → Gives (.dieTemperatureSample die x) s (fun t => tget 0 t.power.dieTemp d = x ∧
      (105 ≤ x.toNat → s.throttled 5 1 d = false → t.throttled 5 1 d = true ∧
        (tget 0 t.power.dieDown d).toNat = min 12 ((tget 0 s.power.dieDown d).toNat + 1)) ∧
      (x.toNat ≤ 102 → tget 0 t.power.dieDown d = 0) ∧
      (115 ≤ x.toNat → bit t.power.stopHold 1 = true) ∧ (115 ≤ x.toNat → bit s.power.stopHold 1 = false → stopped s t) ∧
      (bit s.power.stopHold 1 = true → (∀ i, 3 ≤ i → i ≤ 6 → (tget 0 t.power.dieTemp i).toNat < 95) →
        bit t.power.stopHold 1 = false ∧ t.power.wakePending = true ∧
        (s.powerState = 2 → s.split = false → t.mayWake = true → t.powerState = 5)) ∧
      (x.toNat < 115 → t.ctxs = s.ctxs) ∧ ∀ o, o ≠ d → tget 0 t.power.dieTemp o = tget 0 s.power.dieTemp o)) ∧
  (∀ (stack : BitVec 4) (x : BitVec 8) (s : State), let b := stack.toNat / 4
    let temp := fun (i : Nat) => if i = stack.toNat then x.toNat else (tget 0 s.stackTemp i).toNat
    let old := (tget 0 s.power.stackLevel b).toNat
    Gives (.stackTemperatureSample stack x) s (fun t => let new := (tget 0 t.power.stackLevel b).toNat
      (∀ i, (tget 0 t.stackTemp i).toNat = temp i) ∧ (∀ o, o ≠ b → tget 0 t.power.stackLevel o = tget 0 s.power.stackLevel o) ∧
      (∀ i, i < 4 → levelOf (temp (4 * b + i)) ≤ new) ∧
      (new ≠ old → new < old ∨ ∃ i, i < 4 ∧ levelOf (temp (4 * b + i)) = new) ∧
      (∀ ch, ch < 256 → ch / 64 = b → fld (t.channel ch).status 39 32 = temp (ch / 16) ∧
        fld (t.channel ch).status 31 30 = (if 2 ≤ new ∨ 95 ≤ temp (ch / 16) then 2 else if new = 1 ∨ 85 ≤ temp (ch / 16) then 1 else 0)) ∧
      (2 ≤ new → t.throttled 4 1 (3 + b) = true ∧ t.clusterClock (3 + b) ≤ if new = 2 then 16 else if new = 3 then 10 else 20) ∧
      (new = 4 → bit t.power.stopHold 0 = true) ∧ (new = 4 → bit s.power.stopHold 0 = false → stopped s t)))

/-! ### Timed mode and digests -/

/-- TIMED_MODE (R428; R398, R429 and R432 for its effect): enabling sets On and Intact, clears the record of the last breach, sets the clocks to 1.6 and 2.0 GHz
under any limit and runs every cluster's clock, unless the cap is below 2,800 W, Split is 1, FlowOk is 0 or the inlet is above 45 °C; ending clears On and leaves the policy. -/
def Obligations.TimedMode : Prop :=
  ∀ (aq : Bool) (s : State) (e : BitVec 512), let q := if aq then 1 else 0
    AdminReady s aq e 0x61 →
    (bit e 479 = true → 2800 ≤ 10 * s.capInForce → s.split = false → bit s.power.status 57 = true → fld s.power.status 27 20 ≤ 45 →
      Gives (.timedMode aq) s (fun t => Finished s t q e 0 ∧ t.timedOn = true ∧ bit t.timed 62 = true ∧ fld t.timed 127 64 = 0 ∧
        fld t.timed 61 58 = 0 ∧ fld t.timed 57 0 = fld s.timed 57 0 ∧ t.clusterTop = 16 ∧ t.coreTop = 8 ∧
        t.power = { s.power with timedMax := 16, timedCore := 8 } ∧
        ∀ c, c < 128 → t.cluster c = { s.cluster c with clock := .running })) ∧
    (bit e 479 = true →
      10 * s.capInForce < 2800 ∨ s.split = true ∨ bit s.power.status 57 = false ∨ 45 < fld s.power.status 27 20 →
      Gives (.timedMode aq) s (fun t => OnlyEntry s t q ∧ Finished s t q e 8 2)) ∧
    (bit e 479 = false → Gives (.timedMode aq) s (fun t => Finished s t q e 0 ∧ t.timedOn = false ∧ t.power = s.power ∧
      (∀ i, i < 63 ∨ 64 ≤ i → t.timed.getLsbD i = s.timed.getLsbD i) ∧
      (Tbl.wf {} s.clusters = true → ∀ c, t.cluster c = (s.cluster c).gateIdle)))

/-- REGION_DIGEST and DIGEST_CHUNK_DONE (R439-R442; the byte order of a digest is that of log 44): a digest job with good fields waits in its turn,
eight at most; each chunk adds its digest once no sector of it is under ordered reduction (R238), and the last ends the job with the record of the
root. -/
def Obligations.RegionDigests : Prop :=
  (∀ (aq : Bool) (s : State) (e : BitVec 512), let q := if aq then 1 else 0
    (AdminReady s aq e 0x64 →
      (digestOk e = true → fld (s.ctx (Dig.ctx e)).status 29 28 = 1 → s.digests.length < 8 →
        Gives (.regionDigest aq) s (fun t => Finished s t q e 0 ∧
          t.digests = s.digests ++ [{ cmd := e, gen := BitVec.ofNat 4 (s.genOf (Dig.ctx e)), next := 0, digests := [] }])) ∧
      (digestOk e = false → Gives (.regionDigest aq) s (fun t => OnlyEntry s t q ∧ Finished s t q e 8 1)) ∧
      (digestOk e = true → fld (s.ctx (Dig.ctx e)).status 29 28 ≠ 1 →
        Gives (.regionDigest aq) s (fun t => OnlyEntry s t q ∧ Finished s t q e 8 2)) ∧
      (digestOk e = true → fld (s.ctx (Dig.ctx e)).status 29 28 = 1 → 8 ≤ s.digests.length →
        Gives (.regionDigest aq) s (fun t => OnlyEntry s t q ∧ Finished s t q e 8 3)))) ∧
  (∀ (s : State) (j : DigestJob) (rest : List DigestJob), s.digests = j :: rest →
    let e := j.cmd
    let at_ := j.next * 2 ^ Dig.chunkLog e
    let n := min (2 ^ Dig.chunkLog e) (Dig.len e - at_)
    let read := State.digestRead (Dig.ctx e) (n / 128) (Dig.va e + at_) s
    (s.tracksVA (Dig.ctx e) (Dig.va e + at_) n = true → Gives .digestChunkDone s (fun t => t = s)) ∧
    (s.tracksVA (Dig.ctx e) (Dig.va e + at_) n = false →
    let written := fun (t : State) (r : List Byte) => s.host.attach = 2 → Dig.recHost e = true →
      { addr := BitVec.ofNat 64 (Dig.rcd e), bytes := r : HostWrite } ∈ t.host.stream
    (∀ bs, read.1 = .ok bs → j.next + 1 < Dig.chunks e → Gives .digestChunkDone s (fun t =>
      t.digests = { j with next := j.next + 1, digests := j.digests ++ [sha384 bs] } :: rest ∧ t.queues = s.queues ∧ t.clusters = s.clusters)) ∧
    (∀ bs, read.1 = .ok bs → Dig.chunks e ≤ j.next + 1 → Gives .digestChunkDone s (fun t => t.digests = rest ∧
      t.queues = s.queues ∧ t.clusters = s.clusters ∧
      written t (digestRecord e 1 0 (leNat (rootDigest (Dig.len e) (Dig.chunkLog e) (j.digests ++ [sha384 bs])))))) ∧
    (∀ st va, read.1 = .error (st, va) → Gives .digestChunkDone s (fun t => t.digests = rest ∧ t.queues = s.queues ∧
      written t (digestRecord e st va 0)))))

/-! ### Start-up, identity, test access and sideband -/

/-- COLD_START, COLD_START_STEP, INPUT_LOSS, MOD_EN_FALL and MOD_EN_RISE (R36, R415, R452, R455, R472): a start begins with every register at its
power-on value; a step waits for the one before it, step 3 for flow; the cluster map is not valid before step 10; step 8 trains every channel; step 12
sets up context 0, the admin queues and window 0; after step 13 the module is serviceable; loss of input turns everything off but the flash; MOD_EN
low ends a start under way, holds every context and begins the shutdown; a start that takes ModState back to 0 raises an alert (R470). -/
def Obligations.StartAndPowerLoss : Prop :=
  ∀ (s : State) (r : ColdFindings),
    let off := fun (t : State) => t.pending = s.pending ∧ t.sec.flash = s.sec.flash ∧ t.mem = [] ∧ t.ctxs = [] ∧ t.queues = [] ∧
      t.cores = [] ∧ t.clusters = [] ∧ t.links = [] ∧ t.modState = 0 ∧ t.launchCounter = 0 ∧ t.events.next = 1 ∧ t.host.attach = 0 ∧
      t.power.throttles = [] ∧ t.sec.idKey = none ∧ (∀ c ∈ t.channels, c.2.status = 0)
    let at_ := fun (t : State) (n : BitVec 4) => t.coldStep = n ∧ t.starting = true
    let begun := fun (t : State) => off t ∧ at_ t 1 ∧ t.sec.modEn = true ∧ t.sec.railsUp = [0xD] ∧
      t.sec.alert = s.sec.alert ||| (if s.modState = 0 then 0 else 1) ∧ t.sec.alertLow = (s.sec.alertLow || decide (s.modState ≠ 0))
    (s.coldStep = 0 → s.sec.modEn = true → Gives .coldStart s begun) ∧
    (s.coldStep ≠ 0 ∨ s.sec.modEn = false → Gives .coldStart s (fun t => t = s)) ∧
    Gives .inputLoss s (fun t => off t ∧ t.coldStep = 0 ∧ t.starting = false ∧ t.sec.modEn = s.sec.modEn) ∧
    (s.sec.modEn = true → s.coldStep ≠ 0 → Gives .modEnFall s (fun t => t.sec.modEn = false ∧ t.sec.shutting = true ∧
      t.refuseWork = true ∧ t.starting = false ∧ t.mem = [] ∧ t.events = {} ∧ t.sec.modPg = false ∧ t.sec.railsUp = [0xD] ∧
      (∀ h, ∀ p ∈ (t.half h).lines, p.2.valid = 0) ∧ t.sec.flash = s.sec.flash ∧
      ∀ x, x ≠ 0 → fld (s.ctx x).status 29 28 = 1 → fld (t.ctx x).status 29 28 = 2)) ∧
    (s.sec.modEn = true → s.coldStep = 0 → Gives .modEnFall s (fun t => t = { s with sec := { s.sec with modEn := false } })) ∧
    (s.sec.modEn = false → Gives .modEnFall s (fun t => t = s)) ∧
    (s.sec.shutting = true → Gives .modEnRise s begun) ∧
    (s.sec.shutting = false → Gives .modEnRise s (fun t => t = { s with sec := { s.sec with modEn := true } })) ∧
    (s.starting = true →
      (s.coldStep = 1 → Gives (.coldStartStep r) s (fun t => t = { s with coldStep := 2 })) ∧
      (s.coldStep = 2 → bit s.power.status 57 = false → Gives (.coldStartStep r) s (fun t => t = s)) ∧
      (s.coldStep = 2 → bit s.power.status 57 = true → Gives (.coldStartStep r) s (fun t => at_ t 3 ∧ t.sec.puf = r.puf ∧
        tget 0 t.sec.meas 0 = Config.romDigest ∧ bit t.sec.selfTest 0 = bit r.selfTestFail 0 ∧
        ((∀ f ∈ r.loopBack, loopBackPasses f = true) → t.clusters = s.clusters))) ∧
      (s.coldStep = 3 → s.modState ≠ 2 → Gives (.coldStartStep r) s (fun t => at_ t 4 ∧ t.west.part = BitVec.ofNat 64 (put 8 4 8) ∧
        bit t.power.status 59 = (bit r.selfTestFail 1 || bit r.agentFail 0))) ∧
      (s.coldStep = 6 → s.sec.verified = true → s.modState ≠ 3 → Gives (.coldStartStep r) s (fun t => at_ t 7 ∧
        ∀ c, c < 128 → bit (t.mapEntry c) 31 = false)) ∧
      (s.coldStep = 7 → Gives (.coldStartStep r) s (fun t => at_ t 8 ∧ (∀ ch, ch < 256 → fld (t.channel ch).status 7 4 = 1) ∧
        t.sec.railsUp = s.sec.railsUp ++ [0xA, 0xB])) ∧
      (s.coldStep = 8 → (∃ p ∈ s.channels, fld p.2.status 7 4 = 1) → Gives (.coldStartStep r) s (fun t => t = s)) ∧
      (s.coldStep = 10 → s.linksSettled [3, 4, 5, 6] = true → Gives (.coldStartStep r) s (fun t => at_ t 11 ∧
        ∀ n, n < 64 → (t.core n).mode = 3 ∧ tget 0 (t.core n).csr 0x3A0 = 0x9898)) ∧
      (s.coldStep = 11 → Gives (.coldStartStep r) s (fun t => at_ t 12 ∧ fld (t.ctx 0).status 29 28 = 1 ∧
        bit (t.ctx 0).xlat 0 = true ∧ (t.queue 0).st = 1 ∧ (t.queue 0).type = 0 ∧ (t.queue 0).armed = true ∧ (t.queue 0).cplHost = true ∧
        (t.queue 1).st = 1 ∧ (t.queue 1).armed = true ∧ (t.queue 1).ring = 0x200000 ∧ (t.queue 1).ringLog2 = 8 ∧
        (t.queue 1).cpl = 0x220000 ∧ Win.valid (tget 0 t.windows 0) = true ∧ Win.src (tget 0 t.windows 0) = 1 ∧
        Win.admits (tget 0 t.windows 0) 1 = true ∧ Win.gen (tget 0 t.windows 0) = t.genOf 0 ∧
        Win.length (tget 0 t.windows 0) = 256 * 4096)) ∧
      (s.coldStep = 12 → Gives (.coldStartStep r) s (fun t => t.starting = false ∧ t.coldStep = 15 ∧
        t.modState = (if s.modState = 0 then 1 else s.modState))))

/-- EPBEGIN, EPDATA, EPEND, EPABORT, EPSTATUS, ENDPAPER_VERIFY_DONE and ENDPAPER_PROGRAMMING_DONE (R386, R462-R465): under the end-to-end session each
update command runs in the states that accept it and is answered with Update and Detail, and is refused with Detail 8 in any other; a good staged
image begins to be programmed over an erased header, a bad one is rejected; programming ends in Update 4 with the image in the flash, or in Update 6. -/
def Obligations.EndpaperUpdates : Prop :=
  (∀ s : State, s.fabric.e2e.up = true →
    let k := s.sec
    let answer := fun (t : State) => { t with sec := s.sec, fabric := s.fabric } = s ∧
      t.fabric = { s.fabric with replies := s.fabric.replies ++ [[BitVec.ofNat 8 t.sec.update.toNat, BitVec.ofNat 8 t.sec.detail.toNat]] }
    let refusal := fun (t : State) =>
      t = { s with fabric := { s.fabric with replies := s.fabric.replies ++ [[BitVec.ofNat 8 k.update.toNat, 8]] } }
    let u := k.update.toNat
    (∀ (len : BitVec 32) (d : BitVec 384),
      (u = 0 ∨ u = 4 ∨ u = 5 ∨ u = 6 → Gives (.epBegin len d) s (fun t => answer t ∧ t.sec = { k with
        update := 1, detail := 0, stagedLen := len, stagedDigest := d, staged := [], stagedEnd := 0 })) ∧
      (1 ≤ u → u ≤ 3 → Gives (.epBegin len d) s refusal)) ∧
    (∀ (off : BitVec 32) (bs : List Byte),
      (u = 1 → off.toNat % 512 = 0 → 1 ≤ bs.length → bs.length ≤ 512 → off.toNat + bs.length ≤ 64 * 2 ^ 20 →
        Gives (.epData off bs) s (fun t => (s.coldStep.toNat < 9 → s.modState ≠ 3 → answer t) ∧
          (s.modState = 3 → t.mem = s.mem ∧ t.east = s.east ∧ t.cores = s.cores ∧ (s.west.reds = [] → s.west.trans = [] →
            8 ≤ s.west.scratchWays → s.west.bad = [] → ∀ i, i < bs.length →
              t.viewByte (scratchBase + off.toNat + i) = bs.getD i 0)) ∧
          { t with sec := s.sec, fabric := s.fabric, mem := s.mem, west := s.west, east := s.east, channels := s.channels,
                   cores := s.cores } = s ∧
          t.fabric = { s.fabric with replies := s.fabric.replies ++ [[BitVec.ofNat 8 t.sec.update.toNat, BitVec.ofNat 8 t.sec.detail.toNat]] } ∧
          t.sec = { k with
          staged := writeBytes k.staged off.toNat bs, stagedEnd := BitVec.ofNat 32 (max k.stagedEnd.toNat (off.toNat + bs.length)) } ∧
          readBytes t.sec.staged off.toNat bs.length = bs)) ∧
      (u ≠ 1 ∨ off.toNat % 512 ≠ 0 ∨ bs.length = 0 ∨ 512 < bs.length → Gives (.epData off bs) s refusal)) ∧
    (u = 1 → Gives .epEnd s (fun t => answer t ∧ t.sec = { k with update := 2, detail := 0 })) ∧
    (u ≠ 1 → Gives .epEnd s refusal) ∧
    (u = 1 ∨ u = 2 → Gives .epAbort s (fun t => answer t ∧ t.sec.update = 0 ∧ t.sec.detail = 0 ∧ t.sec.staged = [] ∧
      t.sec.flash = k.flash)) ∧
    (u ≠ 1 → u ≠ 2 → Gives .epAbort s refusal) ∧
    (u ≤ 6 → Gives .epStatus s (fun t => answer t ∧ t.sec = k))) ∧
  (∀ s : State, s.sec.update = 2 →
    (s.updateDetail ≠ 0 → Gives .endpaperVerifyDone s (fun t =>
      t = { s with sec := { s.sec with update := 5, detail := BitVec.ofNat 4 s.updateDetail } })) ∧
    (s.updateDetail = 0 → Gives .endpaperVerifyDone s (fun t => { t with sec := s.sec } = s ∧ t.sec.update = 3 ∧ t.sec.full = s.fullImage ∧
      flashBytes t.sec.flash 0 4096 = List.replicate 4096 0xFF ∧
      ∀ a, 4096 ≤ a → tget 0xFF t.sec.flash a = tget 0xFF s.sec.flash a))) ∧
  (∀ s : State, s.sec.update = 3 →
    (s.modState ≠ 3 → Gives (.endpaperProgrammingDone .written) s (fun t => { t with sec := s.sec } = s ∧ t.sec.update = 4 ∧
      t.sec.detail = 0 ∧ flashBytes t.sec.flash 0 s.sec.full.length = s.sec.full ∧ t.sec.staged = s.sec.staged ∧
      t.sec.imageLen = s.sec.full.length ∧ let erased := (max s.sec.imageLen s.sec.full.length + 65535) / 65536 * 65536
      ∀ a, (s.sec.full.length ≤ a → a < erased → tget 0xFF t.sec.flash a = 0xFF) ∧
        (erased ≤ a → tget 0xFF t.sec.flash a = tget 0xFF s.sec.flash a))) ∧
    (s.modState = 3 → Gives (.endpaperProgrammingDone .written) s (fun t => t.coldStep = 2 ∧ t.starting = true ∧
      flashBytes t.sec.flash 0 s.sec.full.length = s.sec.full ∧ bit t.sec.alert 0 = true ∧ bit t.power.status 57 = bit s.power.status 57)) ∧
    Gives (.endpaperProgrammingDone .programError) s (fun t => t = { s with sec := { s.sec with update := 6, detail := 6, full := [] } }) ∧
    Gives (.endpaperProgrammingDone .readBackMismatch) s (fun t =>
      t = { s with sec := { s.sec with update := 6, detail := 7, full := [] } }))

/-- ATTEST, MEASURE_EXTEND, MEASURE_EXTEND_REGISTER and the instructions of the test port (R460, R461, R466, R467, R478): evidence that names the
nonce and the measurements goes to the buffer, and is refused without the identity key; a measurement is extended by the digest of itself and the
value; the open network may run the loop-back of a port (R33); a rejected token uses up a try and draws a challenge, an accepted one raises the level and holds every context; locked instructions act as
BYPASS.

The SMBus commands (R470; the bytes that the packet error code covers are those of log 31): from cold-start step 1 on each answers its register
and the packet error code; the alert cause is cleared by the read, and an alert response
answers the address 0x62 and lets SMBALERT# go. -/
def Obligations.IdentityTestAccessAndSideband : Prop :=
  (
  (∀ (aq : Bool) (s : State) (e : BitVec 512), let q := if aq then 1 else 0
    (∀ key, AdminReady s aq e 0x68 → s.sec.idKey = some key → bit e 175 = true → s.host.attach = 2 → Gives (.attest aq) s (fun t =>
      Finished s t q e 0 ∧ t.sec.idKey = s.sec.idKey ∧ t.sec.meas = s.sec.meas ∧
      ∃ bs, SentToHost s t (BitVec.ofNat 64 (fld e 223 176)) bs ∧ leAt bs 0 4 = 0xA5C30419 ∧
        leAt bs 8 8 = s.host.moduleId.toNat ∧ sub_ bs 0x20 32 = leBytes 32 (fld e 479 224) ∧
        ∀ i, i < 8 → sub_ bs (0x40 + 48 * i) 48 = leBytes 48 (tget 0 s.sec.meas i).toNat)) ∧
    (AdminReady s aq e 0x68 → s.sec.idKey = none → Gives (.attest aq) s (fun t => OnlyEntry s t q ∧ Finished s t q e 8 2)) ∧
    (AdminReady s aq e 0x69 → Gives (.measureExtend aq) s (fun t => Finished s t q e 0 ∧
      tget 0 t.sec.meas 7 = digestNum (leBytes 48 (tget 0 s.sec.meas 7).toNat ++ leBytes 48 (fld e 479 96)) ∧
      ∀ i, i ≠ 7 → tget 0 t.sec.meas i = tget 0 s.sec.meas i))) ∧
  (∀ (n : BitVec 6) (v : BitVec 384) (s : State),
    ((s.core n.toNat).mode = 3 → Gives (.measureExtendRegister n v) s (fun t => { t with sec := s.sec } = s ∧
      { t.sec with meas := s.sec.meas } = s.sec ∧
      tget 0 t.sec.meas 7 = digestNum (leBytes 48 (tget 0 s.sec.meas 7).toNat ++ leBytes 48 v.toNat) ∧
      ∀ i, i ≠ 7 → tget 0 t.sec.meas i = tget 0 s.sec.meas i)) ∧
    ((s.core n.toNat).mode ≠ 3 → Gives (.measureExtendRegister n v) s (fun t => t = s))) ∧
  (∀ (s : State) (pins shiftIn : List Bool) (token : List Byte),
    let bypassed := fun (t : State) (bits : List Bool) => { t with sec := s.sec } = s ∧ t.sec.ir = 0xFF ∧
      t.sec.shiftOut = (false :: bits).take bits.length ∧ t.sec.unlock = s.sec.unlock
    (∀ b, Gives (.bypass b) s (fun t => bypassed t [b])) ∧
    Gives .idcode s (fun t => t = { s with sec := { s.sec with ir := 0x01, shiftOut := bitsOf 32 0x20416B47 } }) ∧
    Gives (.samplePreload pins shiftIn) s (fun t =>
      t = { s with sec := { s.sec with ir := 0x02, shiftOut := pins, boundary := shiftIn } }) ∧
    Gives (.extest pins shiftIn) s (fun t =>
      t = { s with sec := { s.sec with ir := 0x03, shiftOut := pins, boundary := shiftIn, pins := shiftIn } }) ∧
    Gives .unlockChal s (fun t => { t with sec := s.sec } = s ∧ t.sec.ir = 0x10 ∧ t.sec.shiftOut.length = 288 ∧
      ∀ i, i < 256 → t.sec.shiftOut.getD (32 + i) false = s.sec.challenge.getLsbD i) ∧
    (s.sec.tries ≠ 0 → s.tokenOk token = false → Gives (.unlockToken token) s (fun t => { t with sec := s.sec, free := s.free } = s ∧
      t.sec.tries = s.sec.tries - 1 ∧ t.sec.lastResult = 2 ∧ t.sec.unlock = s.sec.unlock ∧
      t.sec.challenge = BitVec.ofNat 256 (Config.random s.free).toNat)) ∧
    (s.sec.tries ≠ 0 → s.tokenOk token = true → Gives (.unlockToken token) s (fun t =>
      t.sec.unlock.toNat = leAt token 6 1 ∧ t.sec.lastResult = 1 ∧ t.sec.tries = s.sec.tries ∧ t.refuseWork = true ∧
      (leAt token 6 1 = 2 → t.sec.idKey = none ∧ ∀ p, p < 12 → fld (t.port p).status 31 28 = 0) ∧
      ∀ x, x ≠ 0 → fld (s.ctx x).status 29 28 = 1 → fld (t.ctx x).status 29 28 = 2)) ∧
    (s.sec.tries = 0 → Gives (.unlockToken token) s (fun t => bypassed t (token.flatMap (fun b => bitsOf 8 b.toNat)))) ∧
    (s.sec.unlock = 0 → Gives (.ijtag shiftIn) s (fun t => bypassed t shiftIn)) ∧
    (s.sec.unlock ≠ 0 → Gives (.ijtag shiftIn) s (fun t => ∃ u : State, { u with sec := s.sec, free := s.free } = s ∧ u.sec.ir = 0x20 ∧
      u.sec.ijtagIn = shiftIn ∧ u.sec.shiftOut.length = shiftIn.length ∧
      (Config.ijtagLoopBack shiftIn = none → t = u) ∧
      ∀ r, Config.ijtagLoopBack shiftIn = some r → (14 ≤ r.port.toNat → t = u) ∧
        (r.port.toNat < 14 → t = u.loopBack (r.port.toNat / 2) (r.port.toNat % 2 == 1) r))) ∧
    (s.sec.unlock.toNat < 2 → Gives (.intest shiftIn) s (fun t => bypassed t shiftIn)) ∧
    (2 ≤ s.sec.unlock.toNat → Gives (.intest shiftIn) s (fun t => { t with sec := s.sec, free := s.free } = s ∧ t.sec.ir = 0x04 ∧
      t.sec.ijtagIn = shiftIn ∧ t.sec.shiftOut.length = shiftIn.length)))) ∧
  (
  ∀ s : State, s.coldStep ≠ 0 →
    let answers := fun (t : State) (head bs : List Byte) =>
      t = { s with sec := { s.sec with smbus := bs, smbusPec := pec ([0xC4] ++ head ++ bs) } }
    Gives .smbusPowerStatus s (fun t => answers t [1, 0xC5, 8] (leBytes 8 s.powerStatus.toNat)) ∧
    (7 ≤ s.coldStep.toNat → Gives .smbusIdentity s (fun t => t.sec.smbus.length = 32 ∧
      (t.sec.smbus.take 8) = leBytes 8 s.host.moduleId.toNat ∧ answers t [2, 0xC5, 32] t.sec.smbus)) ∧
    (s.coldStep.toNat < 7 → Gives .smbusIdentity s (fun t => answers t [2, 0xC5, 32] (List.replicate 32 0))) ∧
    Gives .smbusModuleState s (fun t => answers t [3, 0xC5] [BitVec.ofNat 8 (s.modState.toNat + 16 * s.coldStep.toNat)]) ∧
    Gives .smbusAlertCause s (fun t => t.sec.alert = 0 ∧ answers { t with sec := { t.sec with alert := s.sec.alert } } [5, 0xC5] [s.sec.alert]) ∧
    (s.sec.alertLow = true → Gives .smbusAlertResponse s (fun t =>
      t = { s with sec := { s.sec with smbus := [0xC4], smbusPec := pec [0x19, 0xC4], alertLow := false } })) ∧
    (s.sec.alertLow = false → Gives .smbusAlertResponse s (fun t => t = s)))

end
end

