-- ==== Sys2Proof/Laws/Tables.lean ====
section
/-!
SUPPORT. What reading a sparse table gives after each way of changing it, and that each way keeps the canonical form.
-/

namespace Sys2Proof.Machine

variable {α : Type}

/-! ### Reading after writing -/

theorem tget_tdel_same (d : α) (t : Tbl α) (i : Nat) : tget d (tdel t i) i = d := by
  induction t with
  | nil => rfl
  | cons p t ih =>
    obtain ⟨k, v⟩ := p
    by_cases h : k = i
    · simpa [tdel, h] using ih
    · simpa [tdel, h, tget] using ih

theorem tget_tdel_other (d : α) (t : Tbl α) {i j : Nat} (h : j ≠ i) : tget d (tdel t i) j = tget d t j := by
  induction t with
  | nil => rfl
  | cons p t ih =>
    obtain ⟨k, v⟩ := p
    by_cases hk : k = i
    · subst hk
      simp only [tdel, ne_eq, not_true_eq_false, decide_false, Bool.false_eq_true, not_false_eq_true, List.filter_cons_of_neg, tget,
        if_neg (Ne.symm h)] at ih ⊢
      exact ih
    · have hc : tdel ((k, v) :: t) i = (k, v) :: tdel t i := by simp [tdel, hk]
      rw [hc]
      simp only [tget, ih]

theorem tget_tins_same (d : α) (t : Tbl α) (i : Nat) (x : α) : tget d (tins t i x) i = x := by
  induction t with
  | nil => simp [tins, tget]
  | cons p t ih =>
    obtain ⟨k, v⟩ := p
    simp only [tins]
    split
    · simp [tget]
    · split
      · simp [tget]
      · next hk => simp [tget, hk, ih]

theorem tget_tins_other (d : α) (t : Tbl α) {i j : Nat} (x : α) (h : j ≠ i) : tget d (tins t i x) j = tget d t j := by
  induction t with
  | nil => simp [tins, tget, Ne.symm h]
  | cons p t ih =>
    obtain ⟨k, v⟩ := p
    simp only [tins]
    split
    · simp [tget, Ne.symm h]
    · split
      · next hk => subst hk; simp [tget, Ne.symm h]
      · simp only [tget, ih]

/-- A written key reads as the value written. -/
@[simp] theorem tget_tput_same [DecidableEq α] (d : α) (t : Tbl α) (i : Nat) (x : α) : tget d (tput d t i x) i = x := by
  unfold tput
  split
  · next h => rw [tget_tdel_same, h]
  · exact tget_tins_same d t i x

/-- Any other key reads as before. -/
theorem tget_tput_other [DecidableEq α] (d : α) (t : Tbl α) {i j : Nat} (x : α) (h : j ≠ i) :
    tget d (tput d t i x) j = tget d t j := by
  unfold tput
  split
  · exact tget_tdel_other d t h
  · exact tget_tins_other d t x h

/-- A changed key reads as the changed value. -/
@[simp] theorem tget_tmod_same [DecidableEq α] (d : α) (t : Tbl α) (i : Nat) (f : α → α) :
    tget d (tmod d t i f) i = f (tget d t i) := by simp [tmod]

theorem tget_tmod_other [DecidableEq α] (d : α) (t : Tbl α) {i j : Nat} (f : α → α) (h : j ≠ i) :
    tget d (tmod d t i f) j = tget d t j := tget_tput_other d t _ h

/-- Every value of a mapped table is one that the map gives, or the default. -/
theorem tget_tmap_of_all [DecidableEq α] (d : α) (t : Tbl α) (f : Nat → α → α) (P : α → Prop) (hd : P d)
    (hf : ∀ i x, P (f i x)) (j : Nat) : P (tget d (tmap d t f) j) := by
  unfold tmap
  induction t with
  | nil => exact hd
  | cons p t ih =>
    obtain ⟨k, v⟩ := p
    by_cases hv : f k v = d
    · simpa [hv] using ih
    · have hc : ((k, v) :: t).map (fun p => (p.1, f p.1 p.2)) = (k, f k v) :: t.map (fun p => (p.1, f p.1 p.2)) := rfl
      rw [hc, List.filter_cons_of_pos (by simpa using hv)]
      simp only [tget]
      split
      · exact hf _ _
      · exact ih

/-! ### The canonical form -/

theorem tsorted_mono {t : Tbl α} : ∀ {b c : Nat}, c ≤ b → tsorted b t = true → tsorted c t = true := by
  cases t with
  | nil => intros; rfl
  | cons p t =>
    intro b c h hs
    simp only [tsorted, Bool.and_eq_true, decide_eq_true_eq] at hs ⊢
    exact ⟨by omega, hs.2⟩

/-- Keys of a sorted table are not below its bound. -/
theorem tget_below (d : α) {t : Tbl α} : ∀ {b i : Nat}, tsorted b t = true → i < b → tget d t i = d := by
  induction t with
  | nil => intros; rfl
  | cons p t ih =>
    obtain ⟨k, v⟩ := p
    intro b i hs hi
    simp only [tsorted, Bool.and_eq_true, decide_eq_true_eq] at hs
    have hk : k ≠ i := by omega
    simp only [tget, hk, ↓reduceIte]
    exact ih hs.2 (by omega)

theorem tsorted_filter (p : Nat × α → Bool) {t : Tbl α} : ∀ {b : Nat}, tsorted b t = true → tsorted b (t.filter p) = true := by
  induction t with
  | nil => intros; rfl
  | cons q t ih =>
    obtain ⟨k, v⟩ := q
    intro b hs
    simp only [tsorted, Bool.and_eq_true, decide_eq_true_eq] at hs
    by_cases hp : p (k, v)
    · simp only [List.filter_cons, hp, if_true, tsorted, Bool.and_eq_true, decide_eq_true_eq]
      exact ⟨hs.1, ih hs.2⟩
    · simp only [List.filter_cons, hp, Bool.false_eq_true, if_false]
      exact tsorted_mono (by omega) (ih hs.2)

theorem tsorted_tins {t : Tbl α} {i : Nat} {x : α} : ∀ {b : Nat}, b ≤ i → tsorted b t = true → tsorted b (tins t i x) = true := by
  induction t with
  | nil => intro b hb _; simp [tins, tsorted, hb]
  | cons p t ih =>
    obtain ⟨k, v⟩ := p
    intro b hb hs
    simp only [tsorted, Bool.and_eq_true, decide_eq_true_eq] at hs
    simp only [tins]
    split
    · next h =>
      simp only [tsorted, Bool.and_eq_true, decide_eq_true_eq]
      exact ⟨hb, by omega, hs.2⟩
    · split
      · next h => subst h; simp [tsorted, hb, hs.2]
      · next h1 h2 =>
        simp only [tsorted, Bool.and_eq_true, decide_eq_true_eq]
        exact ⟨hs.1, ih (by omega) hs.2⟩

theorem tsorted_map (f : Nat → α → α) {t : Tbl α} : ∀ {b : Nat}, tsorted b t = true →
    tsorted b (t.map (fun p => (p.1, f p.1 p.2))) = true := by
  induction t with
  | nil => intros; rfl
  | cons p t ih =>
    intro b hs
    simp only [tsorted, Bool.and_eq_true, decide_eq_true_eq] at hs
    simp only [List.map_cons, tsorted, Bool.and_eq_true, decide_eq_true_eq]
    exact ⟨hs.1, ih hs.2⟩

theorem mem_tins {t : Tbl α} {i : Nat} {x : α} {p : Nat × α} (h : p ∈ tins t i x) : p ∈ t ∨ p = (i, x) := by
  induction t with
  | nil => simp [tins] at h; exact .inr h
  | cons q t ih =>
    obtain ⟨k, v⟩ := q
    simp only [tins] at h
    split at h
    · rcases List.mem_cons.mp h with h | h
      · exact .inr h
      · exact .inl h
    · split at h
      · rcases List.mem_cons.mp h with h | h
        · exact .inr h
        · exact .inl (List.mem_cons_of_mem _ h)
      · rcases List.mem_cons.mp h with h | h
        · exact .inl (by simp [h])
        · rcases ih h with h | h
          · exact .inl (List.mem_cons_of_mem _ h)
          · exact .inr h

theorem Tbl.wf_iff [DecidableEq α] {d : α} {t : Tbl α} :
    Tbl.wf d t = true ↔ tsorted 0 t = true ∧ ∀ p ∈ t, p.2 ≠ d := by
  simp [Tbl.wf, List.all_eq_true]

/-- Writing a key keeps the canonical form. -/
theorem Tbl.wf_tput [DecidableEq α] {d : α} {t : Tbl α} (h : Tbl.wf d t = true) (i : Nat) (x : α) :
    Tbl.wf d (tput d t i x) = true := by
  rw [Tbl.wf_iff] at h ⊢
  unfold tput
  split
  · refine ⟨tsorted_filter _ h.1, ?_⟩
    intro p hp
    exact h.2 p ((List.mem_filter.mp hp).1)
  · next hx =>
    refine ⟨tsorted_tins (Nat.zero_le _) h.1, ?_⟩
    intro p hp
    rcases mem_tins hp with hp | rfl
    · exact h.2 p hp
    · exact hx

/-- Changing a key keeps the canonical form. -/
theorem Tbl.wf_tmod [DecidableEq α] {d : α} {t : Tbl α} (h : Tbl.wf d t = true) (i : Nat) (f : α → α) :
    Tbl.wf d (tmod d t i f) = true := Tbl.wf_tput h i _

/-- Changing every listed value keeps the canonical form. -/
theorem Tbl.wf_tmap [DecidableEq α] {d : α} {t : Tbl α} (h : Tbl.wf d t = true) (f : Nat → α → α) :
    Tbl.wf d (tmap d t f) = true := by
  rw [Tbl.wf_iff] at h ⊢
  refine ⟨tsorted_filter _ (tsorted_map f h.1), ?_⟩
  intro p hp
  simpa using (List.mem_filter.mp hp).2

/-- Removing entries keeps the canonical form. -/
theorem Tbl.wf_filter [DecidableEq α] {d : α} {t : Tbl α} (h : Tbl.wf d t = true) (p : Nat × α → Bool) :
    Tbl.wf d (t.filter p) = true := by
  rw [Tbl.wf_iff] at h ⊢
  exact ⟨tsorted_filter p h.1, fun q hq => h.2 q ((List.mem_filter.mp hq).1)⟩

/-- In canonical form a mapped table reads as the map of what was read, where the default maps to itself. -/
theorem tget_tmap [DecidableEq α] {d : α} {t : Tbl α} {f : Nat → α → α} (hf : ∀ i, f i d = d) :
    ∀ {b : Nat}, tsorted b t = true → ∀ j, tget d (tmap d t f) j = f j (tget d t j) := by
  unfold tmap
  induction t with
  | nil => intro b _ j; simp [tget, hf]
  | cons p t ih =>
    obtain ⟨k, v⟩ := p
    intro b hs j
    simp only [tsorted, Bool.and_eq_true, decide_eq_true_eq] at hs
    have ih := ih hs.2 j
    by_cases hk : k = j
    · subst hk
      by_cases hv : f k v = d
      · have hlow : tget d t k = d := tget_below d hs.2 (by omega)
        rw [hlow, hf] at ih
        simpa [hv, tget] using ih
      · simp [hv, tget]
    · by_cases hv : f k v = d
      · simpa [hv, tget, hk] using ih
      · simpa [hv, tget, hk] using ih

/-! ### Bytes -/

@[simp] theorem readBytes_length (t : Tbl Byte) (n : Nat) : ∀ a, (readBytes t a n).length = n := by
  induction n with
  | zero => intro a; rfl
  | succ n ih => intro a; simp [readBytes, ih]

/-- Writing bytes keeps the canonical form. -/
theorem Tbl.wf_writeBytes {t : Tbl Byte} (h : Tbl.wf (α := Byte) 0 t = true) (bs : List Byte) : ∀ a,
    Tbl.wf (α := Byte) 0 (writeBytes t a bs) = true := by
  induction bs generalizing t with
  | nil => intro a; exact h
  | cons b bs ih => intro a; exact ih (Tbl.wf_tput h a b) (a + 1)

/-- A byte outside those written reads as before. -/
theorem tget_writeBytes_other (bs : List Byte) : ∀ (t : Tbl Byte) (a j : Nat), j < a ∨ a + bs.length ≤ j →
    tget 0 (writeBytes t a bs) j = tget 0 t j := by
  induction bs with
  | nil => intros; rfl
  | cons b bs ih =>
    intro t a j h
    simp only [List.length_cons] at h
    rw [writeBytes, ih _ _ _ (by omega), tget_tput_other _ _ _ (by omega)]

/-- A byte written reads as the byte written. -/
theorem tget_writeBytes (bs : List Byte) : ∀ (t : Tbl Byte) (a i : Nat), i < bs.length →
    tget 0 (writeBytes t a bs) (a + i) = bs.getD i 0 := by
  induction bs with
  | nil => intro t a i h; simp at h
  | cons b bs ih =>
    intro t a i h
    cases i with
    | zero => rw [writeBytes, tget_writeBytes_other _ _ _ _ (by omega)]; simp
    | succ i =>
      have hi : i < bs.length := by simpa using h
      have := ih (tput 0 t a b) (a + 1) i hi
      rw [writeBytes, show a + (i + 1) = a + 1 + i by omega, this]; simp

/-- Bytes read where bytes were written are the bytes written. -/
theorem readBytes_writeBytes (bs : List Byte) : ∀ (t : Tbl Byte) (a : Nat), readBytes (writeBytes t a bs) a bs.length = bs := by
  induction bs with
  | nil => intros; rfl
  | cons b bs ih =>
    intro t a
    simp only [List.length_cons, readBytes]
    have h0 := tget_writeBytes (b :: bs) t a 0 (by simp)
    simp only [Nat.add_zero, List.getD_cons_zero] at h0
    rw [h0]
    simp only [writeBytes]
    rw [ih]

@[simp] theorem leBytes_length (n : Nat) : ∀ v, (leBytes n v).length = n := by
  induction n with
  | zero => intro v; rfl
  | succ n ih => intro v; simp [leBytes, ih]

end Sys2Proof.Machine
end

