-- ==== Sys2Proof/Laws/State.lean ====
section
/-!
SUPPORT. For each named update of the state, what each field and each unit is afterwards.
-/

namespace Sys2Proof.Machine

variable (s : State)

/-! ### modCluster -/

@[simp] theorem State.modCluster_pending (k : Nat) (f : Cluster → Cluster) : (s.modCluster k f).pending = s.pending := rfl
@[simp] theorem State.modCluster_launchCounter (k : Nat) (f : Cluster → Cluster) : (s.modCluster k f).launchCounter = s.launchCounter := rfl
@[simp] theorem State.modCluster_free (k : Nat) (f : Cluster → Cluster) : (s.modCluster k f).free = s.free := rfl
@[simp] theorem State.modCluster_modState (k : Nat) (f : Cluster → Cluster) : (s.modCluster k f).modState = s.modState := rfl
@[simp] theorem State.modCluster_coldStep (k : Nat) (f : Cluster → Cluster) : (s.modCluster k f).coldStep = s.coldStep := rfl
@[simp] theorem State.modCluster_refuseWork (k : Nat) (f : Cluster → Cluster) : (s.modCluster k f).refuseWork = s.refuseWork := rfl
@[simp] theorem State.modCluster_starting (k : Nat) (f : Cluster → Cluster) : (s.modCluster k f).starting = s.starting := rfl
@[simp] theorem State.modCluster_sh (k : Nat) (f : Cluster → Cluster) : (s.modCluster k f).sh = s.sh := rfl
@[simp] theorem State.modCluster_links (k : Nat) (f : Cluster → Cluster) : (s.modCluster k f).links = s.links := rfl
@[simp] theorem State.modCluster_clusterMap (k : Nat) (f : Cluster → Cluster) : (s.modCluster k f).clusterMap = s.clusterMap := rfl
@[simp] theorem State.modCluster_mem (k : Nat) (f : Cluster → Cluster) : (s.modCluster k f).mem = s.mem := rfl
@[simp] theorem State.modCluster_west (k : Nat) (f : Cluster → Cluster) : (s.modCluster k f).west = s.west := rfl
@[simp] theorem State.modCluster_east (k : Nat) (f : Cluster → Cluster) : (s.modCluster k f).east = s.east := rfl
@[simp] theorem State.modCluster_channels (k : Nat) (f : Cluster → Cluster) : (s.modCluster k f).channels = s.channels := rfl
@[simp] theorem State.modCluster_stackTemp (k : Nat) (f : Cluster → Cluster) : (s.modCluster k f).stackTemp = s.stackTemp := rfl
@[simp] theorem State.modCluster_cores (k : Nat) (f : Cluster → Cluster) : (s.modCluster k f).cores = s.cores := rfl
@[simp] theorem State.modCluster_ctxs (k : Nat) (f : Cluster → Cluster) : (s.modCluster k f).ctxs = s.ctxs := rfl
@[simp] theorem State.modCluster_queues (k : Nat) (f : Cluster → Cluster) : (s.modCluster k f).queues = s.queues := rfl
@[simp] theorem State.modCluster_adminLast (k : Nat) (f : Cluster → Cluster) : (s.modCluster k f).adminLast = s.adminLast := rfl
@[simp] theorem State.modCluster_holding (k : Nat) (f : Cluster → Cluster) : (s.modCluster k f).holding = s.holding := rfl
@[simp] theorem State.modCluster_walkPending (k : Nat) (f : Cluster → Cluster) : (s.modCluster k f).walkPending = s.walkPending := rfl
@[simp] theorem State.modCluster_windows (k : Nat) (f : Cluster → Cluster) : (s.modCluster k f).windows = s.windows := rfl
@[simp] theorem State.modCluster_engines (k : Nat) (f : Cluster → Cluster) : (s.modCluster k f).engines = s.engines := rfl
@[simp] theorem State.modCluster_faultLog (k : Nat) (f : Cluster → Cluster) : (s.modCluster k f).faultLog = s.faultLog := rfl
@[simp] theorem State.modCluster_host (k : Nat) (f : Cluster → Cluster) : (s.modCluster k f).host = s.host := rfl
@[simp] theorem State.modCluster_events (k : Nat) (f : Cluster → Cluster) : (s.modCluster k f).events = s.events := rfl
@[simp] theorem State.modCluster_ports (k : Nat) (f : Cluster → Cluster) : (s.modCluster k f).ports = s.ports := rfl
@[simp] theorem State.modCluster_fabric (k : Nat) (f : Cluster → Cluster) : (s.modCluster k f).fabric = s.fabric := rfl
@[simp] theorem State.modCluster_gates (k : Nat) (f : Cluster → Cluster) : (s.modCluster k f).gates = s.gates := rfl
@[simp] theorem State.modCluster_power (k : Nat) (f : Cluster → Cluster) : (s.modCluster k f).power = s.power := rfl
@[simp] theorem State.modCluster_timed (k : Nat) (f : Cluster → Cluster) : (s.modCluster k f).timed = s.timed := rfl
@[simp] theorem State.modCluster_timedRef (k : Nat) (f : Cluster → Cluster) : (s.modCluster k f).timedRef = s.timedRef := rfl
@[simp] theorem State.modCluster_digests (k : Nat) (f : Cluster → Cluster) : (s.modCluster k f).digests = s.digests := rfl
@[simp] theorem State.modCluster_sec (k : Nat) (f : Cluster → Cluster) : (s.modCluster k f).sec = s.sec := rfl
@[simp] theorem State.modCluster_cluster_same (k : Nat) (f : Cluster → Cluster) : (s.modCluster k f).cluster k = f (s.cluster k) := by
  simp [State.modCluster, State.cluster]
theorem State.modCluster_cluster_other {i k : Nat} (f : Cluster → Cluster) (h : i ≠ k) : (s.modCluster k f).cluster i = s.cluster i := tget_tmod_other _ _ f h
@[simp] theorem State.modCluster_ctx (k : Nat) (f : Cluster → Cluster) (i : Nat) : (s.modCluster k f).ctx i = s.ctx i := rfl
@[simp] theorem State.modCluster_queue (k : Nat) (f : Cluster → Cluster) (i : Nat) : (s.modCluster k f).queue i = s.queue i := rfl
@[simp] theorem State.modCluster_engine (k : Nat) (f : Cluster → Cluster) (i : Nat) : (s.modCluster k f).engine i = s.engine i := rfl
@[simp] theorem State.modCluster_core (k : Nat) (f : Cluster → Cluster) (i : Nat) : (s.modCluster k f).core i = s.core i := rfl
@[simp] theorem State.modCluster_channel (k : Nat) (f : Cluster → Cluster) (i : Nat) : (s.modCluster k f).channel i = s.channel i := rfl
@[simp] theorem State.modCluster_linkEnd (k : Nat) (f : Cluster → Cluster) (i : Nat) : (s.modCluster k f).linkEnd i = s.linkEnd i := rfl
@[simp] theorem State.modCluster_port (k : Nat) (f : Cluster → Cluster) (i : Nat) : (s.modCluster k f).port i = s.port i := rfl
@[simp] theorem State.modCluster_gate (k : Nat) (f : Cluster → Cluster) (i : Nat) : (s.modCluster k f).gate i = s.gate i := rfl
@[simp] theorem State.modCluster_half (k : Nat) (f : Cluster → Cluster) (h : Bool) : (s.modCluster k f).half h = s.half h := rfl

/-! ### modCtx -/

@[simp] theorem State.modCtx_pending (k : Nat) (f : Ctx → Ctx) : (s.modCtx k f).pending = s.pending := rfl
@[simp] theorem State.modCtx_launchCounter (k : Nat) (f : Ctx → Ctx) : (s.modCtx k f).launchCounter = s.launchCounter := rfl
@[simp] theorem State.modCtx_free (k : Nat) (f : Ctx → Ctx) : (s.modCtx k f).free = s.free := rfl
@[simp] theorem State.modCtx_modState (k : Nat) (f : Ctx → Ctx) : (s.modCtx k f).modState = s.modState := rfl
@[simp] theorem State.modCtx_coldStep (k : Nat) (f : Ctx → Ctx) : (s.modCtx k f).coldStep = s.coldStep := rfl
@[simp] theorem State.modCtx_refuseWork (k : Nat) (f : Ctx → Ctx) : (s.modCtx k f).refuseWork = s.refuseWork := rfl
@[simp] theorem State.modCtx_starting (k : Nat) (f : Ctx → Ctx) : (s.modCtx k f).starting = s.starting := rfl
@[simp] theorem State.modCtx_sh (k : Nat) (f : Ctx → Ctx) : (s.modCtx k f).sh = s.sh := rfl
@[simp] theorem State.modCtx_links (k : Nat) (f : Ctx → Ctx) : (s.modCtx k f).links = s.links := rfl
@[simp] theorem State.modCtx_clusterMap (k : Nat) (f : Ctx → Ctx) : (s.modCtx k f).clusterMap = s.clusterMap := rfl
@[simp] theorem State.modCtx_clusters (k : Nat) (f : Ctx → Ctx) : (s.modCtx k f).clusters = s.clusters := rfl
@[simp] theorem State.modCtx_mem (k : Nat) (f : Ctx → Ctx) : (s.modCtx k f).mem = s.mem := rfl
@[simp] theorem State.modCtx_west (k : Nat) (f : Ctx → Ctx) : (s.modCtx k f).west = s.west := rfl
@[simp] theorem State.modCtx_east (k : Nat) (f : Ctx → Ctx) : (s.modCtx k f).east = s.east := rfl
@[simp] theorem State.modCtx_channels (k : Nat) (f : Ctx → Ctx) : (s.modCtx k f).channels = s.channels := rfl
@[simp] theorem State.modCtx_stackTemp (k : Nat) (f : Ctx → Ctx) : (s.modCtx k f).stackTemp = s.stackTemp := rfl
@[simp] theorem State.modCtx_cores (k : Nat) (f : Ctx → Ctx) : (s.modCtx k f).cores = s.cores := rfl
@[simp] theorem State.modCtx_queues (k : Nat) (f : Ctx → Ctx) : (s.modCtx k f).queues = s.queues := rfl
@[simp] theorem State.modCtx_adminLast (k : Nat) (f : Ctx → Ctx) : (s.modCtx k f).adminLast = s.adminLast := rfl
@[simp] theorem State.modCtx_holding (k : Nat) (f : Ctx → Ctx) : (s.modCtx k f).holding = s.holding := rfl
@[simp] theorem State.modCtx_walkPending (k : Nat) (f : Ctx → Ctx) : (s.modCtx k f).walkPending = s.walkPending := rfl
@[simp] theorem State.modCtx_windows (k : Nat) (f : Ctx → Ctx) : (s.modCtx k f).windows = s.windows := rfl
@[simp] theorem State.modCtx_engines (k : Nat) (f : Ctx → Ctx) : (s.modCtx k f).engines = s.engines := rfl
@[simp] theorem State.modCtx_faultLog (k : Nat) (f : Ctx → Ctx) : (s.modCtx k f).faultLog = s.faultLog := rfl
@[simp] theorem State.modCtx_host (k : Nat) (f : Ctx → Ctx) : (s.modCtx k f).host = s.host := rfl
@[simp] theorem State.modCtx_events (k : Nat) (f : Ctx → Ctx) : (s.modCtx k f).events = s.events := rfl
@[simp] theorem State.modCtx_ports (k : Nat) (f : Ctx → Ctx) : (s.modCtx k f).ports = s.ports := rfl
@[simp] theorem State.modCtx_fabric (k : Nat) (f : Ctx → Ctx) : (s.modCtx k f).fabric = s.fabric := rfl
@[simp] theorem State.modCtx_gates (k : Nat) (f : Ctx → Ctx) : (s.modCtx k f).gates = s.gates := rfl
@[simp] theorem State.modCtx_power (k : Nat) (f : Ctx → Ctx) : (s.modCtx k f).power = s.power := rfl
@[simp] theorem State.modCtx_timed (k : Nat) (f : Ctx → Ctx) : (s.modCtx k f).timed = s.timed := rfl
@[simp] theorem State.modCtx_timedRef (k : Nat) (f : Ctx → Ctx) : (s.modCtx k f).timedRef = s.timedRef := rfl
@[simp] theorem State.modCtx_digests (k : Nat) (f : Ctx → Ctx) : (s.modCtx k f).digests = s.digests := rfl
@[simp] theorem State.modCtx_sec (k : Nat) (f : Ctx → Ctx) : (s.modCtx k f).sec = s.sec := rfl
@[simp] theorem State.modCtx_ctx_same (k : Nat) (f : Ctx → Ctx) : (s.modCtx k f).ctx k = f (s.ctx k) := by
  simp [State.modCtx, State.ctx]
theorem State.modCtx_ctx_other {i k : Nat} (f : Ctx → Ctx) (h : i ≠ k) : (s.modCtx k f).ctx i = s.ctx i := tget_tmod_other _ _ f h
@[simp] theorem State.modCtx_cluster (k : Nat) (f : Ctx → Ctx) (i : Nat) : (s.modCtx k f).cluster i = s.cluster i := rfl
@[simp] theorem State.modCtx_queue (k : Nat) (f : Ctx → Ctx) (i : Nat) : (s.modCtx k f).queue i = s.queue i := rfl
@[simp] theorem State.modCtx_engine (k : Nat) (f : Ctx → Ctx) (i : Nat) : (s.modCtx k f).engine i = s.engine i := rfl
@[simp] theorem State.modCtx_core (k : Nat) (f : Ctx → Ctx) (i : Nat) : (s.modCtx k f).core i = s.core i := rfl
@[simp] theorem State.modCtx_channel (k : Nat) (f : Ctx → Ctx) (i : Nat) : (s.modCtx k f).channel i = s.channel i := rfl
@[simp] theorem State.modCtx_linkEnd (k : Nat) (f : Ctx → Ctx) (i : Nat) : (s.modCtx k f).linkEnd i = s.linkEnd i := rfl
@[simp] theorem State.modCtx_port (k : Nat) (f : Ctx → Ctx) (i : Nat) : (s.modCtx k f).port i = s.port i := rfl
@[simp] theorem State.modCtx_gate (k : Nat) (f : Ctx → Ctx) (i : Nat) : (s.modCtx k f).gate i = s.gate i := rfl
@[simp] theorem State.modCtx_half (k : Nat) (f : Ctx → Ctx) (h : Bool) : (s.modCtx k f).half h = s.half h := rfl

/-! ### modQueue -/

@[simp] theorem State.modQueue_pending (k : Nat) (f : Queue → Queue) : (s.modQueue k f).pending = s.pending := rfl
@[simp] theorem State.modQueue_launchCounter (k : Nat) (f : Queue → Queue) : (s.modQueue k f).launchCounter = s.launchCounter := rfl
@[simp] theorem State.modQueue_free (k : Nat) (f : Queue → Queue) : (s.modQueue k f).free = s.free := rfl
@[simp] theorem State.modQueue_modState (k : Nat) (f : Queue → Queue) : (s.modQueue k f).modState = s.modState := rfl
@[simp] theorem State.modQueue_coldStep (k : Nat) (f : Queue → Queue) : (s.modQueue k f).coldStep = s.coldStep := rfl
@[simp] theorem State.modQueue_refuseWork (k : Nat) (f : Queue → Queue) : (s.modQueue k f).refuseWork = s.refuseWork := rfl
@[simp] theorem State.modQueue_starting (k : Nat) (f : Queue → Queue) : (s.modQueue k f).starting = s.starting := rfl
@[simp] theorem State.modQueue_sh (k : Nat) (f : Queue → Queue) : (s.modQueue k f).sh = s.sh := rfl
@[simp] theorem State.modQueue_links (k : Nat) (f : Queue → Queue) : (s.modQueue k f).links = s.links := rfl
@[simp] theorem State.modQueue_clusterMap (k : Nat) (f : Queue → Queue) : (s.modQueue k f).clusterMap = s.clusterMap := rfl
@[simp] theorem State.modQueue_clusters (k : Nat) (f : Queue → Queue) : (s.modQueue k f).clusters = s.clusters := rfl
@[simp] theorem State.modQueue_mem (k : Nat) (f : Queue → Queue) : (s.modQueue k f).mem = s.mem := rfl
@[simp] theorem State.modQueue_west (k : Nat) (f : Queue → Queue) : (s.modQueue k f).west = s.west := rfl
@[simp] theorem State.modQueue_east (k : Nat) (f : Queue → Queue) : (s.modQueue k f).east = s.east := rfl
@[simp] theorem State.modQueue_channels (k : Nat) (f : Queue → Queue) : (s.modQueue k f).channels = s.channels := rfl
@[simp] theorem State.modQueue_stackTemp (k : Nat) (f : Queue → Queue) : (s.modQueue k f).stackTemp = s.stackTemp := rfl
@[simp] theorem State.modQueue_cores (k : Nat) (f : Queue → Queue) : (s.modQueue k f).cores = s.cores := rfl
@[simp] theorem State.modQueue_ctxs (k : Nat) (f : Queue → Queue) : (s.modQueue k f).ctxs = s.ctxs := rfl
@[simp] theorem State.modQueue_adminLast (k : Nat) (f : Queue → Queue) : (s.modQueue k f).adminLast = s.adminLast := rfl
@[simp] theorem State.modQueue_holding (k : Nat) (f : Queue → Queue) : (s.modQueue k f).holding = s.holding := rfl
@[simp] theorem State.modQueue_walkPending (k : Nat) (f : Queue → Queue) : (s.modQueue k f).walkPending = s.walkPending := rfl
@[simp] theorem State.modQueue_windows (k : Nat) (f : Queue → Queue) : (s.modQueue k f).windows = s.windows := rfl
@[simp] theorem State.modQueue_engines (k : Nat) (f : Queue → Queue) : (s.modQueue k f).engines = s.engines := rfl
@[simp] theorem State.modQueue_faultLog (k : Nat) (f : Queue → Queue) : (s.modQueue k f).faultLog = s.faultLog := rfl
@[simp] theorem State.modQueue_host (k : Nat) (f : Queue → Queue) : (s.modQueue k f).host = s.host := rfl
@[simp] theorem State.modQueue_events (k : Nat) (f : Queue → Queue) : (s.modQueue k f).events = s.events := rfl
@[simp] theorem State.modQueue_ports (k : Nat) (f : Queue → Queue) : (s.modQueue k f).ports = s.ports := rfl
@[simp] theorem State.modQueue_fabric (k : Nat) (f : Queue → Queue) : (s.modQueue k f).fabric = s.fabric := rfl
@[simp] theorem State.modQueue_gates (k : Nat) (f : Queue → Queue) : (s.modQueue k f).gates = s.gates := rfl
@[simp] theorem State.modQueue_power (k : Nat) (f : Queue → Queue) : (s.modQueue k f).power = s.power := rfl
@[simp] theorem State.modQueue_timed (k : Nat) (f : Queue → Queue) : (s.modQueue k f).timed = s.timed := rfl
@[simp] theorem State.modQueue_timedRef (k : Nat) (f : Queue → Queue) : (s.modQueue k f).timedRef = s.timedRef := rfl
@[simp] theorem State.modQueue_digests (k : Nat) (f : Queue → Queue) : (s.modQueue k f).digests = s.digests := rfl
@[simp] theorem State.modQueue_sec (k : Nat) (f : Queue → Queue) : (s.modQueue k f).sec = s.sec := rfl
@[simp] theorem State.modQueue_queue_same (k : Nat) (f : Queue → Queue) : (s.modQueue k f).queue k = f (s.queue k) := by
  simp [State.modQueue, State.queue]
theorem State.modQueue_queue_other {i k : Nat} (f : Queue → Queue) (h : i ≠ k) : (s.modQueue k f).queue i = s.queue i := tget_tmod_other _ _ f h
@[simp] theorem State.modQueue_cluster (k : Nat) (f : Queue → Queue) (i : Nat) : (s.modQueue k f).cluster i = s.cluster i := rfl
@[simp] theorem State.modQueue_ctx (k : Nat) (f : Queue → Queue) (i : Nat) : (s.modQueue k f).ctx i = s.ctx i := rfl
@[simp] theorem State.modQueue_engine (k : Nat) (f : Queue → Queue) (i : Nat) : (s.modQueue k f).engine i = s.engine i := rfl
@[simp] theorem State.modQueue_core (k : Nat) (f : Queue → Queue) (i : Nat) : (s.modQueue k f).core i = s.core i := rfl
@[simp] theorem State.modQueue_channel (k : Nat) (f : Queue → Queue) (i : Nat) : (s.modQueue k f).channel i = s.channel i := rfl
@[simp] theorem State.modQueue_linkEnd (k : Nat) (f : Queue → Queue) (i : Nat) : (s.modQueue k f).linkEnd i = s.linkEnd i := rfl
@[simp] theorem State.modQueue_port (k : Nat) (f : Queue → Queue) (i : Nat) : (s.modQueue k f).port i = s.port i := rfl
@[simp] theorem State.modQueue_gate (k : Nat) (f : Queue → Queue) (i : Nat) : (s.modQueue k f).gate i = s.gate i := rfl
@[simp] theorem State.modQueue_half (k : Nat) (f : Queue → Queue) (h : Bool) : (s.modQueue k f).half h = s.half h := rfl

/-! ### modEngine -/

@[simp] theorem State.modEngine_pending (k : Nat) (f : CopyEngine → CopyEngine) : (s.modEngine k f).pending = s.pending := rfl
@[simp] theorem State.modEngine_launchCounter (k : Nat) (f : CopyEngine → CopyEngine) : (s.modEngine k f).launchCounter = s.launchCounter := rfl
@[simp] theorem State.modEngine_free (k : Nat) (f : CopyEngine → CopyEngine) : (s.modEngine k f).free = s.free := rfl
@[simp] theorem State.modEngine_modState (k : Nat) (f : CopyEngine → CopyEngine) : (s.modEngine k f).modState = s.modState := rfl
@[simp] theorem State.modEngine_coldStep (k : Nat) (f : CopyEngine → CopyEngine) : (s.modEngine k f).coldStep = s.coldStep := rfl
@[simp] theorem State.modEngine_refuseWork (k : Nat) (f : CopyEngine → CopyEngine) : (s.modEngine k f).refuseWork = s.refuseWork := rfl
@[simp] theorem State.modEngine_starting (k : Nat) (f : CopyEngine → CopyEngine) : (s.modEngine k f).starting = s.starting := rfl
@[simp] theorem State.modEngine_sh (k : Nat) (f : CopyEngine → CopyEngine) : (s.modEngine k f).sh = s.sh := rfl
@[simp] theorem State.modEngine_links (k : Nat) (f : CopyEngine → CopyEngine) : (s.modEngine k f).links = s.links := rfl
@[simp] theorem State.modEngine_clusterMap (k : Nat) (f : CopyEngine → CopyEngine) : (s.modEngine k f).clusterMap = s.clusterMap := rfl
@[simp] theorem State.modEngine_clusters (k : Nat) (f : CopyEngine → CopyEngine) : (s.modEngine k f).clusters = s.clusters := rfl
@[simp] theorem State.modEngine_mem (k : Nat) (f : CopyEngine → CopyEngine) : (s.modEngine k f).mem = s.mem := rfl
@[simp] theorem State.modEngine_west (k : Nat) (f : CopyEngine → CopyEngine) : (s.modEngine k f).west = s.west := rfl
@[simp] theorem State.modEngine_east (k : Nat) (f : CopyEngine → CopyEngine) : (s.modEngine k f).east = s.east := rfl
@[simp] theorem State.modEngine_channels (k : Nat) (f : CopyEngine → CopyEngine) : (s.modEngine k f).channels = s.channels := rfl
@[simp] theorem State.modEngine_stackTemp (k : Nat) (f : CopyEngine → CopyEngine) : (s.modEngine k f).stackTemp = s.stackTemp := rfl
@[simp] theorem State.modEngine_cores (k : Nat) (f : CopyEngine → CopyEngine) : (s.modEngine k f).cores = s.cores := rfl
@[simp] theorem State.modEngine_ctxs (k : Nat) (f : CopyEngine → CopyEngine) : (s.modEngine k f).ctxs = s.ctxs := rfl
@[simp] theorem State.modEngine_queues (k : Nat) (f : CopyEngine → CopyEngine) : (s.modEngine k f).queues = s.queues := rfl
@[simp] theorem State.modEngine_adminLast (k : Nat) (f : CopyEngine → CopyEngine) : (s.modEngine k f).adminLast = s.adminLast := rfl
@[simp] theorem State.modEngine_holding (k : Nat) (f : CopyEngine → CopyEngine) : (s.modEngine k f).holding = s.holding := rfl
@[simp] theorem State.modEngine_walkPending (k : Nat) (f : CopyEngine → CopyEngine) : (s.modEngine k f).walkPending = s.walkPending := rfl
@[simp] theorem State.modEngine_windows (k : Nat) (f : CopyEngine → CopyEngine) : (s.modEngine k f).windows = s.windows := rfl
@[simp] theorem State.modEngine_faultLog (k : Nat) (f : CopyEngine → CopyEngine) : (s.modEngine k f).faultLog = s.faultLog := rfl
@[simp] theorem State.modEngine_host (k : Nat) (f : CopyEngine → CopyEngine) : (s.modEngine k f).host = s.host := rfl
@[simp] theorem State.modEngine_events (k : Nat) (f : CopyEngine → CopyEngine) : (s.modEngine k f).events = s.events := rfl
@[simp] theorem State.modEngine_ports (k : Nat) (f : CopyEngine → CopyEngine) : (s.modEngine k f).ports = s.ports := rfl
@[simp] theorem State.modEngine_fabric (k : Nat) (f : CopyEngine → CopyEngine) : (s.modEngine k f).fabric = s.fabric := rfl
@[simp] theorem State.modEngine_gates (k : Nat) (f : CopyEngine → CopyEngine) : (s.modEngine k f).gates = s.gates := rfl
@[simp] theorem State.modEngine_power (k : Nat) (f : CopyEngine → CopyEngine) : (s.modEngine k f).power = s.power := rfl
@[simp] theorem State.modEngine_timed (k : Nat) (f : CopyEngine → CopyEngine) : (s.modEngine k f).timed = s.timed := rfl
@[simp] theorem State.modEngine_timedRef (k : Nat) (f : CopyEngine → CopyEngine) : (s.modEngine k f).timedRef = s.timedRef := rfl
@[simp] theorem State.modEngine_digests (k : Nat) (f : CopyEngine → CopyEngine) : (s.modEngine k f).digests = s.digests := rfl
@[simp] theorem State.modEngine_sec (k : Nat) (f : CopyEngine → CopyEngine) : (s.modEngine k f).sec = s.sec := rfl
@[simp] theorem State.modEngine_engine_same (k : Nat) (f : CopyEngine → CopyEngine) : (s.modEngine k f).engine k = f (s.engine k) := by
  simp [State.modEngine, State.engine]
theorem State.modEngine_engine_other {i k : Nat} (f : CopyEngine → CopyEngine) (h : i ≠ k) : (s.modEngine k f).engine i = s.engine i := tget_tmod_other _ _ f h
@[simp] theorem State.modEngine_cluster (k : Nat) (f : CopyEngine → CopyEngine) (i : Nat) : (s.modEngine k f).cluster i = s.cluster i := rfl
@[simp] theorem State.modEngine_ctx (k : Nat) (f : CopyEngine → CopyEngine) (i : Nat) : (s.modEngine k f).ctx i = s.ctx i := rfl
@[simp] theorem State.modEngine_queue (k : Nat) (f : CopyEngine → CopyEngine) (i : Nat) : (s.modEngine k f).queue i = s.queue i := rfl
@[simp] theorem State.modEngine_core (k : Nat) (f : CopyEngine → CopyEngine) (i : Nat) : (s.modEngine k f).core i = s.core i := rfl
@[simp] theorem State.modEngine_channel (k : Nat) (f : CopyEngine → CopyEngine) (i : Nat) : (s.modEngine k f).channel i = s.channel i := rfl
@[simp] theorem State.modEngine_linkEnd (k : Nat) (f : CopyEngine → CopyEngine) (i : Nat) : (s.modEngine k f).linkEnd i = s.linkEnd i := rfl
@[simp] theorem State.modEngine_port (k : Nat) (f : CopyEngine → CopyEngine) (i : Nat) : (s.modEngine k f).port i = s.port i := rfl
@[simp] theorem State.modEngine_gate (k : Nat) (f : CopyEngine → CopyEngine) (i : Nat) : (s.modEngine k f).gate i = s.gate i := rfl
@[simp] theorem State.modEngine_half (k : Nat) (f : CopyEngine → CopyEngine) (h : Bool) : (s.modEngine k f).half h = s.half h := rfl

/-! ### modCore -/

@[simp] theorem State.modCore_pending (k : Nat) (f : ZCore → ZCore) : (s.modCore k f).pending = s.pending := rfl
@[simp] theorem State.modCore_launchCounter (k : Nat) (f : ZCore → ZCore) : (s.modCore k f).launchCounter = s.launchCounter := rfl
@[simp] theorem State.modCore_free (k : Nat) (f : ZCore → ZCore) : (s.modCore k f).free = s.free := rfl
@[simp] theorem State.modCore_modState (k : Nat) (f : ZCore → ZCore) : (s.modCore k f).modState = s.modState := rfl
@[simp] theorem State.modCore_coldStep (k : Nat) (f : ZCore → ZCore) : (s.modCore k f).coldStep = s.coldStep := rfl
@[simp] theorem State.modCore_refuseWork (k : Nat) (f : ZCore → ZCore) : (s.modCore k f).refuseWork = s.refuseWork := rfl
@[simp] theorem State.modCore_starting (k : Nat) (f : ZCore → ZCore) : (s.modCore k f).starting = s.starting := rfl
@[simp] theorem State.modCore_sh (k : Nat) (f : ZCore → ZCore) : (s.modCore k f).sh = s.sh := rfl
@[simp] theorem State.modCore_links (k : Nat) (f : ZCore → ZCore) : (s.modCore k f).links = s.links := rfl
@[simp] theorem State.modCore_clusterMap (k : Nat) (f : ZCore → ZCore) : (s.modCore k f).clusterMap = s.clusterMap := rfl
@[simp] theorem State.modCore_clusters (k : Nat) (f : ZCore → ZCore) : (s.modCore k f).clusters = s.clusters := rfl
@[simp] theorem State.modCore_mem (k : Nat) (f : ZCore → ZCore) : (s.modCore k f).mem = s.mem := rfl
@[simp] theorem State.modCore_west (k : Nat) (f : ZCore → ZCore) : (s.modCore k f).west = s.west := rfl
@[simp] theorem State.modCore_east (k : Nat) (f : ZCore → ZCore) : (s.modCore k f).east = s.east := rfl
@[simp] theorem State.modCore_channels (k : Nat) (f : ZCore → ZCore) : (s.modCore k f).channels = s.channels := rfl
@[simp] theorem State.modCore_stackTemp (k : Nat) (f : ZCore → ZCore) : (s.modCore k f).stackTemp = s.stackTemp := rfl
@[simp] theorem State.modCore_ctxs (k : Nat) (f : ZCore → ZCore) : (s.modCore k f).ctxs = s.ctxs := rfl
@[simp] theorem State.modCore_queues (k : Nat) (f : ZCore → ZCore) : (s.modCore k f).queues = s.queues := rfl
@[simp] theorem State.modCore_adminLast (k : Nat) (f : ZCore → ZCore) : (s.modCore k f).adminLast = s.adminLast := rfl
@[simp] theorem State.modCore_holding (k : Nat) (f : ZCore → ZCore) : (s.modCore k f).holding = s.holding := rfl
@[simp] theorem State.modCore_walkPending (k : Nat) (f : ZCore → ZCore) : (s.modCore k f).walkPending = s.walkPending := rfl
@[simp] theorem State.modCore_windows (k : Nat) (f : ZCore → ZCore) : (s.modCore k f).windows = s.windows := rfl
@[simp] theorem State.modCore_engines (k : Nat) (f : ZCore → ZCore) : (s.modCore k f).engines = s.engines := rfl
@[simp] theorem State.modCore_faultLog (k : Nat) (f : ZCore → ZCore) : (s.modCore k f).faultLog = s.faultLog := rfl
@[simp] theorem State.modCore_host (k : Nat) (f : ZCore → ZCore) : (s.modCore k f).host = s.host := rfl
@[simp] theorem State.modCore_events (k : Nat) (f : ZCore → ZCore) : (s.modCore k f).events = s.events := rfl
@[simp] theorem State.modCore_ports (k : Nat) (f : ZCore → ZCore) : (s.modCore k f).ports = s.ports := rfl
@[simp] theorem State.modCore_fabric (k : Nat) (f : ZCore → ZCore) : (s.modCore k f).fabric = s.fabric := rfl
@[simp] theorem State.modCore_gates (k : Nat) (f : ZCore → ZCore) : (s.modCore k f).gates = s.gates := rfl
@[simp] theorem State.modCore_power (k : Nat) (f : ZCore → ZCore) : (s.modCore k f).power = s.power := rfl
@[simp] theorem State.modCore_timed (k : Nat) (f : ZCore → ZCore) : (s.modCore k f).timed = s.timed := rfl
@[simp] theorem State.modCore_timedRef (k : Nat) (f : ZCore → ZCore) : (s.modCore k f).timedRef = s.timedRef := rfl
@[simp] theorem State.modCore_digests (k : Nat) (f : ZCore → ZCore) : (s.modCore k f).digests = s.digests := rfl
@[simp] theorem State.modCore_sec (k : Nat) (f : ZCore → ZCore) : (s.modCore k f).sec = s.sec := rfl
@[simp] theorem State.modCore_core_same (k : Nat) (f : ZCore → ZCore) : (s.modCore k f).core k = f (s.core k) := by
  simp [State.modCore, State.core]
theorem State.modCore_core_other {i k : Nat} (f : ZCore → ZCore) (h : i ≠ k) : (s.modCore k f).core i = s.core i := tget_tmod_other _ _ f h
@[simp] theorem State.modCore_cluster (k : Nat) (f : ZCore → ZCore) (i : Nat) : (s.modCore k f).cluster i = s.cluster i := rfl
@[simp] theorem State.modCore_ctx (k : Nat) (f : ZCore → ZCore) (i : Nat) : (s.modCore k f).ctx i = s.ctx i := rfl
@[simp] theorem State.modCore_queue (k : Nat) (f : ZCore → ZCore) (i : Nat) : (s.modCore k f).queue i = s.queue i := rfl
@[simp] theorem State.modCore_engine (k : Nat) (f : ZCore → ZCore) (i : Nat) : (s.modCore k f).engine i = s.engine i := rfl
@[simp] theorem State.modCore_channel (k : Nat) (f : ZCore → ZCore) (i : Nat) : (s.modCore k f).channel i = s.channel i := rfl
@[simp] theorem State.modCore_linkEnd (k : Nat) (f : ZCore → ZCore) (i : Nat) : (s.modCore k f).linkEnd i = s.linkEnd i := rfl
@[simp] theorem State.modCore_port (k : Nat) (f : ZCore → ZCore) (i : Nat) : (s.modCore k f).port i = s.port i := rfl
@[simp] theorem State.modCore_gate (k : Nat) (f : ZCore → ZCore) (i : Nat) : (s.modCore k f).gate i = s.gate i := rfl
@[simp] theorem State.modCore_half (k : Nat) (f : ZCore → ZCore) (h : Bool) : (s.modCore k f).half h = s.half h := rfl

/-! ### modChannel -/

@[simp] theorem State.modChannel_pending (k : Nat) (f : Channel → Channel) : (s.modChannel k f).pending = s.pending := rfl
@[simp] theorem State.modChannel_launchCounter (k : Nat) (f : Channel → Channel) : (s.modChannel k f).launchCounter = s.launchCounter := rfl
@[simp] theorem State.modChannel_free (k : Nat) (f : Channel → Channel) : (s.modChannel k f).free = s.free := rfl
@[simp] theorem State.modChannel_modState (k : Nat) (f : Channel → Channel) : (s.modChannel k f).modState = s.modState := rfl
@[simp] theorem State.modChannel_coldStep (k : Nat) (f : Channel → Channel) : (s.modChannel k f).coldStep = s.coldStep := rfl
@[simp] theorem State.modChannel_refuseWork (k : Nat) (f : Channel → Channel) : (s.modChannel k f).refuseWork = s.refuseWork := rfl
@[simp] theorem State.modChannel_starting (k : Nat) (f : Channel → Channel) : (s.modChannel k f).starting = s.starting := rfl
@[simp] theorem State.modChannel_sh (k : Nat) (f : Channel → Channel) : (s.modChannel k f).sh = s.sh := rfl
@[simp] theorem State.modChannel_links (k : Nat) (f : Channel → Channel) : (s.modChannel k f).links = s.links := rfl
@[simp] theorem State.modChannel_clusterMap (k : Nat) (f : Channel → Channel) : (s.modChannel k f).clusterMap = s.clusterMap := rfl
@[simp] theorem State.modChannel_clusters (k : Nat) (f : Channel → Channel) : (s.modChannel k f).clusters = s.clusters := rfl
@[simp] theorem State.modChannel_mem (k : Nat) (f : Channel → Channel) : (s.modChannel k f).mem = s.mem := rfl
@[simp] theorem State.modChannel_west (k : Nat) (f : Channel → Channel) : (s.modChannel k f).west = s.west := rfl
@[simp] theorem State.modChannel_east (k : Nat) (f : Channel → Channel) : (s.modChannel k f).east = s.east := rfl
@[simp] theorem State.modChannel_stackTemp (k : Nat) (f : Channel → Channel) : (s.modChannel k f).stackTemp = s.stackTemp := rfl
@[simp] theorem State.modChannel_cores (k : Nat) (f : Channel → Channel) : (s.modChannel k f).cores = s.cores := rfl
@[simp] theorem State.modChannel_ctxs (k : Nat) (f : Channel → Channel) : (s.modChannel k f).ctxs = s.ctxs := rfl
@[simp] theorem State.modChannel_queues (k : Nat) (f : Channel → Channel) : (s.modChannel k f).queues = s.queues := rfl
@[simp] theorem State.modChannel_adminLast (k : Nat) (f : Channel → Channel) : (s.modChannel k f).adminLast = s.adminLast := rfl
@[simp] theorem State.modChannel_holding (k : Nat) (f : Channel → Channel) : (s.modChannel k f).holding = s.holding := rfl
@[simp] theorem State.modChannel_walkPending (k : Nat) (f : Channel → Channel) : (s.modChannel k f).walkPending = s.walkPending := rfl
@[simp] theorem State.modChannel_windows (k : Nat) (f : Channel → Channel) : (s.modChannel k f).windows = s.windows := rfl
@[simp] theorem State.modChannel_engines (k : Nat) (f : Channel → Channel) : (s.modChannel k f).engines = s.engines := rfl
@[simp] theorem State.modChannel_faultLog (k : Nat) (f : Channel → Channel) : (s.modChannel k f).faultLog = s.faultLog := rfl
@[simp] theorem State.modChannel_host (k : Nat) (f : Channel → Channel) : (s.modChannel k f).host = s.host := rfl
@[simp] theorem State.modChannel_events (k : Nat) (f : Channel → Channel) : (s.modChannel k f).events = s.events := rfl
@[simp] theorem State.modChannel_ports (k : Nat) (f : Channel → Channel) : (s.modChannel k f).ports = s.ports := rfl
@[simp] theorem State.modChannel_fabric (k : Nat) (f : Channel → Channel) : (s.modChannel k f).fabric = s.fabric := rfl
@[simp] theorem State.modChannel_gates (k : Nat) (f : Channel → Channel) : (s.modChannel k f).gates = s.gates := rfl
@[simp] theorem State.modChannel_power (k : Nat) (f : Channel → Channel) : (s.modChannel k f).power = s.power := rfl
@[simp] theorem State.modChannel_timed (k : Nat) (f : Channel → Channel) : (s.modChannel k f).timed = s.timed := rfl
@[simp] theorem State.modChannel_timedRef (k : Nat) (f : Channel → Channel) : (s.modChannel k f).timedRef = s.timedRef := rfl
@[simp] theorem State.modChannel_digests (k : Nat) (f : Channel → Channel) : (s.modChannel k f).digests = s.digests := rfl
@[simp] theorem State.modChannel_sec (k : Nat) (f : Channel → Channel) : (s.modChannel k f).sec = s.sec := rfl
@[simp] theorem State.modChannel_channel_same (k : Nat) (f : Channel → Channel) : (s.modChannel k f).channel k = f (s.channel k) := by
  simp [State.modChannel, State.channel]
theorem State.modChannel_channel_other {i k : Nat} (f : Channel → Channel) (h : i ≠ k) : (s.modChannel k f).channel i = s.channel i := tget_tmod_other _ _ f h
@[simp] theorem State.modChannel_cluster (k : Nat) (f : Channel → Channel) (i : Nat) : (s.modChannel k f).cluster i = s.cluster i := rfl
@[simp] theorem State.modChannel_ctx (k : Nat) (f : Channel → Channel) (i : Nat) : (s.modChannel k f).ctx i = s.ctx i := rfl
@[simp] theorem State.modChannel_queue (k : Nat) (f : Channel → Channel) (i : Nat) : (s.modChannel k f).queue i = s.queue i := rfl
@[simp] theorem State.modChannel_engine (k : Nat) (f : Channel → Channel) (i : Nat) : (s.modChannel k f).engine i = s.engine i := rfl
@[simp] theorem State.modChannel_core (k : Nat) (f : Channel → Channel) (i : Nat) : (s.modChannel k f).core i = s.core i := rfl
@[simp] theorem State.modChannel_linkEnd (k : Nat) (f : Channel → Channel) (i : Nat) : (s.modChannel k f).linkEnd i = s.linkEnd i := rfl
@[simp] theorem State.modChannel_port (k : Nat) (f : Channel → Channel) (i : Nat) : (s.modChannel k f).port i = s.port i := rfl
@[simp] theorem State.modChannel_gate (k : Nat) (f : Channel → Channel) (i : Nat) : (s.modChannel k f).gate i = s.gate i := rfl
@[simp] theorem State.modChannel_half (k : Nat) (f : Channel → Channel) (h : Bool) : (s.modChannel k f).half h = s.half h := rfl

/-! ### modLink -/

@[simp] theorem State.modLink_pending (k : Nat) (f : LinkEnd → LinkEnd) : (s.modLink k f).pending = s.pending := rfl
@[simp] theorem State.modLink_launchCounter (k : Nat) (f : LinkEnd → LinkEnd) : (s.modLink k f).launchCounter = s.launchCounter := rfl
@[simp] theorem State.modLink_free (k : Nat) (f : LinkEnd → LinkEnd) : (s.modLink k f).free = s.free := rfl
@[simp] theorem State.modLink_modState (k : Nat) (f : LinkEnd → LinkEnd) : (s.modLink k f).modState = s.modState := rfl
@[simp] theorem State.modLink_coldStep (k : Nat) (f : LinkEnd → LinkEnd) : (s.modLink k f).coldStep = s.coldStep := rfl
@[simp] theorem State.modLink_refuseWork (k : Nat) (f : LinkEnd → LinkEnd) : (s.modLink k f).refuseWork = s.refuseWork := rfl
@[simp] theorem State.modLink_starting (k : Nat) (f : LinkEnd → LinkEnd) : (s.modLink k f).starting = s.starting := rfl
@[simp] theorem State.modLink_sh (k : Nat) (f : LinkEnd → LinkEnd) : (s.modLink k f).sh = s.sh := rfl
@[simp] theorem State.modLink_clusterMap (k : Nat) (f : LinkEnd → LinkEnd) : (s.modLink k f).clusterMap = s.clusterMap := rfl
@[simp] theorem State.modLink_clusters (k : Nat) (f : LinkEnd → LinkEnd) : (s.modLink k f).clusters = s.clusters := rfl
@[simp] theorem State.modLink_mem (k : Nat) (f : LinkEnd → LinkEnd) : (s.modLink k f).mem = s.mem := rfl
@[simp] theorem State.modLink_west (k : Nat) (f : LinkEnd → LinkEnd) : (s.modLink k f).west = s.west := rfl
@[simp] theorem State.modLink_east (k : Nat) (f : LinkEnd → LinkEnd) : (s.modLink k f).east = s.east := rfl
@[simp] theorem State.modLink_channels (k : Nat) (f : LinkEnd → LinkEnd) : (s.modLink k f).channels = s.channels := rfl
@[simp] theorem State.modLink_stackTemp (k : Nat) (f : LinkEnd → LinkEnd) : (s.modLink k f).stackTemp = s.stackTemp := rfl
@[simp] theorem State.modLink_cores (k : Nat) (f : LinkEnd → LinkEnd) : (s.modLink k f).cores = s.cores := rfl
@[simp] theorem State.modLink_ctxs (k : Nat) (f : LinkEnd → LinkEnd) : (s.modLink k f).ctxs = s.ctxs := rfl
@[simp] theorem State.modLink_queues (k : Nat) (f : LinkEnd → LinkEnd) : (s.modLink k f).queues = s.queues := rfl
@[simp] theorem State.modLink_adminLast (k : Nat) (f : LinkEnd → LinkEnd) : (s.modLink k f).adminLast = s.adminLast := rfl
@[simp] theorem State.modLink_holding (k : Nat) (f : LinkEnd → LinkEnd) : (s.modLink k f).holding = s.holding := rfl
@[simp] theorem State.modLink_walkPending (k : Nat) (f : LinkEnd → LinkEnd) : (s.modLink k f).walkPending = s.walkPending := rfl
@[simp] theorem State.modLink_windows (k : Nat) (f : LinkEnd → LinkEnd) : (s.modLink k f).windows = s.windows := rfl
@[simp] theorem State.modLink_engines (k : Nat) (f : LinkEnd → LinkEnd) : (s.modLink k f).engines = s.engines := rfl
@[simp] theorem State.modLink_faultLog (k : Nat) (f : LinkEnd → LinkEnd) : (s.modLink k f).faultLog = s.faultLog := rfl
@[simp] theorem State.modLink_host (k : Nat) (f : LinkEnd → LinkEnd) : (s.modLink k f).host = s.host := rfl
@[simp] theorem State.modLink_events (k : Nat) (f : LinkEnd → LinkEnd) : (s.modLink k f).events = s.events := rfl
@[simp] theorem State.modLink_ports (k : Nat) (f : LinkEnd → LinkEnd) : (s.modLink k f).ports = s.ports := rfl
@[simp] theorem State.modLink_fabric (k : Nat) (f : LinkEnd → LinkEnd) : (s.modLink k f).fabric = s.fabric := rfl
@[simp] theorem State.modLink_gates (k : Nat) (f : LinkEnd → LinkEnd) : (s.modLink k f).gates = s.gates := rfl
@[simp] theorem State.modLink_power (k : Nat) (f : LinkEnd → LinkEnd) : (s.modLink k f).power = s.power := rfl
@[simp] theorem State.modLink_timed (k : Nat) (f : LinkEnd → LinkEnd) : (s.modLink k f).timed = s.timed := rfl
@[simp] theorem State.modLink_timedRef (k : Nat) (f : LinkEnd → LinkEnd) : (s.modLink k f).timedRef = s.timedRef := rfl
@[simp] theorem State.modLink_digests (k : Nat) (f : LinkEnd → LinkEnd) : (s.modLink k f).digests = s.digests := rfl
@[simp] theorem State.modLink_sec (k : Nat) (f : LinkEnd → LinkEnd) : (s.modLink k f).sec = s.sec := rfl
@[simp] theorem State.modLink_linkEnd_same (k : Nat) (f : LinkEnd → LinkEnd) : (s.modLink k f).linkEnd k = f (s.linkEnd k) := by
  simp [State.modLink, State.linkEnd]
theorem State.modLink_linkEnd_other {i k : Nat} (f : LinkEnd → LinkEnd) (h : i ≠ k) : (s.modLink k f).linkEnd i = s.linkEnd i := tget_tmod_other _ _ f h
@[simp] theorem State.modLink_cluster (k : Nat) (f : LinkEnd → LinkEnd) (i : Nat) : (s.modLink k f).cluster i = s.cluster i := rfl
@[simp] theorem State.modLink_ctx (k : Nat) (f : LinkEnd → LinkEnd) (i : Nat) : (s.modLink k f).ctx i = s.ctx i := rfl
@[simp] theorem State.modLink_queue (k : Nat) (f : LinkEnd → LinkEnd) (i : Nat) : (s.modLink k f).queue i = s.queue i := rfl
@[simp] theorem State.modLink_engine (k : Nat) (f : LinkEnd → LinkEnd) (i : Nat) : (s.modLink k f).engine i = s.engine i := rfl
@[simp] theorem State.modLink_core (k : Nat) (f : LinkEnd → LinkEnd) (i : Nat) : (s.modLink k f).core i = s.core i := rfl
@[simp] theorem State.modLink_channel (k : Nat) (f : LinkEnd → LinkEnd) (i : Nat) : (s.modLink k f).channel i = s.channel i := rfl
@[simp] theorem State.modLink_port (k : Nat) (f : LinkEnd → LinkEnd) (i : Nat) : (s.modLink k f).port i = s.port i := rfl
@[simp] theorem State.modLink_gate (k : Nat) (f : LinkEnd → LinkEnd) (i : Nat) : (s.modLink k f).gate i = s.gate i := rfl
@[simp] theorem State.modLink_half (k : Nat) (f : LinkEnd → LinkEnd) (h : Bool) : (s.modLink k f).half h = s.half h := rfl

/-! ### modPort -/

@[simp] theorem State.modPort_pending (k : Nat) (f : EPort → EPort) : (s.modPort k f).pending = s.pending := rfl
@[simp] theorem State.modPort_launchCounter (k : Nat) (f : EPort → EPort) : (s.modPort k f).launchCounter = s.launchCounter := rfl
@[simp] theorem State.modPort_free (k : Nat) (f : EPort → EPort) : (s.modPort k f).free = s.free := rfl
@[simp] theorem State.modPort_modState (k : Nat) (f : EPort → EPort) : (s.modPort k f).modState = s.modState := rfl
@[simp] theorem State.modPort_coldStep (k : Nat) (f : EPort → EPort) : (s.modPort k f).coldStep = s.coldStep := rfl
@[simp] theorem State.modPort_refuseWork (k : Nat) (f : EPort → EPort) : (s.modPort k f).refuseWork = s.refuseWork := rfl
@[simp] theorem State.modPort_starting (k : Nat) (f : EPort → EPort) : (s.modPort k f).starting = s.starting := rfl
@[simp] theorem State.modPort_sh (k : Nat) (f : EPort → EPort) : (s.modPort k f).sh = s.sh := rfl
@[simp] theorem State.modPort_links (k : Nat) (f : EPort → EPort) : (s.modPort k f).links = s.links := rfl
@[simp] theorem State.modPort_clusterMap (k : Nat) (f : EPort → EPort) : (s.modPort k f).clusterMap = s.clusterMap := rfl
@[simp] theorem State.modPort_clusters (k : Nat) (f : EPort → EPort) : (s.modPort k f).clusters = s.clusters := rfl
@[simp] theorem State.modPort_mem (k : Nat) (f : EPort → EPort) : (s.modPort k f).mem = s.mem := rfl
@[simp] theorem State.modPort_west (k : Nat) (f : EPort → EPort) : (s.modPort k f).west = s.west := rfl
@[simp] theorem State.modPort_east (k : Nat) (f : EPort → EPort) : (s.modPort k f).east = s.east := rfl
@[simp] theorem State.modPort_channels (k : Nat) (f : EPort → EPort) : (s.modPort k f).channels = s.channels := rfl
@[simp] theorem State.modPort_stackTemp (k : Nat) (f : EPort → EPort) : (s.modPort k f).stackTemp = s.stackTemp := rfl
@[simp] theorem State.modPort_cores (k : Nat) (f : EPort → EPort) : (s.modPort k f).cores = s.cores := rfl
@[simp] theorem State.modPort_ctxs (k : Nat) (f : EPort → EPort) : (s.modPort k f).ctxs = s.ctxs := rfl
@[simp] theorem State.modPort_queues (k : Nat) (f : EPort → EPort) : (s.modPort k f).queues = s.queues := rfl
@[simp] theorem State.modPort_adminLast (k : Nat) (f : EPort → EPort) : (s.modPort k f).adminLast = s.adminLast := rfl
@[simp] theorem State.modPort_holding (k : Nat) (f : EPort → EPort) : (s.modPort k f).holding = s.holding := rfl
@[simp] theorem State.modPort_walkPending (k : Nat) (f : EPort → EPort) : (s.modPort k f).walkPending = s.walkPending := rfl
@[simp] theorem State.modPort_windows (k : Nat) (f : EPort → EPort) : (s.modPort k f).windows = s.windows := rfl
@[simp] theorem State.modPort_engines (k : Nat) (f : EPort → EPort) : (s.modPort k f).engines = s.engines := rfl
@[simp] theorem State.modPort_faultLog (k : Nat) (f : EPort → EPort) : (s.modPort k f).faultLog = s.faultLog := rfl
@[simp] theorem State.modPort_host (k : Nat) (f : EPort → EPort) : (s.modPort k f).host = s.host := rfl
@[simp] theorem State.modPort_events (k : Nat) (f : EPort → EPort) : (s.modPort k f).events = s.events := rfl
@[simp] theorem State.modPort_fabric (k : Nat) (f : EPort → EPort) : (s.modPort k f).fabric = s.fabric := rfl
@[simp] theorem State.modPort_gates (k : Nat) (f : EPort → EPort) : (s.modPort k f).gates = s.gates := rfl
@[simp] theorem State.modPort_power (k : Nat) (f : EPort → EPort) : (s.modPort k f).power = s.power := rfl
@[simp] theorem State.modPort_timed (k : Nat) (f : EPort → EPort) : (s.modPort k f).timed = s.timed := rfl
@[simp] theorem State.modPort_timedRef (k : Nat) (f : EPort → EPort) : (s.modPort k f).timedRef = s.timedRef := rfl
@[simp] theorem State.modPort_digests (k : Nat) (f : EPort → EPort) : (s.modPort k f).digests = s.digests := rfl
@[simp] theorem State.modPort_sec (k : Nat) (f : EPort → EPort) : (s.modPort k f).sec = s.sec := rfl
@[simp] theorem State.modPort_port_same (k : Nat) (f : EPort → EPort) : (s.modPort k f).port k = f (s.port k) := by
  simp [State.modPort, State.port]
theorem State.modPort_port_other {i k : Nat} (f : EPort → EPort) (h : i ≠ k) : (s.modPort k f).port i = s.port i := tget_tmod_other _ _ f h
@[simp] theorem State.modPort_cluster (k : Nat) (f : EPort → EPort) (i : Nat) : (s.modPort k f).cluster i = s.cluster i := rfl
@[simp] theorem State.modPort_ctx (k : Nat) (f : EPort → EPort) (i : Nat) : (s.modPort k f).ctx i = s.ctx i := rfl
@[simp] theorem State.modPort_queue (k : Nat) (f : EPort → EPort) (i : Nat) : (s.modPort k f).queue i = s.queue i := rfl
@[simp] theorem State.modPort_engine (k : Nat) (f : EPort → EPort) (i : Nat) : (s.modPort k f).engine i = s.engine i := rfl
@[simp] theorem State.modPort_core (k : Nat) (f : EPort → EPort) (i : Nat) : (s.modPort k f).core i = s.core i := rfl
@[simp] theorem State.modPort_channel (k : Nat) (f : EPort → EPort) (i : Nat) : (s.modPort k f).channel i = s.channel i := rfl
@[simp] theorem State.modPort_linkEnd (k : Nat) (f : EPort → EPort) (i : Nat) : (s.modPort k f).linkEnd i = s.linkEnd i := rfl
@[simp] theorem State.modPort_gate (k : Nat) (f : EPort → EPort) (i : Nat) : (s.modPort k f).gate i = s.gate i := rfl
@[simp] theorem State.modPort_half (k : Nat) (f : EPort → EPort) (h : Bool) : (s.modPort k f).half h = s.half h := rfl

/-! ### modGate -/

@[simp] theorem State.modGate_pending (k : Nat) (f : Gate → Gate) : (s.modGate k f).pending = s.pending := rfl
@[simp] theorem State.modGate_launchCounter (k : Nat) (f : Gate → Gate) : (s.modGate k f).launchCounter = s.launchCounter := rfl
@[simp] theorem State.modGate_free (k : Nat) (f : Gate → Gate) : (s.modGate k f).free = s.free := rfl
@[simp] theorem State.modGate_modState (k : Nat) (f : Gate → Gate) : (s.modGate k f).modState = s.modState := rfl
@[simp] theorem State.modGate_coldStep (k : Nat) (f : Gate → Gate) : (s.modGate k f).coldStep = s.coldStep := rfl
@[simp] theorem State.modGate_refuseWork (k : Nat) (f : Gate → Gate) : (s.modGate k f).refuseWork = s.refuseWork := rfl
@[simp] theorem State.modGate_starting (k : Nat) (f : Gate → Gate) : (s.modGate k f).starting = s.starting := rfl
@[simp] theorem State.modGate_sh (k : Nat) (f : Gate → Gate) : (s.modGate k f).sh = s.sh := rfl
@[simp] theorem State.modGate_links (k : Nat) (f : Gate → Gate) : (s.modGate k f).links = s.links := rfl
@[simp] theorem State.modGate_clusterMap (k : Nat) (f : Gate → Gate) : (s.modGate k f).clusterMap = s.clusterMap := rfl
@[simp] theorem State.modGate_clusters (k : Nat) (f : Gate → Gate) : (s.modGate k f).clusters = s.clusters := rfl
@[simp] theorem State.modGate_mem (k : Nat) (f : Gate → Gate) : (s.modGate k f).mem = s.mem := rfl
@[simp] theorem State.modGate_west (k : Nat) (f : Gate → Gate) : (s.modGate k f).west = s.west := rfl
@[simp] theorem State.modGate_east (k : Nat) (f : Gate → Gate) : (s.modGate k f).east = s.east := rfl
@[simp] theorem State.modGate_channels (k : Nat) (f : Gate → Gate) : (s.modGate k f).channels = s.channels := rfl
@[simp] theorem State.modGate_stackTemp (k : Nat) (f : Gate → Gate) : (s.modGate k f).stackTemp = s.stackTemp := rfl
@[simp] theorem State.modGate_cores (k : Nat) (f : Gate → Gate) : (s.modGate k f).cores = s.cores := rfl
@[simp] theorem State.modGate_ctxs (k : Nat) (f : Gate → Gate) : (s.modGate k f).ctxs = s.ctxs := rfl
@[simp] theorem State.modGate_queues (k : Nat) (f : Gate → Gate) : (s.modGate k f).queues = s.queues := rfl
@[simp] theorem State.modGate_adminLast (k : Nat) (f : Gate → Gate) : (s.modGate k f).adminLast = s.adminLast := rfl
@[simp] theorem State.modGate_holding (k : Nat) (f : Gate → Gate) : (s.modGate k f).holding = s.holding := rfl
@[simp] theorem State.modGate_walkPending (k : Nat) (f : Gate → Gate) : (s.modGate k f).walkPending = s.walkPending := rfl
@[simp] theorem State.modGate_windows (k : Nat) (f : Gate → Gate) : (s.modGate k f).windows = s.windows := rfl
@[simp] theorem State.modGate_engines (k : Nat) (f : Gate → Gate) : (s.modGate k f).engines = s.engines := rfl
@[simp] theorem State.modGate_faultLog (k : Nat) (f : Gate → Gate) : (s.modGate k f).faultLog = s.faultLog := rfl
@[simp] theorem State.modGate_host (k : Nat) (f : Gate → Gate) : (s.modGate k f).host = s.host := rfl
@[simp] theorem State.modGate_events (k : Nat) (f : Gate → Gate) : (s.modGate k f).events = s.events := rfl
@[simp] theorem State.modGate_ports (k : Nat) (f : Gate → Gate) : (s.modGate k f).ports = s.ports := rfl
@[simp] theorem State.modGate_fabric (k : Nat) (f : Gate → Gate) : (s.modGate k f).fabric = s.fabric := rfl
@[simp] theorem State.modGate_power (k : Nat) (f : Gate → Gate) : (s.modGate k f).power = s.power := rfl
@[simp] theorem State.modGate_timed (k : Nat) (f : Gate → Gate) : (s.modGate k f).timed = s.timed := rfl
@[simp] theorem State.modGate_timedRef (k : Nat) (f : Gate → Gate) : (s.modGate k f).timedRef = s.timedRef := rfl
@[simp] theorem State.modGate_digests (k : Nat) (f : Gate → Gate) : (s.modGate k f).digests = s.digests := rfl
@[simp] theorem State.modGate_sec (k : Nat) (f : Gate → Gate) : (s.modGate k f).sec = s.sec := rfl
@[simp] theorem State.modGate_gate_same (k : Nat) (f : Gate → Gate) : (s.modGate k f).gate k = f (s.gate k) := by
  simp [State.modGate, State.gate]
theorem State.modGate_gate_other {i k : Nat} (f : Gate → Gate) (h : i ≠ k) : (s.modGate k f).gate i = s.gate i := tget_tmod_other _ _ f h
@[simp] theorem State.modGate_cluster (k : Nat) (f : Gate → Gate) (i : Nat) : (s.modGate k f).cluster i = s.cluster i := rfl
@[simp] theorem State.modGate_ctx (k : Nat) (f : Gate → Gate) (i : Nat) : (s.modGate k f).ctx i = s.ctx i := rfl
@[simp] theorem State.modGate_queue (k : Nat) (f : Gate → Gate) (i : Nat) : (s.modGate k f).queue i = s.queue i := rfl
@[simp] theorem State.modGate_engine (k : Nat) (f : Gate → Gate) (i : Nat) : (s.modGate k f).engine i = s.engine i := rfl
@[simp] theorem State.modGate_core (k : Nat) (f : Gate → Gate) (i : Nat) : (s.modGate k f).core i = s.core i := rfl
@[simp] theorem State.modGate_channel (k : Nat) (f : Gate → Gate) (i : Nat) : (s.modGate k f).channel i = s.channel i := rfl
@[simp] theorem State.modGate_linkEnd (k : Nat) (f : Gate → Gate) (i : Nat) : (s.modGate k f).linkEnd i = s.linkEnd i := rfl
@[simp] theorem State.modGate_port (k : Nat) (f : Gate → Gate) (i : Nat) : (s.modGate k f).port i = s.port i := rfl
@[simp] theorem State.modGate_half (k : Nat) (f : Gate → Gate) (h : Bool) : (s.modGate k f).half h = s.half h := rfl

/-! ### modShared -/

@[simp] theorem State.modShared_pending (f : Shared → Shared) : (s.modShared f).pending = s.pending := rfl
@[simp] theorem State.modShared_launchCounter (f : Shared → Shared) : (s.modShared f).launchCounter = s.launchCounter := rfl
@[simp] theorem State.modShared_free (f : Shared → Shared) : (s.modShared f).free = s.free := rfl
@[simp] theorem State.modShared_modState (f : Shared → Shared) : (s.modShared f).modState = s.modState := rfl
@[simp] theorem State.modShared_coldStep (f : Shared → Shared) : (s.modShared f).coldStep = s.coldStep := rfl
@[simp] theorem State.modShared_refuseWork (f : Shared → Shared) : (s.modShared f).refuseWork = s.refuseWork := rfl
@[simp] theorem State.modShared_starting (f : Shared → Shared) : (s.modShared f).starting = s.starting := rfl
@[simp] theorem State.modShared_links (f : Shared → Shared) : (s.modShared f).links = s.links := rfl
@[simp] theorem State.modShared_clusterMap (f : Shared → Shared) : (s.modShared f).clusterMap = s.clusterMap := rfl
@[simp] theorem State.modShared_clusters (f : Shared → Shared) : (s.modShared f).clusters = s.clusters := rfl
@[simp] theorem State.modShared_mem (f : Shared → Shared) : (s.modShared f).mem = s.mem := rfl
@[simp] theorem State.modShared_west (f : Shared → Shared) : (s.modShared f).west = s.west := rfl
@[simp] theorem State.modShared_east (f : Shared → Shared) : (s.modShared f).east = s.east := rfl
@[simp] theorem State.modShared_channels (f : Shared → Shared) : (s.modShared f).channels = s.channels := rfl
@[simp] theorem State.modShared_stackTemp (f : Shared → Shared) : (s.modShared f).stackTemp = s.stackTemp := rfl
@[simp] theorem State.modShared_cores (f : Shared → Shared) : (s.modShared f).cores = s.cores := rfl
@[simp] theorem State.modShared_ctxs (f : Shared → Shared) : (s.modShared f).ctxs = s.ctxs := rfl
@[simp] theorem State.modShared_queues (f : Shared → Shared) : (s.modShared f).queues = s.queues := rfl
@[simp] theorem State.modShared_adminLast (f : Shared → Shared) : (s.modShared f).adminLast = s.adminLast := rfl
@[simp] theorem State.modShared_holding (f : Shared → Shared) : (s.modShared f).holding = s.holding := rfl
@[simp] theorem State.modShared_walkPending (f : Shared → Shared) : (s.modShared f).walkPending = s.walkPending := rfl
@[simp] theorem State.modShared_windows (f : Shared → Shared) : (s.modShared f).windows = s.windows := rfl
@[simp] theorem State.modShared_engines (f : Shared → Shared) : (s.modShared f).engines = s.engines := rfl
@[simp] theorem State.modShared_faultLog (f : Shared → Shared) : (s.modShared f).faultLog = s.faultLog := rfl
@[simp] theorem State.modShared_host (f : Shared → Shared) : (s.modShared f).host = s.host := rfl
@[simp] theorem State.modShared_events (f : Shared → Shared) : (s.modShared f).events = s.events := rfl
@[simp] theorem State.modShared_ports (f : Shared → Shared) : (s.modShared f).ports = s.ports := rfl
@[simp] theorem State.modShared_fabric (f : Shared → Shared) : (s.modShared f).fabric = s.fabric := rfl
@[simp] theorem State.modShared_gates (f : Shared → Shared) : (s.modShared f).gates = s.gates := rfl
@[simp] theorem State.modShared_power (f : Shared → Shared) : (s.modShared f).power = s.power := rfl
@[simp] theorem State.modShared_timed (f : Shared → Shared) : (s.modShared f).timed = s.timed := rfl
@[simp] theorem State.modShared_timedRef (f : Shared → Shared) : (s.modShared f).timedRef = s.timedRef := rfl
@[simp] theorem State.modShared_digests (f : Shared → Shared) : (s.modShared f).digests = s.digests := rfl
@[simp] theorem State.modShared_sec (f : Shared → Shared) : (s.modShared f).sec = s.sec := rfl
@[simp] theorem State.modShared_sh (f : Shared → Shared) : (s.modShared f).sh = f s.sh := rfl
@[simp] theorem State.modShared_cluster (f : Shared → Shared) (i : Nat) : (s.modShared f).cluster i = s.cluster i := rfl
@[simp] theorem State.modShared_ctx (f : Shared → Shared) (i : Nat) : (s.modShared f).ctx i = s.ctx i := rfl
@[simp] theorem State.modShared_queue (f : Shared → Shared) (i : Nat) : (s.modShared f).queue i = s.queue i := rfl
@[simp] theorem State.modShared_engine (f : Shared → Shared) (i : Nat) : (s.modShared f).engine i = s.engine i := rfl
@[simp] theorem State.modShared_core (f : Shared → Shared) (i : Nat) : (s.modShared f).core i = s.core i := rfl
@[simp] theorem State.modShared_channel (f : Shared → Shared) (i : Nat) : (s.modShared f).channel i = s.channel i := rfl
@[simp] theorem State.modShared_linkEnd (f : Shared → Shared) (i : Nat) : (s.modShared f).linkEnd i = s.linkEnd i := rfl
@[simp] theorem State.modShared_port (f : Shared → Shared) (i : Nat) : (s.modShared f).port i = s.port i := rfl
@[simp] theorem State.modShared_gate (f : Shared → Shared) (i : Nat) : (s.modShared f).gate i = s.gate i := rfl
@[simp] theorem State.modShared_half (f : Shared → Shared) (h : Bool) : (s.modShared f).half h = s.half h := rfl

/-! ### modHost -/

@[simp] theorem State.modHost_pending (f : HostLink → HostLink) : (s.modHost f).pending = s.pending := rfl
@[simp] theorem State.modHost_launchCounter (f : HostLink → HostLink) : (s.modHost f).launchCounter = s.launchCounter := rfl
@[simp] theorem State.modHost_free (f : HostLink → HostLink) : (s.modHost f).free = s.free := rfl
@[simp] theorem State.modHost_modState (f : HostLink → HostLink) : (s.modHost f).modState = s.modState := rfl
@[simp] theorem State.modHost_coldStep (f : HostLink → HostLink) : (s.modHost f).coldStep = s.coldStep := rfl
@[simp] theorem State.modHost_refuseWork (f : HostLink → HostLink) : (s.modHost f).refuseWork = s.refuseWork := rfl
@[simp] theorem State.modHost_starting (f : HostLink → HostLink) : (s.modHost f).starting = s.starting := rfl
@[simp] theorem State.modHost_sh (f : HostLink → HostLink) : (s.modHost f).sh = s.sh := rfl
@[simp] theorem State.modHost_links (f : HostLink → HostLink) : (s.modHost f).links = s.links := rfl
@[simp] theorem State.modHost_clusterMap (f : HostLink → HostLink) : (s.modHost f).clusterMap = s.clusterMap := rfl
@[simp] theorem State.modHost_clusters (f : HostLink → HostLink) : (s.modHost f).clusters = s.clusters := rfl
@[simp] theorem State.modHost_mem (f : HostLink → HostLink) : (s.modHost f).mem = s.mem := rfl
@[simp] theorem State.modHost_west (f : HostLink → HostLink) : (s.modHost f).west = s.west := rfl
@[simp] theorem State.modHost_east (f : HostLink → HostLink) : (s.modHost f).east = s.east := rfl
@[simp] theorem State.modHost_channels (f : HostLink → HostLink) : (s.modHost f).channels = s.channels := rfl
@[simp] theorem State.modHost_stackTemp (f : HostLink → HostLink) : (s.modHost f).stackTemp = s.stackTemp := rfl
@[simp] theorem State.modHost_cores (f : HostLink → HostLink) : (s.modHost f).cores = s.cores := rfl
@[simp] theorem State.modHost_ctxs (f : HostLink → HostLink) : (s.modHost f).ctxs = s.ctxs := rfl
@[simp] theorem State.modHost_queues (f : HostLink → HostLink) : (s.modHost f).queues = s.queues := rfl
@[simp] theorem State.modHost_adminLast (f : HostLink → HostLink) : (s.modHost f).adminLast = s.adminLast := rfl
@[simp] theorem State.modHost_holding (f : HostLink → HostLink) : (s.modHost f).holding = s.holding := rfl
@[simp] theorem State.modHost_walkPending (f : HostLink → HostLink) : (s.modHost f).walkPending = s.walkPending := rfl
@[simp] theorem State.modHost_windows (f : HostLink → HostLink) : (s.modHost f).windows = s.windows := rfl
@[simp] theorem State.modHost_engines (f : HostLink → HostLink) : (s.modHost f).engines = s.engines := rfl
@[simp] theorem State.modHost_faultLog (f : HostLink → HostLink) : (s.modHost f).faultLog = s.faultLog := rfl
@[simp] theorem State.modHost_events (f : HostLink → HostLink) : (s.modHost f).events = s.events := rfl
@[simp] theorem State.modHost_ports (f : HostLink → HostLink) : (s.modHost f).ports = s.ports := rfl
@[simp] theorem State.modHost_fabric (f : HostLink → HostLink) : (s.modHost f).fabric = s.fabric := rfl
@[simp] theorem State.modHost_gates (f : HostLink → HostLink) : (s.modHost f).gates = s.gates := rfl
@[simp] theorem State.modHost_power (f : HostLink → HostLink) : (s.modHost f).power = s.power := rfl
@[simp] theorem State.modHost_timed (f : HostLink → HostLink) : (s.modHost f).timed = s.timed := rfl
@[simp] theorem State.modHost_timedRef (f : HostLink → HostLink) : (s.modHost f).timedRef = s.timedRef := rfl
@[simp] theorem State.modHost_digests (f : HostLink → HostLink) : (s.modHost f).digests = s.digests := rfl
@[simp] theorem State.modHost_sec (f : HostLink → HostLink) : (s.modHost f).sec = s.sec := rfl
@[simp] theorem State.modHost_host (f : HostLink → HostLink) : (s.modHost f).host = f s.host := rfl
@[simp] theorem State.modHost_cluster (f : HostLink → HostLink) (i : Nat) : (s.modHost f).cluster i = s.cluster i := rfl
@[simp] theorem State.modHost_ctx (f : HostLink → HostLink) (i : Nat) : (s.modHost f).ctx i = s.ctx i := rfl
@[simp] theorem State.modHost_queue (f : HostLink → HostLink) (i : Nat) : (s.modHost f).queue i = s.queue i := rfl
@[simp] theorem State.modHost_engine (f : HostLink → HostLink) (i : Nat) : (s.modHost f).engine i = s.engine i := rfl
@[simp] theorem State.modHost_core (f : HostLink → HostLink) (i : Nat) : (s.modHost f).core i = s.core i := rfl
@[simp] theorem State.modHost_channel (f : HostLink → HostLink) (i : Nat) : (s.modHost f).channel i = s.channel i := rfl
@[simp] theorem State.modHost_linkEnd (f : HostLink → HostLink) (i : Nat) : (s.modHost f).linkEnd i = s.linkEnd i := rfl
@[simp] theorem State.modHost_port (f : HostLink → HostLink) (i : Nat) : (s.modHost f).port i = s.port i := rfl
@[simp] theorem State.modHost_gate (f : HostLink → HostLink) (i : Nat) : (s.modHost f).gate i = s.gate i := rfl
@[simp] theorem State.modHost_half (f : HostLink → HostLink) (h : Bool) : (s.modHost f).half h = s.half h := rfl

/-! ### modFabric -/

@[simp] theorem State.modFabric_pending (f : Fabric → Fabric) : (s.modFabric f).pending = s.pending := rfl
@[simp] theorem State.modFabric_launchCounter (f : Fabric → Fabric) : (s.modFabric f).launchCounter = s.launchCounter := rfl
@[simp] theorem State.modFabric_free (f : Fabric → Fabric) : (s.modFabric f).free = s.free := rfl
@[simp] theorem State.modFabric_modState (f : Fabric → Fabric) : (s.modFabric f).modState = s.modState := rfl
@[simp] theorem State.modFabric_coldStep (f : Fabric → Fabric) : (s.modFabric f).coldStep = s.coldStep := rfl
@[simp] theorem State.modFabric_refuseWork (f : Fabric → Fabric) : (s.modFabric f).refuseWork = s.refuseWork := rfl
@[simp] theorem State.modFabric_starting (f : Fabric → Fabric) : (s.modFabric f).starting = s.starting := rfl
@[simp] theorem State.modFabric_sh (f : Fabric → Fabric) : (s.modFabric f).sh = s.sh := rfl
@[simp] theorem State.modFabric_links (f : Fabric → Fabric) : (s.modFabric f).links = s.links := rfl
@[simp] theorem State.modFabric_clusterMap (f : Fabric → Fabric) : (s.modFabric f).clusterMap = s.clusterMap := rfl
@[simp] theorem State.modFabric_clusters (f : Fabric → Fabric) : (s.modFabric f).clusters = s.clusters := rfl
@[simp] theorem State.modFabric_mem (f : Fabric → Fabric) : (s.modFabric f).mem = s.mem := rfl
@[simp] theorem State.modFabric_west (f : Fabric → Fabric) : (s.modFabric f).west = s.west := rfl
@[simp] theorem State.modFabric_east (f : Fabric → Fabric) : (s.modFabric f).east = s.east := rfl
@[simp] theorem State.modFabric_channels (f : Fabric → Fabric) : (s.modFabric f).channels = s.channels := rfl
@[simp] theorem State.modFabric_stackTemp (f : Fabric → Fabric) : (s.modFabric f).stackTemp = s.stackTemp := rfl
@[simp] theorem State.modFabric_cores (f : Fabric → Fabric) : (s.modFabric f).cores = s.cores := rfl
@[simp] theorem State.modFabric_ctxs (f : Fabric → Fabric) : (s.modFabric f).ctxs = s.ctxs := rfl
@[simp] theorem State.modFabric_queues (f : Fabric → Fabric) : (s.modFabric f).queues = s.queues := rfl
@[simp] theorem State.modFabric_adminLast (f : Fabric → Fabric) : (s.modFabric f).adminLast = s.adminLast := rfl
@[simp] theorem State.modFabric_holding (f : Fabric → Fabric) : (s.modFabric f).holding = s.holding := rfl
@[simp] theorem State.modFabric_walkPending (f : Fabric → Fabric) : (s.modFabric f).walkPending = s.walkPending := rfl
@[simp] theorem State.modFabric_windows (f : Fabric → Fabric) : (s.modFabric f).windows = s.windows := rfl
@[simp] theorem State.modFabric_engines (f : Fabric → Fabric) : (s.modFabric f).engines = s.engines := rfl
@[simp] theorem State.modFabric_faultLog (f : Fabric → Fabric) : (s.modFabric f).faultLog = s.faultLog := rfl
@[simp] theorem State.modFabric_host (f : Fabric → Fabric) : (s.modFabric f).host = s.host := rfl
@[simp] theorem State.modFabric_events (f : Fabric → Fabric) : (s.modFabric f).events = s.events := rfl
@[simp] theorem State.modFabric_ports (f : Fabric → Fabric) : (s.modFabric f).ports = s.ports := rfl
@[simp] theorem State.modFabric_gates (f : Fabric → Fabric) : (s.modFabric f).gates = s.gates := rfl
@[simp] theorem State.modFabric_power (f : Fabric → Fabric) : (s.modFabric f).power = s.power := rfl
@[simp] theorem State.modFabric_timed (f : Fabric → Fabric) : (s.modFabric f).timed = s.timed := rfl
@[simp] theorem State.modFabric_timedRef (f : Fabric → Fabric) : (s.modFabric f).timedRef = s.timedRef := rfl
@[simp] theorem State.modFabric_digests (f : Fabric → Fabric) : (s.modFabric f).digests = s.digests := rfl
@[simp] theorem State.modFabric_sec (f : Fabric → Fabric) : (s.modFabric f).sec = s.sec := rfl
@[simp] theorem State.modFabric_fabric (f : Fabric → Fabric) : (s.modFabric f).fabric = f s.fabric := rfl
@[simp] theorem State.modFabric_cluster (f : Fabric → Fabric) (i : Nat) : (s.modFabric f).cluster i = s.cluster i := rfl
@[simp] theorem State.modFabric_ctx (f : Fabric → Fabric) (i : Nat) : (s.modFabric f).ctx i = s.ctx i := rfl
@[simp] theorem State.modFabric_queue (f : Fabric → Fabric) (i : Nat) : (s.modFabric f).queue i = s.queue i := rfl
@[simp] theorem State.modFabric_engine (f : Fabric → Fabric) (i : Nat) : (s.modFabric f).engine i = s.engine i := rfl
@[simp] theorem State.modFabric_core (f : Fabric → Fabric) (i : Nat) : (s.modFabric f).core i = s.core i := rfl
@[simp] theorem State.modFabric_channel (f : Fabric → Fabric) (i : Nat) : (s.modFabric f).channel i = s.channel i := rfl
@[simp] theorem State.modFabric_linkEnd (f : Fabric → Fabric) (i : Nat) : (s.modFabric f).linkEnd i = s.linkEnd i := rfl
@[simp] theorem State.modFabric_port (f : Fabric → Fabric) (i : Nat) : (s.modFabric f).port i = s.port i := rfl
@[simp] theorem State.modFabric_gate (f : Fabric → Fabric) (i : Nat) : (s.modFabric f).gate i = s.gate i := rfl
@[simp] theorem State.modFabric_half (f : Fabric → Fabric) (h : Bool) : (s.modFabric f).half h = s.half h := rfl

/-! ### modPower -/

@[simp] theorem State.modPower_pending (f : Power → Power) : (s.modPower f).pending = s.pending := rfl
@[simp] theorem State.modPower_launchCounter (f : Power → Power) : (s.modPower f).launchCounter = s.launchCounter := rfl
@[simp] theorem State.modPower_free (f : Power → Power) : (s.modPower f).free = s.free := rfl
@[simp] theorem State.modPower_modState (f : Power → Power) : (s.modPower f).modState = s.modState := rfl
@[simp] theorem State.modPower_coldStep (f : Power → Power) : (s.modPower f).coldStep = s.coldStep := rfl
@[simp] theorem State.modPower_refuseWork (f : Power → Power) : (s.modPower f).refuseWork = s.refuseWork := rfl
@[simp] theorem State.modPower_starting (f : Power → Power) : (s.modPower f).starting = s.starting := rfl
@[simp] theorem State.modPower_sh (f : Power → Power) : (s.modPower f).sh = s.sh := rfl
@[simp] theorem State.modPower_links (f : Power → Power) : (s.modPower f).links = s.links := rfl
@[simp] theorem State.modPower_clusterMap (f : Power → Power) : (s.modPower f).clusterMap = s.clusterMap := rfl
@[simp] theorem State.modPower_clusters (f : Power → Power) : (s.modPower f).clusters = s.clusters := rfl
@[simp] theorem State.modPower_mem (f : Power → Power) : (s.modPower f).mem = s.mem := rfl
@[simp] theorem State.modPower_west (f : Power → Power) : (s.modPower f).west = s.west := rfl
@[simp] theorem State.modPower_east (f : Power → Power) : (s.modPower f).east = s.east := rfl
@[simp] theorem State.modPower_channels (f : Power → Power) : (s.modPower f).channels = s.channels := rfl
@[simp] theorem State.modPower_stackTemp (f : Power → Power) : (s.modPower f).stackTemp = s.stackTemp := rfl
@[simp] theorem State.modPower_cores (f : Power → Power) : (s.modPower f).cores = s.cores := rfl
@[simp] theorem State.modPower_ctxs (f : Power → Power) : (s.modPower f).ctxs = s.ctxs := rfl
@[simp] theorem State.modPower_queues (f : Power → Power) : (s.modPower f).queues = s.queues := rfl
@[simp] theorem State.modPower_adminLast (f : Power → Power) : (s.modPower f).adminLast = s.adminLast := rfl
@[simp] theorem State.modPower_holding (f : Power → Power) : (s.modPower f).holding = s.holding := rfl
@[simp] theorem State.modPower_walkPending (f : Power → Power) : (s.modPower f).walkPending = s.walkPending := rfl
@[simp] theorem State.modPower_windows (f : Power → Power) : (s.modPower f).windows = s.windows := rfl
@[simp] theorem State.modPower_engines (f : Power → Power) : (s.modPower f).engines = s.engines := rfl
@[simp] theorem State.modPower_faultLog (f : Power → Power) : (s.modPower f).faultLog = s.faultLog := rfl
@[simp] theorem State.modPower_host (f : Power → Power) : (s.modPower f).host = s.host := rfl
@[simp] theorem State.modPower_events (f : Power → Power) : (s.modPower f).events = s.events := rfl
@[simp] theorem State.modPower_ports (f : Power → Power) : (s.modPower f).ports = s.ports := rfl
@[simp] theorem State.modPower_fabric (f : Power → Power) : (s.modPower f).fabric = s.fabric := rfl
@[simp] theorem State.modPower_gates (f : Power → Power) : (s.modPower f).gates = s.gates := rfl
@[simp] theorem State.modPower_timed (f : Power → Power) : (s.modPower f).timed = s.timed := rfl
@[simp] theorem State.modPower_timedRef (f : Power → Power) : (s.modPower f).timedRef = s.timedRef := rfl
@[simp] theorem State.modPower_digests (f : Power → Power) : (s.modPower f).digests = s.digests := rfl
@[simp] theorem State.modPower_sec (f : Power → Power) : (s.modPower f).sec = s.sec := rfl
@[simp] theorem State.modPower_power (f : Power → Power) : (s.modPower f).power = f s.power := rfl
@[simp] theorem State.modPower_cluster (f : Power → Power) (i : Nat) : (s.modPower f).cluster i = s.cluster i := rfl
@[simp] theorem State.modPower_ctx (f : Power → Power) (i : Nat) : (s.modPower f).ctx i = s.ctx i := rfl
@[simp] theorem State.modPower_queue (f : Power → Power) (i : Nat) : (s.modPower f).queue i = s.queue i := rfl
@[simp] theorem State.modPower_engine (f : Power → Power) (i : Nat) : (s.modPower f).engine i = s.engine i := rfl
@[simp] theorem State.modPower_core (f : Power → Power) (i : Nat) : (s.modPower f).core i = s.core i := rfl
@[simp] theorem State.modPower_channel (f : Power → Power) (i : Nat) : (s.modPower f).channel i = s.channel i := rfl
@[simp] theorem State.modPower_linkEnd (f : Power → Power) (i : Nat) : (s.modPower f).linkEnd i = s.linkEnd i := rfl
@[simp] theorem State.modPower_port (f : Power → Power) (i : Nat) : (s.modPower f).port i = s.port i := rfl
@[simp] theorem State.modPower_gate (f : Power → Power) (i : Nat) : (s.modPower f).gate i = s.gate i := rfl
@[simp] theorem State.modPower_half (f : Power → Power) (h : Bool) : (s.modPower f).half h = s.half h := rfl

/-! ### modSec -/

@[simp] theorem State.modSec_pending (f : Security → Security) : (s.modSec f).pending = s.pending := rfl
@[simp] theorem State.modSec_launchCounter (f : Security → Security) : (s.modSec f).launchCounter = s.launchCounter := rfl
@[simp] theorem State.modSec_free (f : Security → Security) : (s.modSec f).free = s.free := rfl
@[simp] theorem State.modSec_modState (f : Security → Security) : (s.modSec f).modState = s.modState := rfl
@[simp] theorem State.modSec_coldStep (f : Security → Security) : (s.modSec f).coldStep = s.coldStep := rfl
@[simp] theorem State.modSec_refuseWork (f : Security → Security) : (s.modSec f).refuseWork = s.refuseWork := rfl
@[simp] theorem State.modSec_starting (f : Security → Security) : (s.modSec f).starting = s.starting := rfl
@[simp] theorem State.modSec_sh (f : Security → Security) : (s.modSec f).sh = s.sh := rfl
@[simp] theorem State.modSec_links (f : Security → Security) : (s.modSec f).links = s.links := rfl
@[simp] theorem State.modSec_clusterMap (f : Security → Security) : (s.modSec f).clusterMap = s.clusterMap := rfl
@[simp] theorem State.modSec_clusters (f : Security → Security) : (s.modSec f).clusters = s.clusters := rfl
@[simp] theorem State.modSec_mem (f : Security → Security) : (s.modSec f).mem = s.mem := rfl
@[simp] theorem State.modSec_west (f : Security → Security) : (s.modSec f).west = s.west := rfl
@[simp] theorem State.modSec_east (f : Security → Security) : (s.modSec f).east = s.east := rfl
@[simp] theorem State.modSec_channels (f : Security → Security) : (s.modSec f).channels = s.channels := rfl
@[simp] theorem State.modSec_stackTemp (f : Security → Security) : (s.modSec f).stackTemp = s.stackTemp := rfl
@[simp] theorem State.modSec_cores (f : Security → Security) : (s.modSec f).cores = s.cores := rfl
@[simp] theorem State.modSec_ctxs (f : Security → Security) : (s.modSec f).ctxs = s.ctxs := rfl
@[simp] theorem State.modSec_queues (f : Security → Security) : (s.modSec f).queues = s.queues := rfl
@[simp] theorem State.modSec_adminLast (f : Security → Security) : (s.modSec f).adminLast = s.adminLast := rfl
@[simp] theorem State.modSec_holding (f : Security → Security) : (s.modSec f).holding = s.holding := rfl
@[simp] theorem State.modSec_walkPending (f : Security → Security) : (s.modSec f).walkPending = s.walkPending := rfl
@[simp] theorem State.modSec_windows (f : Security → Security) : (s.modSec f).windows = s.windows := rfl
@[simp] theorem State.modSec_engines (f : Security → Security) : (s.modSec f).engines = s.engines := rfl
@[simp] theorem State.modSec_faultLog (f : Security → Security) : (s.modSec f).faultLog = s.faultLog := rfl
@[simp] theorem State.modSec_host (f : Security → Security) : (s.modSec f).host = s.host := rfl
@[simp] theorem State.modSec_events (f : Security → Security) : (s.modSec f).events = s.events := rfl
@[simp] theorem State.modSec_ports (f : Security → Security) : (s.modSec f).ports = s.ports := rfl
@[simp] theorem State.modSec_fabric (f : Security → Security) : (s.modSec f).fabric = s.fabric := rfl
@[simp] theorem State.modSec_gates (f : Security → Security) : (s.modSec f).gates = s.gates := rfl
@[simp] theorem State.modSec_power (f : Security → Security) : (s.modSec f).power = s.power := rfl
@[simp] theorem State.modSec_timed (f : Security → Security) : (s.modSec f).timed = s.timed := rfl
@[simp] theorem State.modSec_timedRef (f : Security → Security) : (s.modSec f).timedRef = s.timedRef := rfl
@[simp] theorem State.modSec_digests (f : Security → Security) : (s.modSec f).digests = s.digests := rfl
@[simp] theorem State.modSec_sec (f : Security → Security) : (s.modSec f).sec = f s.sec := rfl
@[simp] theorem State.modSec_cluster (f : Security → Security) (i : Nat) : (s.modSec f).cluster i = s.cluster i := rfl
@[simp] theorem State.modSec_ctx (f : Security → Security) (i : Nat) : (s.modSec f).ctx i = s.ctx i := rfl
@[simp] theorem State.modSec_queue (f : Security → Security) (i : Nat) : (s.modSec f).queue i = s.queue i := rfl
@[simp] theorem State.modSec_engine (f : Security → Security) (i : Nat) : (s.modSec f).engine i = s.engine i := rfl
@[simp] theorem State.modSec_core (f : Security → Security) (i : Nat) : (s.modSec f).core i = s.core i := rfl
@[simp] theorem State.modSec_channel (f : Security → Security) (i : Nat) : (s.modSec f).channel i = s.channel i := rfl
@[simp] theorem State.modSec_linkEnd (f : Security → Security) (i : Nat) : (s.modSec f).linkEnd i = s.linkEnd i := rfl
@[simp] theorem State.modSec_port (f : Security → Security) (i : Nat) : (s.modSec f).port i = s.port i := rfl
@[simp] theorem State.modSec_gate (f : Security → Security) (i : Nat) : (s.modSec f).gate i = s.gate i := rfl
@[simp] theorem State.modSec_half (f : Security → Security) (h : Bool) : (s.modSec f).half h = s.half h := rfl

/-! ### modHalf -/

@[simp] theorem State.modHalf_pending (h : Bool) (f : QHalf → QHalf) : (s.modHalf h f).pending = s.pending := by cases h <;> rfl
@[simp] theorem State.modHalf_launchCounter (h : Bool) (f : QHalf → QHalf) : (s.modHalf h f).launchCounter = s.launchCounter := by cases h <;> rfl
@[simp] theorem State.modHalf_free (h : Bool) (f : QHalf → QHalf) : (s.modHalf h f).free = s.free := by cases h <;> rfl
@[simp] theorem State.modHalf_modState (h : Bool) (f : QHalf → QHalf) : (s.modHalf h f).modState = s.modState := by cases h <;> rfl
@[simp] theorem State.modHalf_coldStep (h : Bool) (f : QHalf → QHalf) : (s.modHalf h f).coldStep = s.coldStep := by cases h <;> rfl
@[simp] theorem State.modHalf_refuseWork (h : Bool) (f : QHalf → QHalf) : (s.modHalf h f).refuseWork = s.refuseWork := by cases h <;> rfl
@[simp] theorem State.modHalf_starting (h : Bool) (f : QHalf → QHalf) : (s.modHalf h f).starting = s.starting := by cases h <;> rfl
@[simp] theorem State.modHalf_sh (h : Bool) (f : QHalf → QHalf) : (s.modHalf h f).sh = s.sh := by cases h <;> rfl
@[simp] theorem State.modHalf_links (h : Bool) (f : QHalf → QHalf) : (s.modHalf h f).links = s.links := by cases h <;> rfl
@[simp] theorem State.modHalf_clusterMap (h : Bool) (f : QHalf → QHalf) : (s.modHalf h f).clusterMap = s.clusterMap := by cases h <;> rfl
@[simp] theorem State.modHalf_clusters (h : Bool) (f : QHalf → QHalf) : (s.modHalf h f).clusters = s.clusters := by cases h <;> rfl
@[simp] theorem State.modHalf_mem (h : Bool) (f : QHalf → QHalf) : (s.modHalf h f).mem = s.mem := by cases h <;> rfl
@[simp] theorem State.modHalf_channels (h : Bool) (f : QHalf → QHalf) : (s.modHalf h f).channels = s.channels := by cases h <;> rfl
@[simp] theorem State.modHalf_stackTemp (h : Bool) (f : QHalf → QHalf) : (s.modHalf h f).stackTemp = s.stackTemp := by cases h <;> rfl
@[simp] theorem State.modHalf_cores (h : Bool) (f : QHalf → QHalf) : (s.modHalf h f).cores = s.cores := by cases h <;> rfl
@[simp] theorem State.modHalf_ctxs (h : Bool) (f : QHalf → QHalf) : (s.modHalf h f).ctxs = s.ctxs := by cases h <;> rfl
@[simp] theorem State.modHalf_queues (h : Bool) (f : QHalf → QHalf) : (s.modHalf h f).queues = s.queues := by cases h <;> rfl
@[simp] theorem State.modHalf_adminLast (h : Bool) (f : QHalf → QHalf) : (s.modHalf h f).adminLast = s.adminLast := by cases h <;> rfl
@[simp] theorem State.modHalf_holding (h : Bool) (f : QHalf → QHalf) : (s.modHalf h f).holding = s.holding := by cases h <;> rfl
@[simp] theorem State.modHalf_walkPending (h : Bool) (f : QHalf → QHalf) : (s.modHalf h f).walkPending = s.walkPending := by cases h <;> rfl
@[simp] theorem State.modHalf_windows (h : Bool) (f : QHalf → QHalf) : (s.modHalf h f).windows = s.windows := by cases h <;> rfl
@[simp] theorem State.modHalf_engines (h : Bool) (f : QHalf → QHalf) : (s.modHalf h f).engines = s.engines := by cases h <;> rfl
@[simp] theorem State.modHalf_faultLog (h : Bool) (f : QHalf → QHalf) : (s.modHalf h f).faultLog = s.faultLog := by cases h <;> rfl
@[simp] theorem State.modHalf_host (h : Bool) (f : QHalf → QHalf) : (s.modHalf h f).host = s.host := by cases h <;> rfl
@[simp] theorem State.modHalf_events (h : Bool) (f : QHalf → QHalf) : (s.modHalf h f).events = s.events := by cases h <;> rfl
@[simp] theorem State.modHalf_ports (h : Bool) (f : QHalf → QHalf) : (s.modHalf h f).ports = s.ports := by cases h <;> rfl
@[simp] theorem State.modHalf_fabric (h : Bool) (f : QHalf → QHalf) : (s.modHalf h f).fabric = s.fabric := by cases h <;> rfl
@[simp] theorem State.modHalf_gates (h : Bool) (f : QHalf → QHalf) : (s.modHalf h f).gates = s.gates := by cases h <;> rfl
@[simp] theorem State.modHalf_power (h : Bool) (f : QHalf → QHalf) : (s.modHalf h f).power = s.power := by cases h <;> rfl
@[simp] theorem State.modHalf_timed (h : Bool) (f : QHalf → QHalf) : (s.modHalf h f).timed = s.timed := by cases h <;> rfl
@[simp] theorem State.modHalf_timedRef (h : Bool) (f : QHalf → QHalf) : (s.modHalf h f).timedRef = s.timedRef := by cases h <;> rfl
@[simp] theorem State.modHalf_digests (h : Bool) (f : QHalf → QHalf) : (s.modHalf h f).digests = s.digests := by cases h <;> rfl
@[simp] theorem State.modHalf_sec (h : Bool) (f : QHalf → QHalf) : (s.modHalf h f).sec = s.sec := by cases h <;> rfl
@[simp] theorem State.modHalf_half_same (h : Bool) (f : QHalf → QHalf) : (s.modHalf h f).half h = f (s.half h) := by cases h <;> rfl
@[simp] theorem State.modHalf_half_other (h : Bool) (f : QHalf → QHalf) : (s.modHalf h f).half (!h) = s.half (!h) := by cases h <;> rfl
@[simp] theorem State.modHalf_cluster (h : Bool) (f : QHalf → QHalf) (i : Nat) : (s.modHalf h f).cluster i = s.cluster i := by cases h <;> rfl
@[simp] theorem State.modHalf_ctx (h : Bool) (f : QHalf → QHalf) (i : Nat) : (s.modHalf h f).ctx i = s.ctx i := by cases h <;> rfl
@[simp] theorem State.modHalf_queue (h : Bool) (f : QHalf → QHalf) (i : Nat) : (s.modHalf h f).queue i = s.queue i := by cases h <;> rfl
@[simp] theorem State.modHalf_engine (h : Bool) (f : QHalf → QHalf) (i : Nat) : (s.modHalf h f).engine i = s.engine i := by cases h <;> rfl
@[simp] theorem State.modHalf_core (h : Bool) (f : QHalf → QHalf) (i : Nat) : (s.modHalf h f).core i = s.core i := by cases h <;> rfl
@[simp] theorem State.modHalf_channel (h : Bool) (f : QHalf → QHalf) (i : Nat) : (s.modHalf h f).channel i = s.channel i := by cases h <;> rfl
@[simp] theorem State.modHalf_linkEnd (h : Bool) (f : QHalf → QHalf) (i : Nat) : (s.modHalf h f).linkEnd i = s.linkEnd i := by cases h <;> rfl
@[simp] theorem State.modHalf_port (h : Bool) (f : QHalf → QHalf) (i : Nat) : (s.modHalf h f).port i = s.port i := by cases h <;> rfl
@[simp] theorem State.modHalf_gate (h : Bool) (f : QHalf → QHalf) (i : Nat) : (s.modHalf h f).gate i = s.gate i := by cases h <;> rfl

/-! ### modGroup -/

@[simp] theorem State.modGroup_pending (c g : Nat) (f : Group → Group) : (s.modGroup c g f).pending = s.pending := rfl
@[simp] theorem State.modGroup_launchCounter (c g : Nat) (f : Group → Group) : (s.modGroup c g f).launchCounter = s.launchCounter := rfl
@[simp] theorem State.modGroup_free (c g : Nat) (f : Group → Group) : (s.modGroup c g f).free = s.free := rfl
@[simp] theorem State.modGroup_modState (c g : Nat) (f : Group → Group) : (s.modGroup c g f).modState = s.modState := rfl
@[simp] theorem State.modGroup_coldStep (c g : Nat) (f : Group → Group) : (s.modGroup c g f).coldStep = s.coldStep := rfl
@[simp] theorem State.modGroup_refuseWork (c g : Nat) (f : Group → Group) : (s.modGroup c g f).refuseWork = s.refuseWork := rfl
@[simp] theorem State.modGroup_starting (c g : Nat) (f : Group → Group) : (s.modGroup c g f).starting = s.starting := rfl
@[simp] theorem State.modGroup_sh (c g : Nat) (f : Group → Group) : (s.modGroup c g f).sh = s.sh := rfl
@[simp] theorem State.modGroup_links (c g : Nat) (f : Group → Group) : (s.modGroup c g f).links = s.links := rfl
@[simp] theorem State.modGroup_clusterMap (c g : Nat) (f : Group → Group) : (s.modGroup c g f).clusterMap = s.clusterMap := rfl
@[simp] theorem State.modGroup_mem (c g : Nat) (f : Group → Group) : (s.modGroup c g f).mem = s.mem := rfl
@[simp] theorem State.modGroup_west (c g : Nat) (f : Group → Group) : (s.modGroup c g f).west = s.west := rfl
@[simp] theorem State.modGroup_east (c g : Nat) (f : Group → Group) : (s.modGroup c g f).east = s.east := rfl
@[simp] theorem State.modGroup_channels (c g : Nat) (f : Group → Group) : (s.modGroup c g f).channels = s.channels := rfl
@[simp] theorem State.modGroup_stackTemp (c g : Nat) (f : Group → Group) : (s.modGroup c g f).stackTemp = s.stackTemp := rfl
@[simp] theorem State.modGroup_cores (c g : Nat) (f : Group → Group) : (s.modGroup c g f).cores = s.cores := rfl
@[simp] theorem State.modGroup_ctxs (c g : Nat) (f : Group → Group) : (s.modGroup c g f).ctxs = s.ctxs := rfl
@[simp] theorem State.modGroup_queues (c g : Nat) (f : Group → Group) : (s.modGroup c g f).queues = s.queues := rfl
@[simp] theorem State.modGroup_adminLast (c g : Nat) (f : Group → Group) : (s.modGroup c g f).adminLast = s.adminLast := rfl
@[simp] theorem State.modGroup_holding (c g : Nat) (f : Group → Group) : (s.modGroup c g f).holding = s.holding := rfl
@[simp] theorem State.modGroup_walkPending (c g : Nat) (f : Group → Group) : (s.modGroup c g f).walkPending = s.walkPending := rfl
@[simp] theorem State.modGroup_windows (c g : Nat) (f : Group → Group) : (s.modGroup c g f).windows = s.windows := rfl
@[simp] theorem State.modGroup_engines (c g : Nat) (f : Group → Group) : (s.modGroup c g f).engines = s.engines := rfl
@[simp] theorem State.modGroup_faultLog (c g : Nat) (f : Group → Group) : (s.modGroup c g f).faultLog = s.faultLog := rfl
@[simp] theorem State.modGroup_host (c g : Nat) (f : Group → Group) : (s.modGroup c g f).host = s.host := rfl
@[simp] theorem State.modGroup_events (c g : Nat) (f : Group → Group) : (s.modGroup c g f).events = s.events := rfl
@[simp] theorem State.modGroup_ports (c g : Nat) (f : Group → Group) : (s.modGroup c g f).ports = s.ports := rfl
@[simp] theorem State.modGroup_fabric (c g : Nat) (f : Group → Group) : (s.modGroup c g f).fabric = s.fabric := rfl
@[simp] theorem State.modGroup_gates (c g : Nat) (f : Group → Group) : (s.modGroup c g f).gates = s.gates := rfl
@[simp] theorem State.modGroup_power (c g : Nat) (f : Group → Group) : (s.modGroup c g f).power = s.power := rfl
@[simp] theorem State.modGroup_timed (c g : Nat) (f : Group → Group) : (s.modGroup c g f).timed = s.timed := rfl
@[simp] theorem State.modGroup_timedRef (c g : Nat) (f : Group → Group) : (s.modGroup c g f).timedRef = s.timedRef := rfl
@[simp] theorem State.modGroup_digests (c g : Nat) (f : Group → Group) : (s.modGroup c g f).digests = s.digests := rfl
@[simp] theorem State.modGroup_sec (c g : Nat) (f : Group → Group) : (s.modGroup c g f).sec = s.sec := rfl
@[simp] theorem State.modGroup_group_same (c g : Nat) (f : Group → Group) : (s.modGroup c g f).group c g = f (s.group c g) := by
  simp [State.modGroup, State.group, Cluster.modGroup, Cluster.group]
theorem State.modGroup_group_other (c : Nat) {g h : Nat} (f : Group → Group) (hg : h ≠ g) :
    (s.modGroup c g f).group c h = s.group c h := by
  simp [State.modGroup, State.group, Cluster.modGroup, Cluster.group, tget_tmod_other _ _ _ hg]
theorem State.modGroup_cluster_other {c d : Nat} (g : Nat) (f : Group → Group) (h : d ≠ c) :
    (s.modGroup c g f).cluster d = s.cluster d := State.modCluster_cluster_other s _ h

end Sys2Proof.Machine
end

