-- ==== Sys2Proof/Laws/Memory.lean ====
section
/-!
SUPPORT. What the operations over memory, records and events can change, and that each keeps memory in canonical form.
-/

namespace Sys2Proof.Machine

/-! ### A frame for records -/

/-- Nothing but what a record, an event or a write below the Quire touches differs: the host-bound stream, the event log, the cores, memory, the
Quire's halves, the channels, the records held before the event log exists, and the counts of the contexts' Quire counter registers. -/
structure Recorded (s t : State) : Prop where
  rest : t = { s with host := t.host, events := t.events, cores := t.cores, mem := t.mem, west := t.west, east := t.east,
                      channels := t.channels, sec := t.sec, ctxs := t.ctxs }
  counts : ∀ x, t.ctx x = { s.ctx x with counter := (t.ctx x).counter }

theorem Recorded.refl (s : State) : Recorded s s := ⟨rfl, fun _ => rfl⟩

theorem Recorded.trans {s t u : State} (h : Recorded s t) (k : Recorded t u) : Recorded s u :=
  ⟨by rw [k.rest, h.rest], fun x => by rw [k.counts x, h.counts x]⟩

/-- A change that leaves the contexts alone. -/
theorem Recorded.of_ctxs {s t : State}
    (h : t = { s with host := t.host, events := t.events, cores := t.cores, mem := t.mem, west := t.west, east := t.east,
                      channels := t.channels, sec := t.sec }) : Recorded s t := by
  have hc : t.ctxs = s.ctxs := by rw [h]
  refine ⟨?_, fun x => ?_⟩
  · rw [h]
  · simp only [State.ctx, hc]

/-- A fold of steps, each of which a reflexive and transitive relation allows. -/
theorem foldl_rel {α β : Type} {R : β → β → Prop} (hr : ∀ s, R s s) (ht : ∀ {s t u}, R s t → R t u → R s u) (f : β → α → β)
    (hf : ∀ s x, R s (f s x)) (l : List α) : ∀ s, R s (l.foldl f s) := by
  induction l with
  | nil => exact hr
  | cons x l ih => intro s; exact ht (hf s x) (ih (f s x))

theorem Recorded.foldl {α : Type} (f : State → α → State) (hf : ∀ s x, Recorded s (f s x)) (l : List α) (s : State) :
    Recorded s (l.foldl f s) := foldl_rel Recorded.refl Recorded.trans f hf l s

theorem Recorded.modCore (s : State) (n : Nat) (f : ZCore → ZCore) : Recorded s (s.modCore n f) := .of_ctxs rfl
theorem Recorded.modChannel (s : State) (n : Nat) (f : Channel → Channel) : Recorded s (s.modChannel n f) := .of_ctxs rfl
theorem Recorded.modHost (s : State) (f : HostLink → HostLink) : Recorded s (s.modHost f) := .of_ctxs rfl
theorem Recorded.modSec (s : State) (f : Security → Security) : Recorded s (s.modSec f) := .of_ctxs rfl
theorem Recorded.modHalf (s : State) (h : Bool) (f : QHalf → QHalf) : Recorded s (s.modHalf h f) := .of_ctxs (by cases h <;> rfl)

theorem State.countDead_recorded (s : State) (x lo : Nat) : Recorded s (s.countDead x lo) := by
  refine ⟨rfl, fun y => ?_⟩
  unfold State.countDead
  by_cases h : y = x
  · subst h; simp
  · rw [State.modCtx_ctx_other s _ h]

theorem State.filterNote_recorded (s : State) (h : Bool) (pa : Nat) (r : Bool) : Recorded s (s.filterNote h pa r) := by
  unfold State.filterNote
  split
  · exact Recorded.refl s
  · dsimp only
    split
    · exact (Recorded.modHalf s _ _).trans (State.countDead_recorded _ _ _)
    · exact Recorded.modHalf s _ _

theorem State.noteAccess_recorded (s : State) (pa hint : Nat) (r : Bool) : Recorded s (s.noteAccess pa hint r) := by
  have ht : Recorded s (if ((s.half (homeEast pa)).lineAt pa).isSome then s.touchLine pa hint else s) := by
    split
    · exact Recorded.modHalf _ _ _
    · exact Recorded.refl s
  unfold State.noteAccess
  dsimp only
  split
  · exact Recorded.refl s
  · split
    · exact ht
    · exact ht.trans (State.filterNote_recorded _ _ _ _)

theorem State.countErrs_recorded (s : State) (ch : Nat) (es : List SymErr) : Recorded s (s.countErrs ch es) := by
  unfold State.countErrs
  dsimp only
  split
  · exact Recorded.refl s
  · exact Recorded.modChannel _ _ _

theorem State.dropCoreCopies_recorded (s : State) (pa : Nat) : Recorded s (s.dropCoreCopies pa) := by
  unfold State.dropCoreCopies
  dsimp only
  split
  · exact Recorded.refl s
  · exact (Recorded.foldl _ (fun s n => Recorded.modCore s n _) _ s).trans (Recorded.modHalf _ _ _)

theorem State.pokeHome_recorded (s : State) (pa : Nat) (d : Sector) : Recorded s (s.pokeHome pa d) := by
  unfold State.pokeHome
  dsimp only
  split
  · exact Recorded.modHalf _ _ _
  · split
    · exact Recorded.modHalf _ _ _
    · split
      · exact Recorded.modChannel _ _ _
      · exact .of_ctxs rfl

/-- Writing a sector in one step at the Quire. -/
theorem State.pokeSector_recorded (s : State) (pa : Nat) (d : Sector) : Recorded s (s.pokeSector pa d) := by
  unfold State.pokeSector
  split
  · exact Recorded.modHalf _ _ _
  · exact ((s.filterNote_recorded _ _ _).trans (State.dropCoreCopies_recorded _ pa)).trans (State.pokeHome_recorded _ _ _)

/-- Writing bytes of a sector in one step at the Quire. -/
theorem State.pokeMasked_recorded (s : State) (pa : Nat) (d : Sector) (m : BitVec 128) (x : Option Nat) :
    Recorded s (s.pokeMasked pa d m x) := by
  unfold State.pokeMasked
  split
  · exact Recorded.modHalf _ _ _
  · split
    · exact s.pokeSector_recorded _ _
    · split
      · exact s.countErrs_recorded _ _
      · exact (s.countErrs_recorded _ _).trans (State.pokeSector_recorded _ _ _)

@[simp] theorem State.countDead_events (s : State) (x lo : Nat) : (s.countDead x lo).events = s.events := rfl
@[simp] theorem State.countDead_mem (s : State) (x lo : Nat) : (s.countDead x lo).mem = s.mem := rfl

@[simp] theorem State.filterNote_events (s : State) (h : Bool) (pa : Nat) (r : Bool) : (s.filterNote h pa r).events = s.events := by
  unfold State.filterNote
  split
  · rfl
  · dsimp only; split <;> simp

@[simp] theorem State.filterNote_mem (s : State) (h : Bool) (pa : Nat) (r : Bool) : (s.filterNote h pa r).mem = s.mem := by
  unfold State.filterNote
  split
  · rfl
  · dsimp only; split <;> simp

@[simp] theorem State.countErrs_events (s : State) (ch : Nat) (es : List SymErr) : (s.countErrs ch es).events = s.events := by
  unfold State.countErrs; dsimp only; split <;> simp

@[simp] theorem State.countErrs_mem (s : State) (ch : Nat) (es : List SymErr) : (s.countErrs ch es).mem = s.mem := by
  unfold State.countErrs; dsimp only; split <;> simp

@[simp] theorem State.dropCoreCopies_events (s : State) (pa : Nat) : (s.dropCoreCopies pa).events = s.events := by
  have hc : ∀ (l : List Nat) (g : ZCore → ZCore) (s : State), (l.foldl (fun s n => s.modCore n g) s).events = s.events := by
    intro l g
    induction l with
    | nil => intro s; rfl
    | cons n l ih => intro s; exact ih (s.modCore n g)
  unfold State.dropCoreCopies
  dsimp only
  split
  · rfl
  · simp [hc]

@[simp] theorem State.dropCoreCopies_mem (s : State) (pa : Nat) : (s.dropCoreCopies pa).mem = s.mem := by
  have hc : ∀ (l : List Nat) (g : ZCore → ZCore) (s : State), (l.foldl (fun s n => s.modCore n g) s).mem = s.mem := by
    intro l g
    induction l with
    | nil => intro s; rfl
    | cons n l ih => intro s; exact ih (s.modCore n g)
  unfold State.dropCoreCopies
  dsimp only
  split
  · rfl
  · simp [hc]

@[simp] theorem State.pokeSector_events (s : State) (pa : Nat) (d : Sector) : (s.pokeSector pa d).events = s.events := by
  unfold State.pokeSector State.pokeHome
  dsimp only
  repeat' split
  all_goals simp

@[simp] theorem State.pokeMasked_events (s : State) (pa : Nat) (d : Sector) (m : BitVec 128) (x : Option Nat) :
    (s.pokeMasked pa d m x).events = s.events := by
  unfold State.pokeMasked State.countFetch
  repeat' split
  all_goals simp

theorem State.logAt_recorded (s : State) (off : Nat) (bs : List Byte) : Recorded s (s.logAt off bs) := by
  unfold State.logAt
  split
  · exact Recorded.refl s
  · exact s.pokeMasked_recorded _ _ _ _

theorem State.hostSend_recorded (s : State) (w : HostWrite) : Recorded s (s.hostSend w) :=
  .of_ctxs (by unfold State.hostSend; split <;> rfl)

/-- While the host is attached a posted write goes to the end of the stream and changes nothing else. -/
theorem State.hostSend_attached (s : State) (w : HostWrite) (h : s.host.attach = 2) :
    s.hostSend w = { s with host := { s.host with stream := s.host.stream ++ [w] } } := by
  simp [State.hostSend, h, State.modHost]

/-- A posted write changes the host link alone. -/
theorem State.hostSend_host (s : State) (w : HostWrite) : s.hostSend w = { s with host := (s.hostSend w).host } := by
  unfold State.hostSend; split <;> rfl

/-- Signalling a vector changes the host link alone. -/
theorem State.signal_host (s : State) (v : Nat) : s.signal v = { s with host := (s.signal v).host } := by
  have hm : ∀ (s : State) (f : HostLink → HostLink), s.modHost f = { s with host := (s.modHost f).host } := fun _ _ => rfl
  have hw : ∀ (s : State) (w : HostWrite) (f : HostLink → HostLink),
      (s.hostSend w).modHost f = { s with host := ((s.hostSend w).modHost f).host } := by
    intro s w f
    unfold State.hostSend; split <;> rfl
  unfold State.signal
  dsimp only
  split
  · exact hm _ _
  · split
    · exact hm _ _
    · split
      · exact s.hostSend_host _
      · exact hw _ _ _

theorem State.signal_recorded (s : State) (v : Nat) : Recorded s (s.signal v) := by
  apply Recorded.of_ctxs
  rw [s.signal_host v]

theorem State.msi_recorded (s : State) (v : Nat) : Recorded s (s.msi v) := by
  unfold State.msi; split
  · exact s.signal_recorded v
  · exact Recorded.refl s

theorem State.eventToHost_recorded (s : State) (seq : Nat) (r : BitVec 512) : Recorded s (s.eventToHost seq r) :=
  s.hostSend_recorded _

/-- Setting the cores' event-log interrupt changes the cores alone. -/
theorem State.eventInterrupt_recorded (s : State) : Recorded s s.eventInterrupt := by
  unfold State.eventInterrupt
  generalize (List.range 64).foldl _ s.cores = c
  exact .of_ctxs rfl

theorem State.eventInterrupt_events (s : State) : s.eventInterrupt.events = s.events := by
  unfold State.eventInterrupt
  generalize (List.range 64).foldl _ s.cores = c
  rfl

theorem State.eventInterrupt_mem (s : State) : s.eventInterrupt.mem = s.mem := by
  unfold State.eventInterrupt
  generalize (List.range 64).foldl _ s.cores = c
  rfl

theorem State.logRecord_recorded (s : State) (r : BitVec 512) : Recorded s (s.logRecord r) :=
  Recorded.trans (t := { s with events := s.events.append r }) (.of_ctxs rfl)
    ((State.logAt_recorded _ _ _).trans (State.eventInterrupt_recorded _))

/-- Raising an event. -/
theorem State.event_recorded (s : State) (cls : Nat) (x : Option Nat) (payload vec : Nat) :
    Recorded s (s.event cls x payload vec) := by
  unfold State.event State.raise
  split
  · split
    · exact .of_ctxs rfl
    · exact Recorded.refl s
  · split
    · exact (s.logRecord_recorded _).trans ((State.eventToHost_recorded _ _ _).trans (State.msi_recorded _ _))
    · exact s.logRecord_recorded _

theorem State.memError_recorded (s : State) (kind ch : Nat) (pos : Option Nat) (level : Nat) (pa x : Option Nat) :
    Recorded s (s.memError kind ch pos level pa x) := (Recorded.modChannel _ _ _).trans (State.event_recorded _ _ _ _ _)

theorem State.pokeMaskNoted_recorded (s : State) (pa : Nat) (d : Sector) (m : BitVec 128) (x : Option Nat) :
    Recorded s (s.pokeMaskNoted pa d m x) := by
  unfold State.pokeMaskNoted
  dsimp only
  split
  · exact s.pokeMasked_recorded _ _ _ _
  · exact (s.pokeMasked_recorded _ _ _ _).trans (State.memError_recorded _ _ _ _ _ _ _)

theorem State.recordAt_recorded (s : State) (off : Nat) (bs : List Byte) : Recorded s (s.recordAt off bs) := by
  unfold State.recordAt
  split
  · exact Recorded.refl s
  · exact s.pokeMaskNoted_recorded _ _ _ _

theorem State.loseSector_recorded (s : State) (h : Bool) (set w i : Nat) : Recorded s (s.loseSector h set w i) := by
  unfold State.loseSector
  dsimp only
  generalize hu : State.deviceError _ _ _ _ _ _ _ _ _ = u
  have h1 : Recorded s u := by rw [← hu]; exact (Recorded.modHalf s h _).trans (State.event_recorded _ _ _ _ _)
  split
  · split
    · exact h1.trans (Recorded.modHalf _ _ _)
    · exact h1
  · exact h1

theorem State.foundWeak_recorded (s : State) (pa : Nat) (lose : State → Bool → Nat → Nat → Nat → State)
    (hl : ∀ s h set w i, Recorded s (lose s h set w i)) : Recorded s (s.foundWeak pa lose) := by
  unfold State.foundWeak
  dsimp only
  split
  · exact Recorded.refl s
  · split
    · exact Recorded.refl s
    · split
      · exact hl _ _ _ _ _
      · exact Recorded.modHalf _ _ _

theorem State.downOwner_recorded (s : State) (pa : Nat) : Recorded s (s.downOwner pa) := by
  unfold State.downOwner
  dsimp only
  split
  · exact Recorded.refl s
  · have h : ∀ pa n b, Recorded s (s.shareCopy pa n b) := fun pa n b => (Recorded.modHalf s _ _).trans (Recorded.modCore _ _ _)
    replace h := h (sectorBase pa)
    split
    · exact (h _ _).trans (State.pokeHome_recorded _ _ _)
    · exact (h _ _).trans (State.loseSector_recorded _ _ _ _ _)
    · exact h _ _

theorem State.noteRead_recorded (s : State) (pa : Nat) (x : Option Nat) (hint : Nat) : Recorded s (s.noteRead pa x hint) := by
  have hn : ∀ u : State, Recorded u ((u.countFetch pa).noteAccess pa hint true) :=
    fun u => (u.countErrs_recorded _ _).trans (State.noteAccess_recorded _ _ _ _)
  have h := ((s.downOwner_recorded pa).trans (State.foundWeak_recorded _ pa _ State.loseSector_recorded)).trans (hn _)
  unfold State.noteRead
  dsimp only
  split
  · exact h.trans (State.memError_recorded _ _ _ _ _ _ _)
  · exact h

theorem State.noteWalk_recorded (s : State) (x va : Nat) : Recorded s (s.noteWalk x va) := by
  unfold State.noteWalk
  split
  · exact Recorded.refl s
  · exact Recorded.foldl _ (fun s pa => s.noteRead_recorded pa _ _) _ s

/-- A write of one piece of a sector through a context's tables. -/
theorem State.writePieceVA_recorded (s : State) (x va : Nat) (bs : List Byte) : Recorded s (s.writePieceVA x va bs) := by
  unfold State.writePieceVA
  split
  · split
    · exact Recorded.refl s
    · exact (s.noteWalk_recorded x va).trans (State.pokeMaskNoted_recorded _ _ _ _ _)
  · exact s.noteWalk_recorded x va

theorem State.writeVA_recorded (x : Nat) (bs : List Byte) (s : State) (a : Nat) : Recorded s (s.writeVA x a bs) :=
  Recorded.foldl (fun (s : State) (p : Nat × List Byte) => s.writePieceVA x p.1 p.2) (fun s p => s.writePieceVA_recorded x p.1 p.2) _ s

theorem State.hostSend_events (s : State) (w : HostWrite) : (s.hostSend w).events = s.events := by
  unfold State.hostSend; split <;> rfl

theorem State.signal_events (s : State) (v : Nat) : (s.signal v).events = s.events := by
  have h := congrArg State.events (s.signal_host v)
  exact h

theorem State.msi_events (s : State) (v : Nat) : (s.msi v).events = s.events := by
  unfold State.msi; split
  · exact s.signal_events v
  · rfl

theorem State.logAt_events (s : State) (off : Nat) (bs : List Byte) : (s.logAt off bs).events = s.events := by
  unfold State.logAt; split
  · rfl
  · exact State.pokeMasked_events _ _ _ _ _

theorem State.logRecord_events (s : State) (r : BitVec 512) : (s.logRecord r).events = s.events.append r := by
  unfold State.logRecord
  rw [State.eventInterrupt_events, State.logAt_events]

/-- After cold-start step 8 every event enters the log with the next Seq. -/
theorem State.event_events (s : State) (cls : Nat) (x : Option Nat) (payload vec : Nat) (h : ¬ s.coldStep < 9) :
    (s.event cls x payload vec).events = s.events.append (s.eventRecord cls x payload) := by
  unfold State.event State.raise
  rw [if_neg h]
  split
  · rw [State.msi_events, State.eventToHost, State.hostSend_events, State.logRecord_events]
  · rw [State.logRecord_events]

/-! ### Canonical form -/

theorem State.pokeSector_mem (s : State) (pa : Nat) (d : Sector) (h : Memory.wf s.mem = true) :
    Memory.wf (s.pokeSector pa d).mem = true := by
  have hw : Memory.wf (writeBytes s.mem pa (sectorBytes d)) = true := Tbl.wf_writeBytes h _ _
  unfold State.pokeSector State.pokeHome
  dsimp only
  repeat' split
  all_goals first
    | (simp [h]; done)
    | simpa using hw

theorem State.pokeMasked_mem (s : State) (pa : Nat) (d : Sector) (m : BitVec 128) (x : Option Nat) (h : Memory.wf s.mem = true) :
    Memory.wf (s.pokeMasked pa d m x).mem = true := by
  have hc : Memory.wf (s.countFetch pa).mem = true := by simpa [State.countFetch] using h
  unfold State.pokeMasked
  repeat' split
  · simpa using h
  · exact s.pokeSector_mem _ _ h
  · exact hc
  · exact State.pokeSector_mem _ _ _ hc

theorem State.logAt_mem (s : State) (off : Nat) (bs : List Byte) (h : Memory.wf s.mem = true) :
    Memory.wf (s.logAt off bs).mem = true := by
  unfold State.logAt
  split
  · exact h
  · exact State.pokeMasked_mem _ _ _ _ _ h

theorem State.writeDie_mem (s : State) (c pa : Nat) (d : Sector) (h : Memory.wf s.mem = true) :
    Memory.wf (s.writeDie c pa d).mem = true := Tbl.wf_writeBytes h _ _

@[simp] theorem State.hostSend_mem (s : State) (w : HostWrite) : (s.hostSend w).mem = s.mem := by
  unfold State.hostSend; split <;> rfl

@[simp] theorem State.signal_mem (s : State) (v : Nat) : (s.signal v).mem = s.mem := by
  have h := congrArg State.mem (s.signal_host v)
  exact h

@[simp] theorem State.msi_mem (s : State) (v : Nat) : (s.msi v).mem = s.mem := by
  unfold State.msi; split <;> simp

@[simp] theorem State.eventToHost_mem (s : State) (n : Nat) (r : BitVec 512) : (s.eventToHost n r).mem = s.mem := s.hostSend_mem _

theorem State.logRecord_mem (s : State) (r : BitVec 512) (h : Memory.wf s.mem = true) : Memory.wf (s.logRecord r).mem = true := by
  unfold State.logRecord
  rw [State.eventInterrupt_mem]
  exact State.logAt_mem _ _ _ h

theorem State.event_mem (s : State) (cls : Nat) (x : Option Nat) (payload vec : Nat) (h : Memory.wf s.mem = true) :
    Memory.wf (s.event cls x payload vec).mem = true := by
  unfold State.event State.raise
  split
  · split <;> exact h
  · split
    · rw [State.msi_mem, State.eventToHost_mem]; exact s.logRecord_mem _ h
    · exact s.logRecord_mem _ h

@[simp] theorem State.noteAccess_mem (s : State) (pa hint : Nat) (r : Bool) : (s.noteAccess pa hint r).mem = s.mem := by
  have ht : (if ((s.half (homeEast pa)).lineAt pa).isSome then s.touchLine pa hint else s).mem = s.mem := by
    split
    · exact State.modHalf_mem _ _ _
    · rfl
  unfold State.noteAccess
  dsimp only
  split
  · rfl
  · split
    · exact ht
    · rw [State.filterNote_mem]; exact ht

theorem State.memError_mem (s : State) (kind ch : Nat) (pos : Option Nat) (level : Nat) (pa x : Option Nat) (h : Memory.wf s.mem = true) :
    Memory.wf (s.memError kind ch pos level pa x).mem = true := State.event_mem _ _ _ _ _ h

theorem State.pokeMaskNoted_mem (s : State) (pa : Nat) (d : Sector) (m : BitVec 128) (x : Option Nat) (h : Memory.wf s.mem = true) :
    Memory.wf (s.pokeMaskNoted pa d m x).mem = true := by
  unfold State.pokeMaskNoted
  dsimp only
  split
  · exact State.pokeMasked_mem _ _ _ _ _ h
  · exact State.memError_mem _ _ _ _ _ _ _ (State.pokeMasked_mem _ _ _ _ _ h)

theorem State.recordAt_mem (s : State) (off : Nat) (bs : List Byte) (h : Memory.wf s.mem = true) :
    Memory.wf (s.recordAt off bs).mem = true := by
  unfold State.recordAt
  split
  · exact h
  · exact State.pokeMaskNoted_mem _ _ _ _ _ h

theorem State.loseSector_mem (s : State) (h : Bool) (set w i : Nat) (hm : Memory.wf s.mem = true) :
    Memory.wf (s.loseSector h set w i).mem = true := by
  unfold State.loseSector
  dsimp only
  generalize hu : State.deviceError _ _ _ _ _ _ _ _ _ = u
  have h1 : Memory.wf u.mem = true := by rw [← hu]; exact State.event_mem _ _ _ _ _ (by simpa using hm)
  split
  · split
    · simpa using h1
    · exact h1
  · exact h1

theorem State.pokeHome_mem (s : State) (pa : Nat) (d : Sector) (h : Memory.wf s.mem = true) :
    Memory.wf (s.pokeHome pa d).mem = true := by
  have hw : Memory.wf (writeBytes s.mem pa (sectorBytes d)) = true := Tbl.wf_writeBytes h _ _
  unfold State.pokeHome
  dsimp only
  repeat' split
  all_goals first
    | (simp [h]; done)
    | simpa using hw

theorem State.foundWeak_mem (s : State) (pa : Nat) (h : Memory.wf s.mem = true) :
    Memory.wf (s.foundWeak pa State.loseSector).mem = true := by
  unfold State.foundWeak
  dsimp only
  split
  · exact h
  · split
    · exact h
    · split
      · exact State.loseSector_mem _ _ _ _ _ h
      · simpa using h

theorem State.downOwner_mem (s : State) (pa : Nat) (h : Memory.wf s.mem = true) : Memory.wf (s.downOwner pa).mem = true := by
  unfold State.downOwner
  dsimp only
  split
  · exact h
  · have hs : ∀ pa n b, Memory.wf (s.shareCopy pa n b).mem = true := fun pa n b => by simpa [State.shareCopy] using h
    split
    · exact State.pokeHome_mem _ _ _ (hs _ _ _)
    · exact State.loseSector_mem _ _ _ _ _ (hs _ _ _)
    · exact hs _ _ _

/-- Writing whole sectors keeps the canonical form. -/
theorem State.pokeWhole_mem (s : State) (lo : Nat) (bs : List Byte) (h : Memory.wf s.mem = true) :
    Memory.wf (s.pokeWhole lo bs).mem = true := by
  unfold State.pokeWhole
  dsimp only
  generalize List.filter _ s.aboveDies = l
  have hl : ∀ m : List Host.Cell, Memory.wf m = true →
      Memory.wf (l.foldl (fun m p => writeBytes m (p * 128) (readBytes s.mem (p * 128) 128)) m) = true := by
    induction l with
    | nil => exact fun m hm => hm
    | cons p l ih => exact fun m hm => ih _ (Tbl.wf_writeBytes hm _ _)
  exact hl _ (Tbl.wf_writeBytes h _ _)

theorem State.noteRead_mem (s : State) (pa : Nat) (x : Option Nat) (hint : Nat) (h : Memory.wf s.mem = true) :
    Memory.wf (s.noteRead pa x hint).mem = true := by
  have hd := State.foundWeak_mem _ pa (s.downOwner_mem pa h)
  have hc : Memory.wf ((((s.downOwner pa).foundWeak pa State.loseSector).countFetch pa).noteAccess pa hint true).mem = true := by
    simpa [State.countFetch] using hd
  unfold State.noteRead
  dsimp only
  split
  · exact State.memError_mem _ _ _ _ _ _ _ hc
  · exact hc

/-- A fold of steps each of which keeps the canonical form keeps it. -/
theorem foldl_mem {α : Type} (f : State → α → State) (hf : ∀ s x, Memory.wf s.mem = true → Memory.wf (f s x).mem = true) (l : List α) :
    ∀ s : State, Memory.wf s.mem = true → Memory.wf (l.foldl f s).mem = true := by
  induction l with
  | nil => intro s h; exact h
  | cons x l ih => intro s h; exact ih _ (hf s x h)

theorem State.noteWalk_mem (s : State) (x va : Nat) (h : Memory.wf s.mem = true) : Memory.wf (s.noteWalk x va).mem = true := by
  unfold State.noteWalk
  split
  · exact h
  · exact foldl_mem _ (fun s pa h => s.noteRead_mem pa _ _ h) _ s h

theorem State.writePieceVA_mem (s : State) (x va : Nat) (bs : List Byte) (h : Memory.wf s.mem = true) :
    Memory.wf (s.writePieceVA x va bs).mem = true := by
  unfold State.writePieceVA
  split
  · split
    · exact h
    · exact State.pokeMaskNoted_mem _ _ _ _ _ (s.noteWalk_mem x va h)
  · exact s.noteWalk_mem x va h

/-- Writing bytes a span at a time keeps the canonical form. -/
theorem State.pokeSpan_mem (s : State) (a : Nat) (bs : List Byte) (h : Memory.wf s.mem = true) :
    Memory.wf (s.pokeSpan a bs).mem = true := by
  have hn : ∀ (t : State) a bs x, Memory.wf t.mem = true → Memory.wf (t.pokeNoted a bs x).mem = true :=
    fun t _ _ _ ht => State.pokeMaskNoted_mem t _ _ _ _ ht
  have h1 : ∀ (p : Prop) [Decidable p] (t u : State), Memory.wf t.mem = true → Memory.wf u.mem = true →
      Memory.wf (if p then t else u).mem = true := by intro p _ t u ht hu; split <;> assumption
  unfold State.pokeSpan
  dsimp only
  have hm := h1 (min bs.length (sectorBase (a + 127) - a) = 0) s _ h (hn s a (bs.take (min bs.length (sectorBase (a + 127) - a))) none h)
  refine h1 _ _ _ ?_ (hn _ _ _ _ ?_) <;>
  · refine h1 _ _ _ hm (h1 _ _ _ (foldl_mem _ (fun s p h => ?_) _ _ hm) (State.pokeWhole_mem _ _ _ hm))
    exact State.pokeMasked_mem _ _ _ _ _ h

theorem State.writeVA_mem (x : Nat) (bs : List Byte) (s : State) (a : Nat) (h : Memory.wf s.mem = true) :
    Memory.wf (s.writeVA x a bs).mem = true :=
  foldl_mem (fun (s : State) (p : Nat × List Byte) => s.writePieceVA x p.1 p.2) (fun s p h => s.writePieceVA_mem x p.1 p.2 h) _ s h

/-- Draining write queues and write-around buffers to the dies keeps the canonical form. -/
theorem State.drainWrites_mem (s : State) (h : Memory.wf s.mem = true) : Memory.wf s.drainWrites.mem = true := by
  unfold State.drainWrites
  dsimp only
  apply foldl_mem
  · intro s x h
    simp only [State.modHalf_mem]
    exact foldl_mem _ (fun s p h => State.writeDie_mem s _ _ _ h) _ _ h
  · apply foldl_mem
    · intro s p h
      exact foldl_mem _ (fun s q h => State.writeDie_mem s _ _ _ h) _ _ h
    · exact h

/-- The memory of the state at power-on is canonical. -/
theorem reset_mem_wf : Memory.wf State.reset.mem = true := by decide

/-- A frame region that becomes undefined changes what a write below the Quire touches, and takes one free value (R139). -/
theorem State.frameUndefined_recorded (s : State) (pas : List Nat) : Recorded { s with free := s.free + 1 } (s.frameUndefined pas) := by
  have h : Recorded s (pas.foldl (fun (u : State) pa => u.pokeSector pa (Config.freeSector s.free pa)) s) :=
    Recorded.foldl _ (fun u pa => u.pokeSector_recorded pa _) pas s
  unfold State.frameUndefined
  exact ⟨by rw [h.rest], fun x => h.counts x⟩

theorem State.frameUndefined_mem (s : State) (pas : List Nat) (h : Memory.wf s.mem = true) :
    Memory.wf (s.frameUndefined pas).mem = true := by
  exact foldl_mem _ (fun u pa h => u.pokeSector_mem pa _ h) pas s h

end Sys2Proof.Machine
end

