-- ==== Sys2Proof/Laws/Sessions.lean ====
section
/-!
SUPPORT. A message that one end of a session protects is opened by the other end to the same units (R385): byte strings of numbers read back,
AES-256-GCM opens what it seals, and so does a session.
-/

namespace Sys2Proof.Machine

/-! ### Bytes and numbers -/

theorem leNat_leBytes (n v : Nat) : leNat (leBytes n v) = v % 256 ^ n := by
  induction n generalizing v with
  | zero => simp [leBytes, leNat, Nat.mod_one]
  | succ n ih =>
    have h : (BitVec.ofNat 8 v).toNat = v % 256 := BitVec.toNat_ofNat v 8
    rw [leBytes, leNat, ih, h, Nat.pow_succ, Nat.mul_comm (256 ^ n) 256, Nat.mod_mul]

theorem leBytes_leNat (bs : List Byte) : leBytes bs.length (leNat bs) = bs := by
  induction bs with
  | nil => rfl
  | cons b bs ih =>
    have h : (b.toNat + 256 * leNat bs) / 256 = leNat bs := by have := b.isLt; omega
    simp only [List.length_cons, leBytes, leNat, h, ih]
    congr 1
    apply BitVec.eq_of_toNat_eq
    simp only [BitVec.toNat_ofNat]
    have := b.isLt; omega

theorem leNat_lt (bs : List Byte) : leNat bs < 256 ^ bs.length := by
  induction bs with
  | nil => simp [leNat]
  | cons b bs ih => simp only [leNat, List.length_cons, Nat.pow_succ]; have := b.isLt; omega

/-- The bytes of units read back as the units. -/
theorem chunks16_unitBytes (us : List (BitVec 128)) : ∀ n, us.length ≤ n →
    (dataUnits.chunks16 n (unitBytes us)).map (fun c => BitVec.ofNat 128 (leNat c)) = us := by
  induction us with
  | nil => intro n _; cases n <;> rfl
  | cons u us ih =>
    intro n h
    cases n with
    | zero => simp at h
    | succ n =>
      have hl : (leBytes 16 u.toNat).length = 16 := leBytes_length 16 _
      have hcat : unitBytes (u :: us) = leBytes 16 u.toNat ++ unitBytes us := rfl
      have hne : (leBytes 16 u.toNat ++ unitBytes us).isEmpty = false := by
        cases hb : leBytes 16 u.toNat with
        | nil => rw [hb] at hl; cases hl
        | cons _ _ => rfl
      have ht : (leBytes 16 u.toNat ++ unitBytes us).take 16 = leBytes 16 u.toNat := List.take_left' hl
      have hd : (leBytes 16 u.toNat ++ unitBytes us).drop 16 = unitBytes us := List.drop_left' hl
      have hu : BitVec.ofNat 128 (leNat (leBytes 16 u.toNat)) = u := by
        apply BitVec.eq_of_toNat_eq
        rw [leNat_leBytes, BitVec.toNat_ofNat]
        have h2 : (256 : Nat) ^ 16 = 2 ^ 128 := by decide
        rw [h2, Nat.mod_mod, Nat.mod_eq_of_lt u.isLt]
      rw [hcat]
      simp only [dataUnits.chunks16, hne, Bool.false_eq_true, ↓reduceIte, ht, hd, List.map_cons, hu]
      rw [ih n (by simpa using h)]

theorem unitBytes_length (us : List (BitVec 128)) : (unitBytes us).length = 16 * us.length := by
  induction us with
  | nil => rfl
  | cons u us ih =>
    have : unitBytes (u :: us) = leBytes 16 u.toNat ++ unitBytes us := rfl
    rw [this, List.length_append, leBytes_length, ih, List.length_cons]; omega

theorem dataUnits_unitBytes (us : List (BitVec 128)) : dataUnits (unitBytes us) = us :=
  chunks16_unitBytes us _ (by rw [unitBytes_length]; omega)

/-- Bytes that fill whole units read back. -/
theorem unitBytes_chunks16 : ∀ (n : Nat) (bs : List Byte), bs.length ≤ 16 * n → bs.length % 16 = 0 →
    unitBytes ((dataUnits.chunks16 n bs).map (fun c => BitVec.ofNat 128 (leNat c))) = bs := by
  intro n
  induction n with
  | zero => intro bs h _; have : bs = [] := List.eq_nil_of_length_eq_zero (by omega); subst this; rfl
  | succ n ih =>
    intro bs h h16
    cases hb : bs with
    | nil => rfl
    | cons b rest =>
      rw [← hb]
      have hpos : bs.length ≠ 0 := by rw [hb]; simp
      have hne : bs.isEmpty = false := by rw [hb]; rfl
      have hlen : (bs.take 16).length = 16 := by rw [List.length_take]; omega
      simp only [dataUnits.chunks16, hne, Bool.false_eq_true, ↓reduceIte, List.map_cons]
      have hcat : ∀ (u : BitVec 128) us, unitBytes (u :: us) = leBytes 16 u.toNat ++ unitBytes us := fun _ _ => rfl
      rw [hcat, ih (bs.drop 16) (by rw [List.length_drop]; omega) (by rw [List.length_drop]; omega)]
      have hlt := leNat_lt (bs.take 16)
      rw [hlen] at hlt
      have hu : (BitVec.ofNat 128 (leNat (bs.take 16))).toNat = leNat (bs.take 16) := by
        rw [BitVec.toNat_ofNat]; apply Nat.mod_eq_of_lt
        have h2 : (256 : Nat) ^ 16 = 2 ^ 128 := by decide
        omega
      rw [hu]
      have := leBytes_leNat (bs.take 16)
      rw [hlen] at this
      rw [this, List.take_append_drop]

theorem unitBytes_dataUnits (bs : List Byte) (h : bs.length % 16 = 0) : unitBytes (dataUnits bs) = bs :=
  unitBytes_chunks16 _ bs (by omega) h

/-! ### AES-256-GCM -/

/-- Every word of the key schedule has four bytes. -/
theorem aesExpand_words : ∀ (n i : Nat) (ws : List (List Nat)), 8 ≤ ws.length → (∀ w ∈ ws, w.length = 4) →
    (aesExpand n i ws).length = n + ws.length ∧ ∀ w ∈ aesExpand n i ws, w.length = 4 := by
  intro n
  induction n with
  | zero => intro i ws _ h; exact ⟨by simp [aesExpand], h⟩
  | succ n ih =>
    intro i ws hl h
    have h0 : (ws.getD 0 []).length = 4 := by
      rw [List.getD_eq_getElem?_getD, List.getElem?_eq_getElem (by omega)]; exact h _ (List.getElem_mem _)
    have h7 : (ws.getD 7 []).length = 4 := by
      rw [List.getD_eq_getElem?_getD, List.getElem?_eq_getElem (by omega)]; exact h _ (List.getElem_mem _)
    simp only [aesExpand]
    have := ih (i + 1) (List.zipWith (fun a b => a ^^^ b) (ws.getD 7 []) (if i % 8 = 0 then
        ((ws.getD 0 []).drop 1 ++ (ws.getD 0 []).take 1).zipIdx.map (fun x => aesSub x.1 ^^^ (if x.2 = 0 then aesPow 2 (i / 8 - 1) else 0))
      else if i % 8 = 4 then (ws.getD 0 []).map aesSub else ws.getD 0 []) :: ws) (by simp; omega) (by
        intro w hw
        rcases List.mem_cons.mp hw with rfl | hw
        · rw [List.length_zipWith, h7]
          split
          · simp only [List.length_map, List.length_zipIdx, List.length_append, List.length_drop, List.length_take, h0]; omega
          · split <;> simp only [List.length_map, h0, Nat.min_self]
        · exact h w hw)
    refine ⟨?_, this.2⟩
    rw [this.1, List.length_cons]; omega

theorem aesKeys_last (key : List Nat) (h : key.length = 32) : ((aesKeys key).getD 14 []).length = 16 := by
  have hw0 : ∀ w ∈ ((List.range 8).map (fun i => (key.drop (4 * i)).take 4)).reverse, w.length = 4 := by
    intro w hw
    simp only [List.mem_reverse, List.mem_map, List.mem_range] at hw
    obtain ⟨i, hi, rfl⟩ := hw
    rw [List.length_take, List.length_drop, h]; omega
  have hx := aesExpand_words 52 8 _ (by simp) hw0
  have hlen : (aesExpand 52 8 ((List.range 8).map (fun i => (key.drop (4 * i)).take 4)).reverse).length = 60 := by
    rw [hx.1]; simp
  unfold aesKeys
  rw [List.getD_eq_getElem?_getD, List.getElem?_eq_getElem (by simp), Option.getD_some, List.getElem_map, List.getElem_range, List.length_flatten]
  generalize hg : (aesExpand 52 8 ((List.range 8).map (fun i => (key.drop (4 * i)).take 4)).reverse) = ws at hx hlen
  have hall : ∀ w ∈ (ws.reverse.drop (4 * 14)).take 4, w.length = 4 := fun w hw =>
    hx.2 w (List.mem_reverse.mp (List.mem_of_mem_drop (List.mem_of_mem_take hw)))
  have hn : ((ws.reverse.drop (4 * 14)).take 4).length = 4 := by
    rw [List.length_take, List.length_drop, List.length_reverse, hlen]; rfl
  rw [List.map_congr_left (g := fun _ => 4) hall, List.map_const', hn]; rfl

theorem aesEncrypt_length (keys : List (List Nat)) (block : List Nat) (h : (keys.getD 14 []).length = 16) :
    (aesEncrypt keys block).length = 16 := by
  simp only [aesEncrypt, List.length_zipWith, h, aesShiftRows, List.length_map, List.length_range, Nat.min_self]

theorem gcmTag_length (keys : List (List Nat)) (nonce aad ct : List Byte) (h : (keys.getD 14 []).length = 16) :
    (gcmTag keys nonce aad ct).length = 16 := by
  simp only [gcmTag, List.length_zipWith, aesEncrypt_length keys _ h, beBytes, List.length_reverse, leBytes_length, Nat.min_self]

theorem zipWith_xor_twice (m : List Byte) : ∀ k : List Nat, m.length ≤ k.length →
    List.zipWith (fun (a : Byte) b => a ^^^ BitVec.ofNat 8 b) (List.zipWith (fun (a : Byte) b => a ^^^ BitVec.ofNat 8 b) m k) k = m := by
  induction m with
  | nil => intro k _; cases k <;> rfl
  | cons a m ih =>
    intro k h
    cases k with
    | nil => simp at h
    | cons b k => simp only [List.zipWith_cons_cons, BitVec.xor_assoc, BitVec.xor_self, BitVec.xor_zero, ih k (by simpa using h)]

/-- The key stream applied twice gives the message back. -/
theorem gcmStream_twice (keys : List (List Nat)) (nonce : List Byte) (h : (keys.getD 14 []).length = 16) : ∀ (f ctr : Nat) (m : List Byte),
    m.length ≤ f → (gcmStream keys nonce f ctr m).length = m.length ∧
      gcmStream keys nonce f ctr (gcmStream keys nonce f ctr m) = m := by
  intro f
  induction f with
  | zero => intro ctr m hm; have : m = [] := List.eq_nil_of_length_eq_zero (by omega); subst this; exact ⟨rfl, rfl⟩
  | succ f ih =>
    intro ctr m hm
    cases hb : m with
    | nil => exact ⟨rfl, rfl⟩
    | cons b rest =>
      rw [← hb]
      have hne : m.isEmpty = false := by rw [hb]; rfl
      have hpos : 0 < m.length := by rw [hb]; simp
      obtain ⟨hl, ht⟩ := ih (ctr + 1) (m.drop 16) (by rw [List.length_drop]; omega)
      have hk : (aesEncrypt keys (toNats (nonce ++ beBytes 4 ctr))).length = 16 := aesEncrypt_length keys _ h
      have hout : gcmStream keys nonce (f + 1) ctr m =
          List.zipWith (fun (a : Byte) b => a ^^^ BitVec.ofNat 8 b) (m.take 16) (aesEncrypt keys (toNats (nonce ++ beBytes 4 ctr))) ++
            gcmStream keys nonce f (ctr + 1) (m.drop 16) := by
        simp only [gcmStream, hne, Bool.false_eq_true, ↓reduceIte]
      have hz : (List.zipWith (fun (a : Byte) b => a ^^^ BitVec.ofNat 8 b) (m.take 16)
          (aesEncrypt keys (toNats (nonce ++ beBytes 4 ctr)))).length = min 16 m.length := by
        rw [List.length_zipWith, hk, List.length_take]; omega
      refine ⟨?_, ?_⟩
      · rw [hout, List.length_append, hz, hl, List.length_drop]; omega
      · rw [hout]
        have hne2 : (List.zipWith (fun (a : Byte) b => a ^^^ BitVec.ofNat 8 b) (m.take 16) (aesEncrypt keys (toNats (nonce ++ beBytes 4 ctr))) ++
            gcmStream keys nonce f (ctr + 1) (m.drop 16)).isEmpty = false := by
          rw [Bool.eq_false_iff, Ne, List.isEmpty_iff]
          intro hcon
          have := congrArg List.length hcon
          rw [List.length_append, hz] at this
          simp only [List.length_nil] at this; omega
        simp only [gcmStream, hne2, Bool.false_eq_true, ↓reduceIte]
        by_cases h16 : 16 ≤ m.length
        · rw [List.take_left' (by rw [hz]; omega), List.drop_left' (by rw [hz]; omega), ht, zipWith_xor_twice _ _ (by
            rw [hk, List.length_take]; omega), List.take_append_drop]
        · have hd : m.drop 16 = [] := List.drop_eq_nil_of_le (by omega)
          have hs : gcmStream keys nonce f (ctr + 1) [] = [] := by cases f <;> rfl
          rw [hd, hs, List.append_nil, List.take_of_length_le (by rw [hz]; omega), List.drop_eq_nil_of_le (by rw [hz]; omega), hs,
            List.append_nil, zipWith_xor_twice _ _ (by rw [hk, List.length_take]; omega), List.take_of_length_le (by omega)]

/-- AES-256-GCM opens what it has sealed. -/
theorem gcmOpen_gcmSeal (key nonce aad pt : List Byte) (h : key.length = 32) :
    gcmOpen key nonce aad (gcmSeal key nonce aad pt).1 (gcmSeal key nonce aad pt).2 = some pt := by
  have hk : ((aesKeys (toNats key)).getD 14 []).length = 16 := aesKeys_last _ (by rw [toNats, List.length_map, h])
  obtain ⟨hl, ht⟩ := gcmStream_twice (aesKeys (toNats key)) nonce hk pt.length 2 pt (Nat.le_refl _)
  simp only [gcmOpen, gcmSeal, ↓reduceIte, hl, ht]

/-! ### Sessions -/

/-- The header of a message does not depend on its units. -/
theorem headerBytes_units (m : EMsg) (us : List (BitVec 128)) : headerBytes { m with units := us } = headerBytes m := by
  unfold headerBytes etmosUnits
  rfl

theorem gcmSeal_lengths (key nonce aad pt : List Byte) (h : key.length = 32) :
    (gcmSeal key nonce aad pt).1.length = pt.length ∧ (gcmSeal key nonce aad pt).2.length = 16 := by
  have hk : ((aesKeys (toNats key)).getD 14 []).length = 16 := aesKeys_last _ (by rw [toNats, List.length_map, h])
  exact ⟨(gcmStream_twice _ nonce hk pt.length 2 pt (Nat.le_refl _)).1, gcmTag_length _ _ _ _ hk⟩

theorem dataUnits_one (bs : List Byte) (h : bs.length = 16) : ∃ u, dataUnits bs = [u] := by
  have h1 : (unitBytes (dataUnits bs)).length = 16 := by rw [unitBytes_dataUnits bs (by omega), h]
  rw [unitBytes_length] at h1
  exact List.length_eq_one_iff.mp (by omega)

theorem security_counter (n : Nat) (b : Bool) (h : n < 2 ^ 64) : fld (BitVec.ofNat 128 (put n 64 64 + putb b 63)) 127 64 = n := by
  simp only [fld, put, BitVec.toNat_ofNat, Nat.shiftLeft_eq, Nat.shiftRight_eq_div_pow]
  rw [Nat.mod_eq_of_lt h]
  have : putb b 63 < 2 ^ 64 := by cases b <;> simp [putb]
  omega

/-- Opening a message whose parts are a security unit, a body and a tag. -/
theorem Session.open_parts (r : Session) (m : EMsg) (sec u : BitVec 128) (body : List (BitVec 128)) (hd : List Byte)
    (hh : headerBytes m = hd) (hm : m.units = sec :: body ++ [u])
    (hup : r.up = true) (hc : r.ctrRx.toNat < fld sec 127 64) :
    r.open_ m =
      if m.vc = 2 then
        (gcmOpen (keyBytes r.keyRx) (sessionNonce r.saltRx (fld sec 127 64)) (hd ++ unitBytes [sec]) (unitBytes body) (unitBytes [u])).map
          (fun p => (dataUnits p, { r with ctrRx := BitVec.ofNat 64 (fld sec 127 64) }))
      else
        (gcmOpen (keyBytes r.keyRx) (sessionNonce r.saltRx (fld sec 127 64)) (hd ++ unitBytes [sec] ++ unitBytes body) [] (unitBytes [u])).map
          (fun _ => (body, { r with ctrRx := BitVec.ofNat 64 (fld sec 127 64) })) := by
  have hnot : ¬ (fld sec 127 64 ≤ r.ctrRx.toNat) := by omega
  have h1 : (body ++ [u]).dropLast = body := List.dropLast_concat
  have h2 : (body ++ [u]).drop ((body ++ [u]).length - 1) = [u] := by
    rw [List.length_append, List.length_singleton, Nat.add_sub_cancel, List.drop_left]
  unfold Session.open_
  rw [hm, hh]
  simp only [List.cons_append, h1, h2, hup, hnot, decide_false, Bool.not_true, Bool.or_false, Bool.false_eq_true, ↓reduceIte]

/-- The other end of a direction opens what this end protects, and takes its counter (R385). -/
theorem Session.open_protect (t r : Session) (m : EMsg) (hup : r.up = true) (hk : r.keyRx = t.keyTx) (hs : r.saltRx = t.saltTx)
    (hc : r.ctrRx.toNat ≤ t.ctrTx.toNat) (hb : t.ctrTx.toNat + 1 < 2 ^ 64) :
    r.open_ (t.protect m).1 = some (m.units, { r with ctrRx := BitVec.ofNat 64 (t.ctrTx.toNat + 1) }) := by
  have hkey : (keyBytes t.keyTx).length = 32 := by simp only [keyBytes, beBytes, List.length_reverse, leBytes_length]
  generalize hsec : (BitVec.ofNat 128 (put (t.ctrTx.toNat + 1) 64 64 + putb t.phase 63)) = sec
  have hctr : fld sec 127 64 = t.ctrTx.toNat + 1 := by rw [← hsec]; exact security_counter _ _ hb
  generalize hm1 : ({ m with len := BitVec.ofNat 6 (m.units.length + 4) } : EMsg) = m1
  have hvc : m1.vc = m.vc := by rw [← hm1]
  have hun : m1.units = m.units := by rw [← hm1]
  by_cases hv : m.vc = 2
  · have hp : (t.protect m).1 = { m1 with units := sec :: dataUnits (gcmSeal (keyBytes t.keyTx) (sessionNonce t.saltTx (t.ctrTx.toNat + 1))
        (headerBytes m1 ++ unitBytes [sec]) (unitBytes m.units)).1 ++ dataUnits (gcmSeal (keyBytes t.keyTx)
        (sessionNonce t.saltTx (t.ctrTx.toNat + 1)) (headerBytes m1 ++ unitBytes [sec]) (unitBytes m.units)).2 } := by
      subst hm1; subst hsec
      unfold Session.protect
      dsimp only
      rw [if_pos hv]
    obtain ⟨hl1, hl2⟩ := gcmSeal_lengths (keyBytes t.keyTx) (sessionNonce t.saltTx (t.ctrTx.toNat + 1)) (headerBytes m1 ++ unitBytes [sec])
      (unitBytes m.units) hkey
    obtain ⟨u, hu⟩ := dataUnits_one _ hl2
    have hub := unitBytes_dataUnits _ (by rw [hl2] : (gcmSeal (keyBytes t.keyTx) (sessionNonce t.saltTx (t.ctrTx.toNat + 1))
      (headerBytes m1 ++ unitBytes [sec]) (unitBytes m.units)).2.length % 16 = 0)
    rw [hu] at hub hp
    rw [hp, Session.open_parts r _ sec u _ _ (headerBytes_units m1 _) rfl hup (by omega), hctr, hk, hs, hub,
      unitBytes_dataUnits _ (by rw [hl1, unitBytes_length]; omega), gcmOpen_gcmSeal _ _ _ _ hkey]
    simp only [hvc, hv, ↓reduceIte, Option.map_some, dataUnits_unitBytes]
  · have hp : (t.protect m).1 = { m1 with units := sec :: m.units ++ dataUnits (gcmSeal (keyBytes t.keyTx)
        (sessionNonce t.saltTx (t.ctrTx.toNat + 1)) (headerBytes m1 ++ unitBytes [sec] ++ unitBytes m.units) []).2 } := by
      subst hm1; subst hsec
      unfold Session.protect
      dsimp only
      rw [if_neg hv]
    obtain ⟨_, hl2⟩ := gcmSeal_lengths (keyBytes t.keyTx) (sessionNonce t.saltTx (t.ctrTx.toNat + 1))
      (headerBytes m1 ++ unitBytes [sec] ++ unitBytes m.units) [] hkey
    have ho := gcmOpen_gcmSeal (keyBytes t.keyTx) (sessionNonce t.saltTx (t.ctrTx.toNat + 1))
      (headerBytes m1 ++ unitBytes [sec] ++ unitBytes m.units) [] hkey
    have he : (gcmSeal (keyBytes t.keyTx) (sessionNonce t.saltTx (t.ctrTx.toNat + 1))
      (headerBytes m1 ++ unitBytes [sec] ++ unitBytes m.units) []).1 = [] := by unfold gcmSeal; rfl
    rw [he] at ho
    obtain ⟨u, hu⟩ := dataUnits_one _ hl2
    have hub := unitBytes_dataUnits _ (by rw [hl2] : (gcmSeal (keyBytes t.keyTx) (sessionNonce t.saltTx (t.ctrTx.toNat + 1))
      (headerBytes m1 ++ unitBytes [sec] ++ unitBytes m.units) []).2.length % 16 = 0)
    rw [hu] at hub hp
    rw [hp, Session.open_parts r _ sec u _ _ (headerBytes_units m1 _) rfl hup (by omega), hctr, hk, hs, hub, ho]
    simp only [hvc, hv, ↓reduceIte, Option.map_some]

/-- What protection makes of a message (R370, R385): a security unit with the phase, as many units as before, and a tag; the rest of the header
stays but for the length. -/
theorem Session.protect_shape (t : Session) (m : EMsg) : ∃ us, (t.protect m).1 = { m with len := BitVec.ofNat 6 (m.units.length + 4), units := us } ∧
    us.length = m.units.length + 2 ∧ bit (us.headD 0) 63 = t.phase := by
  have hkey : (keyBytes t.keyTx).length = 32 := by simp only [keyBytes, beBytes, List.length_reverse, leBytes_length]
  have hph : bit (BitVec.ofNat 128 (put (t.ctrTx.toNat + 1) 64 64 + putb t.phase 63)) 63 = t.phase := by
    have h64 : (t.ctrTx.toNat + 1) % 2 ^ 64 < 2 ^ 64 := Nat.mod_lt _ (by decide)
    cases t.phase <;>
      simp only [bit, put, putb, BitVec.getLsbD, BitVec.toNat_ofNat, Nat.shiftLeft_eq, Nat.testBit, Nat.shiftRight_eq_div_pow,
        Bool.false_eq_true, ↓reduceIte, Nat.one_and_eq_mod_two, bne_iff_ne, ne_eq] <;> simp <;> omega
  unfold Session.protect
  dsimp only
  split
  · obtain ⟨hl1, hl2⟩ := gcmSeal_lengths (keyBytes t.keyTx) (sessionNonce t.saltTx (t.ctrTx.toNat + 1))
      (headerBytes { m with len := BitVec.ofNat 6 (m.units.length + 4) } ++
        unitBytes [BitVec.ofNat 128 (put (t.ctrTx.toNat + 1) 64 64 + putb t.phase 63)]) (unitBytes m.units) hkey
    refine ⟨_, rfl, ?_, hph⟩
    have h1 := congrArg List.length (unitBytes_dataUnits _ (by rw [hl1, unitBytes_length]; omega))
    have h2 := congrArg List.length (unitBytes_dataUnits _ (by rw [hl2]))
    rw [unitBytes_length] at h1 h2
    rw [hl1, unitBytes_length] at h1
    rw [hl2] at h2
    simp only [List.cons_append, List.length_cons, List.length_append]
    omega
  · obtain ⟨_, hl2⟩ := gcmSeal_lengths (keyBytes t.keyTx) (sessionNonce t.saltTx (t.ctrTx.toNat + 1))
      (headerBytes { m with len := BitVec.ofNat 6 (m.units.length + 4) } ++
        unitBytes [BitVec.ofNat 128 (put (t.ctrTx.toNat + 1) 64 64 + putb t.phase 63)] ++ unitBytes m.units) [] hkey
    refine ⟨_, rfl, ?_, hph⟩
    have h2 := congrArg List.length (unitBytes_dataUnits _ (by rw [hl2]))
    rw [unitBytes_length, hl2] at h2
    simp only [List.cons_append, List.length_cons, List.length_append]
    omega

/-- A port without a new session opens what the other end of its session protects, in the phase of that session (R385). -/
theorem EPort.openMsg_protect (k : EPort) (t : Session) (m : EMsg) (hn : k.next = none) (hup : k.sess.up = true) (hp : k.sess.phase = t.phase)
    (hk : k.sess.keyRx = t.keyTx) (hs : k.sess.saltRx = t.saltTx) (hc : k.sess.ctrRx.toNat ≤ t.ctrTx.toNat) (hb : t.ctrTx.toNat + 1 < 2 ^ 64) :
    k.openMsg (t.protect m).1 = some (m.units, { k with sess := { k.sess with ctrRx := BitVec.ofNat 64 (t.ctrTx.toNat + 1) } }) := by
  obtain ⟨us, hm, _, hph⟩ := t.protect_shape m
  have ho := Session.open_protect t k.sess m hup hk hs hc hb
  rw [hm] at ho ⊢
  simp only [EPort.openMsg, hn, hph, hp, beq_self_eq_true, ↓reduceIte, ho, Option.map_some]

/-- Protection does not change whether a message is valid, once its length counts the two units more (R370, R373). -/
theorem Session.protect_valid (t : Session) (m : EMsg) (hv : 2 ≤ m.vc.toNat)
    (h : etmosValid { m with len := BitVec.ofNat 6 (m.units.length + 4), units := List.replicate (m.units.length + 2) 0 } = true) :
    etmosValid (t.protect m).1 = true := by
  obtain ⟨us, hm, hl, _⟩ := t.protect_shape m
  rw [hm]
  simp only [etmosValid, etmosOpOk, accessOk, hv, ↓reduceIte, List.length_replicate, hl] at h ⊢
  exact h

end Sys2Proof.Machine
end

