-- ==== Sys2Proof/Laws/Shared.lean ====
section
/-!
SUPPORT. One lemma for each shared operation that says what it can do: messages and requests, completions, entries at the front of a
queue, groups.
-/

namespace Sys2Proof.Machine

/-! ### Messages and requests -/

/-- Nothing but the message traffic differs: messages and requests on their way, links and ports. -/
def Carried (s t : State) : Prop := t = { s with sh := t.sh, links := t.links, ports := t.ports }

theorem Carried.refl (s : State) : Carried s s := rfl

theorem Carried.trans {s t u : State} (h : Carried s t) (k : Carried t u) : Carried s u := by
  unfold Carried at *
  rw [k, h]

theorem State.linkSend_carried (s : State) (die : Nat) (us : List (BitVec 128)) : Carried s (s.linkSend die us) := by
  unfold State.linkSend
  split <;> rfl

@[simp] theorem State.linkSend_sh (s : State) (die : Nat) (us : List (BitVec 128)) : (s.linkSend die us).sh = s.sh := by
  unfold State.linkSend
  split <;> rfl

theorem State.send_carried (s : State) (m : Msg) : Carried s (s.send m) := by
  have h : Carried s (s.modShared (fun h => { h with inflight := h.inflight ++ [m] })) := rfl
  unfold State.send
  cases m with
  | mem m => exact h.trans (State.linkSend_carried _ _ _)
  | coh m => exact h.trans (State.linkSend_carried _ _ _)
  | etmos p m => rfl

/-- A message sent goes to the end of the messages on their way. -/
theorem State.send_sh (s : State) (m : Msg) : (s.send m).sh = { s.sh with inflight := s.sh.inflight ++ [m] } := by
  unfold State.send
  cases m with
  | mem m => exact State.linkSend_sh _ _ _
  | coh m => exact State.linkSend_sh _ _ _
  | etmos p m => rfl

/-- A request changes message traffic alone. -/
theorem State.request_carried (s : State) (m : MemMsg) (why : Purpose) : Carried s (s.request m why) := by
  unfold State.request
  split
  · refine Carried.trans (t := s.modShared _) rfl (State.send_carried _ _)
  · rfl

/-- A request whose source has a tag free is outstanding and on its way under that tag; otherwise the source holds it. -/
theorem State.request_sh (s : State) (m : MemMsg) (why : Purpose) :
    (s.request m why).sh =
      if s.roomFor m.src.toNat 1 then
        { s.sh with
          reqs := s.sh.reqs ++ [{ msg := { m with tag := BitVec.ofNat 16 (s.freeTag m.src.toNat) }, why := why }]
          inflight := s.sh.inflight ++ [.mem { m with tag := BitVec.ofNat 16 (s.freeTag m.src.toNat) }] }
      else { s.sh with reqs := s.sh.reqs ++ [{ msg := m, why := why, held := true }] } := by
  unfold State.request
  split
  · exact State.send_sh _ _
  · rfl

theorem State.dropReq_carried (s : State) (src : BitVec 12) (tag : BitVec 16) : Carried s (s.dropReq src tag) := by
  unfold State.dropReq
  dsimp only
  split
  · rfl
  · exact Carried.trans (t := (s.modShared _).modShared _) rfl (State.request_carried _ _ _)

/-- Memory is no part of message traffic. -/
theorem Carried.mem {s t : State} (h : Carried s t) : t.mem = s.mem := by rw [h]
theorem Carried.queues {s t : State} (h : Carried s t) : t.queues = s.queues := by rw [h]
theorem Carried.ctxs {s t : State} (h : Carried s t) : t.ctxs = s.ctxs := by rw [h]
theorem Carried.clusters {s t : State} (h : Carried s t) : t.clusters = s.clusters := by rw [h]

/-! ### Completions and entries -/

theorem State.writeCpl_recorded (s : State) (q id status replays info num : Nat) (notify : Bool) :
    Recorded s (s.writeCpl q id status replays info num notify) := by
  have h : ∀ (b c : Bool) (w : HostWrite) (x a : Nat) (bs : List Byte), Recorded s
      (if b then (if c then s.modHost (fun h => { h with dropped := h.dropped + 1 }) else s.hostSend w) else s.writeVA x a bs) := by
    intro b c w x a bs
    cases b
    · exact s.writeVA_recorded x bs a
    · cases c
      · exact s.hostSend_recorded w
      · simp only [if_true]; exact Recorded.modHost s _
  unfold State.writeCpl
  dsimp only
  split
  · exact (h _ _ _ _ _ _).trans (State.event_recorded _ _ _ _ _)
  · exact h _ _ _ _ _ _

/-- Nothing runs in the queue: there is nothing to complete. -/
theorem State.complete_idle (s : State) (q status info num replays : Nat) (h : (s.queue q).running = none) :
    s.complete q status info num replays = s := by
  unfold State.complete; rw [h]

theorem Recorded.queues {s t : State} (h : Recorded s t) : t.queues = s.queues := by rw [h.rest]
theorem Recorded.clusters {s t : State} (h : Recorded s t) : t.clusters = s.clusters := by rw [h.rest]
theorem Recorded.sh {s t : State} (h : Recorded s t) : t.sh = s.sh := by rw [h.rest]

/-- A completion changes its queue's record, and otherwise what a record and an event change. -/
theorem State.complete_recorded (s : State) (q status info num replays : Nat) :
    Recorded s { s.complete q status info num replays with queues := s.queues } := by
  unfold State.complete
  split
  · exact Recorded.refl s
  · rename_i e _
    dsimp only
    generalize hu : s.modQueue q _ = u
    have h := u.writeCpl_recorded q (q * 65536 + fld e 511 496) status replays info num (bit e 486)
    have hx : u.ctxs = s.ctxs := by rw [← hu]; rfl
    refine ⟨?_, fun x => (h.counts x).trans ?_⟩
    · rw [h.rest, ← hu]; rfl
    · simp only [State.ctx, hx]

/-- Completing an entry touches no other queue. -/
theorem State.complete_other (s : State) (q status info num replays j : Nat) (h : j ≠ q) :
    (s.complete q status info num replays).queue j = s.queue j := by
  unfold State.complete
  split
  · rfl
  · have hw := State.writeCpl_recorded
    have h2 : ∀ {s t : State}, t.queues = s.queues → t.queue j = s.queue j := fun h => by unfold State.queue; rw [h]
    exact (h2 (hw _ _ _ _ _ _ _ _).queues).trans (State.modQueue_queue_other _ _ h)

/-- An entry that may start and passes every check is begun and its effect follows. -/
theorem Ready.run {s : State} {q op : Nat} {e : BitVec 512} (h : Ready s q e op) (f : State → BitVec 512 → State) :
    s.runEntry q op f = f (s.beginEntry q e) e := by
  obtain ⟨h1, h2, h3, h4⟩ := h
  unfold State.runEntry
  rw [h1]
  simp [h2, h3, h4]

/-- The admin unit runs the entry that is ready for it. -/
theorem AdminReady.run {s : State} {aq : Bool} {op : Nat} {e : BitVec 512} (h : AdminReady s aq e op)
    (f : State → Nat → BitVec 512 → State) :
    s.admin aq op f = f { s.beginEntry (if aq then 1 else 0) e with adminLast := aq } (if aq then 1 else 0) e := by
  obtain ⟨h1, h2, h3⟩ := h
  unfold State.admin
  dsimp only
  have ho : 1 - (if aq then 1 else 0) = (if aq then 0 else 1) := by cases aq <;> rfl
  rw [ho, h2, h3]
  simp only [Option.isSome_none, Bool.or_self, Bool.false_eq_true, if_false]
  rw [h1.run]

/-! ### Groups -/

/-- Finishing an instruction of a group changes that group's cluster alone. -/
theorem State.modGroup_cluster (s : State) (c g : Nat) (f : Group → Group) : s.modGroup c g f = { s with clusters := (s.modGroup c g f).clusters } := rfl

theorem State.finish_cluster (s : State) (i : LC) (f : Group → Group) : s.finish i f = { s with clusters := (s.finish i f).clusters } := rfl

end Sys2Proof.Machine
end

