-- ==== Sys2Proof/WellFormed.lean ====
section
/-!
DEFINITION. Which commands are well formed: the operands name units that the module has (R12: 7 die-to-die links; R364: 12 Etmos
ports; R398: 14 rails; R443: dies 0 to 6) and offsets and lists have the lengths the rules give.
-/

namespace Sys2Proof

/-- A link of the module (R12). -/
def linkOk (l : BitVec 3) : Bool := decide (l.toNat < 7)

/-- An Etmos port of the module (R364). -/
def portOk (p : BitVec 4) : Bool := decide (p.toNat < 12)

/-- A die of the module. -/
def dieOk (d : BitVec 3) : Bool := decide (d.toNat < 7)

/-- Where a flit arrives names a link or a port of the module. -/
def FlitPort.ok : FlitPort → Bool
  | .link l _ => linkOk l
  | .etmos p => portOk p

/-- A memory message names a sector or bytes of it within the physical space of R210. -/
def MemMsg.ok (m : MemMsg) : Bool := decide (m.vc.toNat ≠ 2)

/-- A coherence message names an aligned sector (R274). -/
def CohMsg.ok (m : CohMsg) : Bool := decide (m.pa.toNat % 128 = 0)

/-- The units of an Etmos message are as many as its length says, the header apart (R369). -/
def EMsg.ok (m : EMsg) : Bool := decide (m.units.length + 2 = m.len.toNat)

/-- Well-formed commands. -/
def Instr.wf : Instr → Bool
  | .payloadFlit a _ | .idleFlit a _ | .retryRequest a _ | .retryRequestResend a | .ackTimeout a => a.ok
  | .linkTraining l _ _ _ | .linkTrainingDone l _ | .linkStatusRead l _ => linkOk l
  | .invalidMessage l m => linkOk l && m.ok
  | .siteSwitch d _ | .droop d | .droopRelease d | .dieTemperatureSample d _ => dieOk d
  | .data x => x.m.ok
  | .rdSec m _ | .wrFull m _ | .wrMask m _ | .atomic m _ | .dead m | .redInt m _ | .redOrd m _
  | .done m | .atomRes m | .err m | .retry m | .redDone m | .maintDone m => m.ok
  | .rdShared m | .rdUnique m | .upgrade m | .wbFull m | .evictClean m | .compAck m | .snpFwdS m | .snpFwdU m | .snpInv m
  | .snpDown m | .snpRecall m | .snpDrop m | .grant m | .wbAck m | .snpAck m | .snpData m => m.ok
  | .portStatusRead p | .etmosPortTraining p _ | .etmosPortLoss p _ | .portRestart p | .counterSyncTimer p
  | .rekey p | .portSleepNotice p | .portActivityWake p => portOk p
  | .etmosForward p m | .winWrite p m | .winRead p m | .winRedInt p m | .winRedOrd p m | .winData p m | .winRedDone p m
  | .winErr p m | .mgmt p m | .ptp p m | .counterSync p m | .delayProbe p m | .delayReply p m | .jobArm p m | .armAck p m
  | .armNack p m | .jobConfirm p m | .jobAbort p m => portOk p && m.ok
  | .handshake p m => (portOk p || decide (p.toNat = 15)) && m.ok
  | .railOvercurrent r | .railLimiterStep r _ => decide (r.toNat < 14)
  | .sectorArrival _ pa _ => decide (pa.toNat % 128 = 0)
  | .hostIngressWrite _ bs => decide (0 < bs.length)
  | _ => true

end Sys2Proof
end

