-- ==== Sys2Proof/Tests/Slice0.lean ====
section
/-!
SUPPORT. Tests: ill-formed commands refused by each check of WellFormed; and for each statement of the certificate a concrete state and
operands that meet its hypotheses, most with a value of the result that the spec's tables give.
-/

namespace Sys2Proof.Tests

open Sys2Proof Sys2Proof.Machine

-- one proof at a time: each is small, and many at once would only share the memory
set_option Elab.async false

/-- The state after a command. -/
def after (i : Instr) (s : State) : State :=
  match exec i s with
  | .next t => t
  | _ => s

/-- The state after a step. -/
def stepped (s : State) : State :=
  match step s with
  | .next t => t
  | _ => s

/-- A module in service: cold start ended, a host attached, context 1 open (R290, R332, R452). -/
def up : State :=
  { State.reset with
    coldStep := 15, modState := 1, host := { attach := 2 },
    power := { status := 0x0200000000000000 },
    ctxs := [(0, { xlat := 0x1001, status := 0x10000000 }), (1, { xlat := 0x1001, status := 0x10000000 })] }

/-! ### Well-formedness -/

/-- Every check of WellFormed refuses a term that breaks it. -/
theorem test_ill_formed_units :
    [Instr.payloadFlit (.link 7 false) 0, .idleFlit (.etmos 12) 0, .retryRequest (.etmos 15) 0, .retryRequestResend (.link 7 true),
     .ackTimeout (.link 7 true), .linkTraining 7 false 0 0, .linkTrainingDone 7 [], .linkStatusRead 7 false, .siteSwitch 7 0, .droop 7,
     .droopRelease 7, .dieTemperatureSample 7 0, .portStatusRead 12, .etmosPortTraining 12 { marked := 0, peerModuleId := 0, peerPort := 0, peerVersion := 0, rtt := 0 }, .etmosPortLoss 12 1,
     .portRestart 12, .counterSyncTimer 12, .rekey 12, .portSleepNotice 12, .portActivityWake 12, 
     .handshake 12 { vc := 2, len := 4, op := 0x11, dst := 0, src := 0, units := [] },
     .railOvercurrent 14, .railLimiterStep 15 true, .sectorArrival 0 1 [], .hostIngressWrite (.aperture 0) []].all (fun i => !i.wf) = true := by
  decide +kernel

theorem test_ill_formed_messages :
    (let m : MemMsg := { vc := 2, op := 1, src := 0, tag := 0 }
     let c : CohMsg := { op := 1, src := 0x100, tag := 0, core := 0, pa := 64 }
     let x : EMsg := { vc := 0, len := 4, op := 1, dst := 0, src := 0, units := [] }
     [Instr.invalidMessage 0 m, .invalidMessage 7 { m with vc := 0 }, .rdSec m false, .data ⟨m, false⟩, .atomRes m, .rdShared c, .wbFull c, .snpInv c,
      .grant c, .etmosForward 0 x, .winRead 12 { x with len := 2 }, .mgmt 0 x, .jobArm 0 x].all (fun i => !i.wf)) = true := by
  decide +kernel

/-- Their neighbours are accepted. -/
theorem test_well_formed :
    (let m : MemMsg := { vc := 0, op := 1, src := 0, tag := 0 }
     let x : EMsg := { vc := 0, len := 2, op := 1, dst := 0, src := 0, units := [] }
     [Instr.payloadFlit (.link 6 true) 0, .idleFlit (.etmos 11) 0, .siteSwitch 6 3, .portStatusRead 11, .handshake 15 { x with vc := 2, op := 0x11 },
      .railOvercurrent 13, .sectorArrival 0 128 [], .hostIngressWrite (.bar4 0x1000) [0], .rdSec m false, .etmosForward 11 x, .nop 2].all Instr.wf) = true := by
  decide +kernel

/-! ### The block -/

def queued : State := { up with pending := [.smbusModuleState, .idcode] }

theorem test_step_takes_front : queued = { queued with pending := .smbusModuleState :: [.idcode] } ∧
    (stepped queued).pending = [.idcode] ∧ (stepped queued).sec.smbus = [0xF1] := by decide +kernel

theorem test_empty_queue_ticks : up.pending = [] ∧ (stepped up).launchCounter = 1 := by decide +kernel

/-- A correction of two ticks is owed and 999 ticks have gone by: this one counts twice, or not at all (R387). -/
theorem test_empty_queue_corrects :
    (stepped { up with fabric := { owed := 2, sinceFix := 999 } }).launchCounter = 2 ∧
    (stepped { up with fabric := { owed := 2, sinceFix := 999 } }).fabric.owed = 1 ∧
    (stepped { up with fabric := { owed := -2, sinceFix := 999 } }).launchCounter = 0 ∧
    (stepped { up with fabric := { owed := -2, sinceFix := 998 } }).launchCounter = 1 := by decide +kernel

theorem test_memory_canonical : Memory.wf up.mem = true ∧ (match step queued with | .next _ => true | _ => false) = true ∧
    Memory.wf (stepped queued).mem = true := by decide +kernel

/-- Memory that lists an unlisted byte's value, or out of order, is not canonical. -/
theorem test_memory_not_canonical : Memory.wf [(5, 0)] = false ∧ Memory.wf [(5, 1), (4, 1)] = false := by decide +kernel

/-! ### Flits and links (R14-R30) -/

def units15 (v : BitVec 128) : List (BitVec 128) := v :: List.replicate 14 0

/-- One message of one unit, and idle fill (R16). -/
def unit1 : BitVec 128 := BitVec.ofNat 128 (put 1 6 56)

/-- Link 0 up at both ends, and port 0 up (R29, R396). -/
def linked : State :=
  { up with
    links := [(0, { status := 0x20 }), (1, { status := 0x20 })],
    ports := [(0, { status := 0x30000000 }), (1, { status := 0x30000000 })] }

def flitOf (port : Bool) (type seq ack : Nat) : Flit := buildFlit (({} : FlitEnd).header port type seq ack 15) (units15 0)

theorem test_flit_reads_back : (units15 unit1).length = 15 ∧
    (let f := flitOf false 0 5 3
     flitCrcOk f = true ∧ flitType f = 0 ∧ flitSeq false f = 5 ∧ flitAck false f = 3 ∧ flitFirst false f = 15 ∧ flitUnits f = units15 0) := by
  decide +kernel

theorem test_messages_read_back :
    FlitEnd.complete 3 [unit1, BitVec.ofNat 128 (put 2 6 56), 7] = ([[unit1], [BitVec.ofNat 128 (put 2 6 56), 7]], []) ∧
    unit1 ≠ 0 ∧ fld unit1 61 56 = 1 ∧
    FlitEnd.complete 2 [unit1, BitVec.ofNat 128 (put 2 6 56)] = ([[unit1]], [BitVec.ofNat 128 (put 2 6 56)]) := by decide +kernel

/-- A flit with one message of 15 units (R14, R16). -/
def whole15 (port : Bool) (seq : Nat) : Flit :=
  buildFlit (({} : FlitEnd).header port 0 seq 0 0) (units15 (BitVec.ofNat 128 (put 15 6 56)))

def broken : Flit := whole15 false 0 ^^^ 1

/-- PAYLOAD_FLIT in order, ahead, and behind (R20, R23). -/
theorem test_payload_flit : linked.endUp (.link 0 false) = true ∧ flitCrcOk (whole15 false 0) = true ∧ flitType (whole15 false 0) = 0 ∧
    FlitEnd.badLength 15 (({} : FlitEnd).usable false (whole15 false 0)) = false ∧
    ((after (.payloadFlit (.link 0 false) (whole15 false 0)) linked).linkEnd 0).flit.rxSeq = 1 ∧
    ((after (.payloadFlit (.link 0 false) (whole15 false 0)) linked).linkEnd 0).flit.rxUnits = [] := by decide +kernel

theorem test_payload_flit_out_of_order : linked.endUp (.etmos 0) = true ∧ flitCrcOk (whole15 false 1) = true ∧
    ((after (.payloadFlit (.link 0 false) (whole15 false 1)) linked).linkEnd 0).flit.retryFor = some 0 ∧
    flitCrcOk (whole15 false 4095) = true ∧
    ((after (.payloadFlit (.link 0 false) (whole15 false 4095)) linked).linkEnd 0).flit.retryFor = none := by decide +kernel

theorem test_broken_flit : flitCrcOk broken = false ∧
    ((after (.payloadFlit (.link 0 false) broken) linked).linkEnd 0).flit.errors = 1 ∧
    ((after (.payloadFlit (.link 0 false) broken) linked).linkEnd 0).flit.retryFor = some 0 := by decide +kernel

/-- A message of length 0 in order: a CRC failure, whose header is not taken (R16). -/
theorem test_length_zero : (let f := buildFlit (({} : FlitEnd).header false 0 0 0 0) (units15 0)
    flitCrcOk f = true ∧ flitType f = 0 ∧ FlitEnd.badLength 15 (({} : FlitEnd).usable false f) = true ∧
    ((after (.payloadFlit (.link 0 false) f) linked).linkEnd 0).flit.errors = 1 ∧
    ((after (.payloadFlit (.link 0 false) f) linked).linkEnd 0).flit.retryFor = some 0) := by decide +kernel

def held (n : Nat) : HeldFlit := { seq := BitVec.ofNat 16 n, first := 15, units := units15 0 }

/-- Link 0 with flits 2, 3 and 4 held, a retry request for number 0 out, and the eighth request for number 3 due. -/
def holding3 : State :=
  { linked with
    links := [(0, { status := 0x20, flit := { replay := [held 2, held 3, held 4], retryFor := some 0, again := 7, againSeq := 3 } }),
              (1, { status := 0x20 })] }

/-- IDLE_FLIT: Ack 3 frees flits 2 and 3, and a total of 5 adds five credits (R18, R23). -/
theorem test_idle_flit : (holding3.linkEnd 0).flit.waiting = [] ∧ (holding3.linkEnd 0).flit.txUnits.length < 15 ∧
    (let f := buildFlit (({ freed := [5] } : FlitEnd).header false 1 0 3 15) []
     flitCrcOk f = true ∧ flitType f = 1 ∧ flitAck false f = 3 ∧
     ((after (.idleFlit (.link 0 false) f) holding3).linkEnd 0).flit.replay = [held 4] ∧
     ((after (.idleFlit (.link 0 false) f) holding3).linkEnd 0).flit.credits = [5, 0, 0, 0]) := by decide +kernel

/-- RETRY_REQUEST for 4 replays one flit; the eighth for 3 orders a retrain (R21, R27). -/
theorem test_retry_request :
    (let f := buildFlit (({} : FlitEnd).header false 2 0 4 15) []
     let g := buildFlit (({} : FlitEnd).header false 2 0 3 15) []
     flitCrcOk f = true ∧ flitType f = 2 ∧ flitCrcOk g = true ∧ flitType g = 2 ∧
     ((after (.retryRequest (.link 0 false) f) holding3).linkEnd 0).flit.wire.length = 1 ∧
     fld ((after (.retryRequest (.link 0 false) f) holding3).linkEnd 0).status 63 48 = 1 ∧
     ((after (.retryRequest (.link 0 false) g) holding3).linkEnd 0).flit.ordered = true) := by decide +kernel

theorem test_retry_request_resend : (holding3.linkEnd 0).flit.retryFor = some (holding3.linkEnd 0).flit.rxSeq ∧
    ((after (.retryRequestResend (.link 0 false)) holding3).linkEnd 0).flit.wire.map flitType = [2] := by decide +kernel

theorem test_ack_timeout : (holding3.linkEnd 0).flit.replay ≠ [] ∧ (∀ h ∈ (holding3.linkEnd 0).flit.replay, h.units.length = 15) ∧
    ((after (.ackTimeout (.link 0 false)) holding3).linkEnd 0).flit.wire.map (flitSeq false) = [2, 3, 4] := by decide +kernel

/-- The capability words that the two ends of link 0 form, from a compute or base die of stepping 0x12 (R29). -/
def capLow : Word := capWord 0 false 0x12
def capHigh : Word := capWord 0 true 0x12

def training : State :=
  { up with links := [(0, { status := 0x10, cap := capLow, peerCap := capHigh }), (1, { status := 0x10, cap := capHigh, peerCap := capLow })] }

/-- A cold start whose loop-back has passed at both ends of link 0 (R33). -/
def looped : State := { up with links := [(0, { status := 0x40, tested := true }), (1, { status := 0x40, tested := true })] }

/-- A retrain is ordered, the last one 0.5 s ago or 2 s ago. -/
def ordered (t0 : Word) : State :=
  { up with
    launchCounter := 3000000000,
    links := [(0, { status := 0x20, flit := { ordered := true, lastRetrain := some t0 } }), (1, { status := 0x20 })] }

theorem test_link_training : (looped.linkEnd 0).mayTrain = true ∧ (looped.linkEnd 1).mayTrain = true ∧ (up.linkEnd 0).mayTrain = false ∧
    fld ((after (.linkTraining 0 false 5 6) looped).linkEnd 1).status 7 4 = 1 ∧
    ((after (.linkTraining 0 false 5 6) looped).linkEnd 1).peerCap = 5 := by decide +kernel

theorem test_ordered_retrain : fld ((ordered 1000000000).linkEnd 0).status 7 4 = 2 ∧
    1000000000 ≤ ((ordered 1000000000).launchCounter - 1000000000).toNat ∧
    fld ((after (.linkTraining 0 true 5 6) (ordered 1000000000)).linkEnd 0).status 47 40 = 1 ∧
    ((ordered 2500000000).launchCounter - 2500000000).toNat < 1000000000 ∧
    fld ((after (.linkTraining 0 true 5 6) (ordered 2500000000)).linkEnd 1).status 7 4 = 3 ∧
    (after (.linkTraining 0 true 5 6) (ordered 2500000000)).refuseWork = true := by decide +kernel

theorem test_link_training_done : fld (training.linkEnd 0).status 7 4 = 1 ∧ capsOk 0 capLow capHigh = true ∧
    fld ((after (.linkTrainingDone 0 []) training).linkEnd 1).status 7 4 = 2 ∧
    ((after (.linkTrainingDone 0 []) training).linkEnd 1).flit.credits = [4096, 8192, 2048, 1024] := by decide +kernel

/-- A word of the wrong Kind is no valid word; a marked lane fails the link (R10, R26, R29). -/
theorem test_link_training_fails : capsOk 0 capLow (capWord 1 false 0x12) = false ∧
    fld ((after (.linkTrainingDone 0 [(0, 5)]) training).linkEnd 0).status 7 4 = 3 ∧
    ((after (.linkTrainingDone 0 [(0, 5)]) training).linkEnd 0).why = .laneMarked := by decide +kernel

/-- Cluster 28 of die 3 shares the site of cluster 0, which has a line in its cache and no work in hand (R37). -/
def sited : State :=
  { up with
    clusterMap := [(28, 0x70200000)],
    clusters := [(0, { tokens := [(3, 9)], cache := [{ set := 0, way := 0, line := 2, valid := 1, filling := 0, age := 0, hint := 0, dirty := [],
                                                        data := [] }] }), (28, { resident := false })] }

theorem test_site_switch : bit (sited.mapEntry 28) 21 = true ∧ sited.mayLeave 0 = true ∧
    ((after (.siteSwitch 3 0) sited).cluster 0).resident = false ∧ ((after (.siteSwitch 3 0) sited).cluster 0).cache = [] ∧
    ((after (.siteSwitch 3 0) sited).cluster 0).tokens = [(3, 9)] ∧ ((after (.siteSwitch 3 0) sited).cluster 28).resident = true := by
  decide +kernel

/-! ### Lane instructions (R127-R208) -/

/-- A sector with numbers put at bit offsets. -/
def sectorOfNums (l : List (Nat × Nat)) : Sector := BitVec.ofNat 1024 (l.foldl (fun a p => a + p.2 <<< p.1) 0)

/-- The Quire line at 0x1000 holds, in its first sector, a root table that maps the second gigabyte of context 1 onto the first of memory
(R291-R293), and an instruction word at 0x1010. -/
def codeLine (w : BitVec 32) : QLine :=
  { present := true, line := 2, valid := 1, age := 1, data := [(0, sectorOfNums [(0, 0x1001), (64, 0x010000000000003B), (128, w.toNat)])] }

/-- A kernel of queue 2 in context 1 with one group, 512 KiB of local store, and frames of 16 KiB at 0x10000 (R317). -/
def kern : Kernel :=
  { queue := 2, id := 0x20000, ctx := 1, gen := 0, entry := 0x40001010, arg := 0x77, groupCfg := 0x0000000100000080, sideCfg := 0,
    rep := false }

def at1010 (mask : BitVec 32) : Entry := { pc := 0x40001010, mask := mask, st := .ready }

/-- Lanes 0 and 1: x5 holds 8 and -7, x6 holds 3 and 2; f5 holds 1.0 and 2.0, f6 0.5. -/
def grp : Group :=
  { status := .running, x := [(5, 8), (6, 3), (37, -7), (38, 2)], f := [(5, 0x3F800000), (6, 0x3F000000), (37, 0x40000000), (38, 0x3F000000)],
    stack := [at1010 3] }

/-- The second gigabyte of context 1 is in the look-aside buffer of cluster 0. -/
def tlb1 : TlbEnt :=
  { ctx := 1, gen := 0, lo := 0x40000000, lg := 30, base := 0, pin := true, r := true, w := true, x := true, remote := false, slot := 0 }

def clus (g : Group) : Cluster := { kernel := some kern, clock := .running, started := true, acked := true, groups := [(0, g)], tlb := [tlb1] }

/-- A module whose group 0 of cluster 0 is about to execute a word. -/
def laneOf (u : Cluster) (w : BitVec 32) : State := { up with west := { lines := [(16, codeLine w)] }, clusters := [(0, u)] }
def lane (w : BitVec 32) : State := laneOf (clus grp) w

def lc (w : BitVec 32) : LC := { c := 0, g := 0, e := at1010 3, k := kern, w := w }

/-- Fields of the R form (R159). -/
def rForm (f7 rs2 rs1 f3 rd op : Nat) : BitVec 32 :=
  BitVec.ofNat 32 (f7 * 2 ^ 25 + rs2 * 2 ^ 20 + rs1 * 2 ^ 15 + f3 * 2 ^ 12 + rd * 2 ^ 7 + op)

/-- Register r of lanes 0 and 1 after a command. -/
def xs (i : Instr) (s : State) (r : Nat) : List Word := let g := (after i s).group 0 0; [g.getX 0 r, g.getX 1 r]

/-- Why the group parks after a command: cause and faulting lanes. -/
def parks (i : Instr) (s : State) : Option (Nat × Nat) :=
  ((after i s).group 0 0).parking.map (fun p => (p.cause.toNat, p.flanes.toNat))

-- SUB x7, x5, x6
theorem test_base_alu : (let w := rForm 0x20 6 5 0 7 0x33; Issues (lane w) (lc w) ∧ laneRow w = .alu ∧
    xs (.baseAlu 0 0) (lane w) 7 = [5, -9]) := by unfold Issues; decide +kernel
-- DIV x7, x5, x6 rounds toward zero
theorem test_base_mul_div : (let w := rForm 1 6 5 4 7 0x33; Issues (lane w) (lc w) ∧ laneRow w = .mulDiv ∧
    xs (.baseMulDiv 0 0) (lane w) 7 = [2, -3]) := by unfold Issues; decide +kernel
-- FADD.S f7, f5, f6 = 1.5, 2.5
theorem test_fp_arithmetic : (let w := rForm 0 6 5 7 7 0x53; Issues (lane w) (lc w) ∧ laneRow w = .fpArith ∧
    ((after (.fpArithmetic 0 0) (lane w)).group 0 0).getF 0 7 = 0x3FC00000 ∧
    ((after (.fpArithmetic 0 0) (lane w)).group 0 0).getF 1 7 = 0x40200000) := by unfold Issues; decide +kernel
-- FCVT.W.S x7, f5
theorem test_fp_conversion : (let w := rForm 0x60 0 5 0 7 0x53; Issues (lane w) (lc w) ∧ laneRow w = .fpConv ∧
    xs (.fpConversion 0 0) (lane w) 7 = [1, 2]) := by unfold Issues; decide +kernel

-- BLT x5, x6, +8: lane 1 branches, lane 0 goes on
theorem test_base_branch : (let w := rForm 0 6 5 4 8 0x63; Issues (lane w) (lc w) ∧ laneRow w = .branch ∧
    (0x40001010 + iImmB w).toNat = 0x40001018 ∧
    ((after (.baseBranch 0 0) (lane w)).group 0 0).stack.map (fun e => (e.pc.toNat, e.mask.toNat)) = [(0x40001014, 1), (0x40001018, 2)]) := by
  unfold Issues; decide +kernel
-- BLT x5, x6, +6: the target is no multiple of 4
theorem test_branch_misaligned : (let w := rForm 0 6 5 4 6 0x63; Issues (lane w) (lc w) ∧ laneRow w = .branch ∧
    (0x40001010 + iImmB w).toNat % 4 = 2 ∧ parks (.baseBranch 0 0) (lane w) = some (7, 2)) := by unfold Issues; decide +kernel
-- JAL x1, +16 and +6
theorem test_base_jump : (let w := BitVec.ofNat 32 (0x01000000 + 0x80 + 0x6F); Issues (lane w) (lc w) ∧ laneRow w = .jump ∧
    (0x40001010 + iImmJ w).toNat = 0x40001020 ∧ xs (.baseJump 0 0) (lane w) 1 = [0x40001014, 0x40001014] ∧
    ((after (.baseJump 0 0) (lane w)).group 0 0).stack.map (fun e => (e.pc.toNat, e.mask.toNat)) = [(0x40001020, 3)]) := by
  unfold Issues; decide +kernel
theorem test_jump_misaligned : (let w := BitVec.ofNat 32 (0x00600000 + 0x80 + 0x6F); Issues (lane w) (lc w) ∧ fld w 6 0 = 0x6F ∧
    (lc w).lanes ≠ [] ∧ parks (.baseJump 0 0) (lane w) = some (7, 3)) := by unfold Issues; decide +kernel

-- CSRRS x7, 0xCC0, x0 reads the lane; CSRRW x0, fflags, x6 writes it
theorem test_csr_access : (let w := BitVec.ofNat 32 (0xCC0 * 2 ^ 20 + 2 * 2 ^ 12 + 7 * 2 ^ 7 + 0x73); Issues (lane w) (lc w) ∧ laneRow w = .csr ∧
    fld w 31 20 ≠ 0xC00 ∧ xs (.csrAccess 0 0) (lane w) 7 = [0, 1]) := by unfold Issues; decide +kernel
-- CSRRS x7, cycle, x0: the free value of the cycle count is used up
theorem test_csr_cycle : (let w := BitVec.ofNat 32 (0xC00 * 2 ^ 20 + 2 * 2 ^ 12 + 7 * 2 ^ 7 + 0x73); Issues (lane w) (lc w) ∧ laneRow w = .csr ∧
    fld w 31 20 = 0xC00 ∧ (after (.csrAccess 0 0) (lane w)).free = 1) := by unfold Issues; decide +kernel
theorem test_csr_write : (let w := BitVec.ofNat 32 (1 * 2 ^ 20 + 6 * 2 ^ 15 + 1 * 2 ^ 12 + 0x73); Issues (lane w) (lc w) ∧ laneRow w = .csr ∧
    ((after (.csrAccess 0 0) (lane w)).group 0 0).getFcsr 0 = 3 ∧ ((after (.csrAccess 0 0) (lane w)).group 0 0).getFcsr 1 = 2) := by
  unfold Issues; decide +kernel

/-- A cluster whose cache holds a clean line, to be dropped by an acquire (R197). -/
def cached : Cluster :=
  { clus grp with cache := [{ set := 0, way := 0, line := 4, valid := 1, filling := 0, age := 0, hint := 0, dirty := [], data := [] }] }

theorem test_base_fence : (let w := BitVec.ofNat 32 0x0FF0000F; Issues (laneOf cached w) (lc w) ∧ laneRow w = .fence ∧
    ((after (.baseFence 0 0) (laneOf cached w)).cluster 0).cache = []) := by unfold Issues; decide +kernel
-- dh.fence: acquire bits set, device scope
theorem test_dh_fence : (let w := BitVec.ofNat 32 (3 * 2 ^ 24 + 2 * 2 ^ 20 + 6 * 2 ^ 12 + 0x5B); Issues (laneOf cached w) (lc w) ∧ laneRow w = .dhFence ∧
    fld w 25 24 ≠ 0 ∧ 2 ≤ fld w 21 20 ∧ ((after (.dhFence 0 0) (laneOf cached w)).cluster 0).cache = []) := by unfold Issues; decide +kernel

theorem test_ecall : (let w := BitVec.ofNat 32 0x73; Issues (lane w) (lc w) ∧ laneRow w = .ecall ∧
    parks (.ecall 0 0) (lane w) = some (9, 0)) := by unfold Issues; decide +kernel
theorem test_ebreak : (let w := BitVec.ofNat 32 0x100073; Issues (lane w) (lc w) ∧ laneRow w = .ebreak ∧
    parks (.ebreak 0 0) (lane w) = some (0x0A, 0)) := by unfold Issues; decide +kernel
theorem test_illegal_instruction : (let w := BitVec.ofNat 32 0; Issues (lane w) (lc w) ∧ laneRow w = .illegal ∧
    parks (.illegalInstruction 0 0) (lane w) = some (4, 0)) := by unfold Issues; decide +kernel
-- dh.park goes on past itself
theorem test_dh_park : (let w := BitVec.ofNat 32 (0x100 * 2 ^ 20 + 1 * 2 ^ 12 + 0x0B); Issues (lane w) (lc w) ∧ laneRow w = .park ∧
    parks (.dhPark 0 0) (lane w) = some (1, 0) ∧
    ((after (.dhPark 0 0) (lane w)).group 0 0).stack.map (fun e => e.pc.toNat) = [0x40001014]) := by unfold Issues; decide +kernel

/-- The same module with context 1 in exact mode (R59, R129). -/
def exact (w : BitVec 32) : State := { lane w with ctxs := [(0, { xlat := 0x1001, status := 0x10000000 }), (1, { xlat := 0x1001, status := 0x10000010 })] }

theorem test_exact_mode_traps :
    ([(rForm 2 0 5 3 7 0x7B, LaneRow.tkread, Instr.dhTkread 0 0), (rForm 0x08 0 5 6 0 0x5B, .deadhead, .dhDeadhead 0 0),
      (rForm 0 6 5 7 7 0x5B, .amo 0, .dhAmoswap 0 0), (BitVec.ofNat 32 (0xC01 * 2 ^ 20 + 2 * 2 ^ 12 + 7 * 2 ^ 7 + 0x73), .csr, .csrAccess 0 0)].all
      (fun (w, r, i) => (exact w).fetchLane 0 0 == some (lc w, none) && exactTraps w && laneRow w == r && bit ((exact w).ctx 1).status 4 &&
        parks i (exact w) == some (5, 0))) = true := by decide +kernel

/-! Votes and shuffles (R164, R165): lane 0 holds 8, lane 1 holds -7. -/

theorem test_votes :
    ([(rForm 0 0 5 0 7 0x0B, LaneRow.vany, Instr.dhVany 0 0, [1, 1]), (rForm 1 0 5 0 7 0x0B, .vall, .dhVall 0 0, [1, 1]),
      (rForm 2 0 5 0 7 0x0B, .ballot, .dhBallot 0 0, [3, 3]), (rForm 3 0 0 0 7 0x0B, .elect, .dhElect 0 0, [1, 0])].all
      (fun (w, r, i, v) => (lane w).fetchLane 0 0 == some (lc w, none) && !exactTraps w && laneRow w == r && xs i (lane w) 7 == v)) = true := by
  decide +kernel
theorem test_reductions :
    ([(rForm 4 0 5 0 7 0x0B, LaneRow.vsum, Instr.dhVsum 0 0, [1, 1]), (rForm 5 0 5 0 7 0x0B, .vmin, .dhVmin 0 0, [-7, -7]),
      (rForm 6 0 5 0 7 0x0B, .vmax, .dhVmax 0 0, [8, 8]), (rForm 7 0 5 0 7 0x0B, .vprefix, .dhVprefix 0 0, [0, 8])].all
      (fun (w, r, i, v) => (lane w).fetchLane 0 0 == some (lc w, none) && !exactTraps w && laneRow w == r && xs i (lane w) 7 == v)) = true := by
  decide +kernel
-- x6 holds 3 in lane 0 and 2 in lane 1: only sources 0 and 1 are active, any other leaves a lane its own value
theorem test_shuffles :
    ([(rForm 0x10 10 5 0 7 0x0B, LaneRow.shfl, Instr.dhShfl 0 0, [8, 8]), (rForm 0x11 11 5 0 7 0x0B, .shflXor, .dhShflXor 0 0, [-7, 8]),
      (rForm 0x12 11 5 0 7 0x0B, .shflUp, .dhShflUp 0 0, [8, 8]), (rForm 0x13 11 5 0 7 0x0B, .shflDown, .dhShflDown 0 0, [-7, -7])].all
      (fun (w, r, i, v) =>
        let s := laneOf (clus { grp with x := [(5, 8), (11, 1), (37, -7), (43, 1)] }) w
        s.fetchLane 0 0 == some (lc w, none) && !exactTraps w && laneRow w == r && xs i s 7 == v)) = true := by decide +kernel

/-! Waits and tokens (R135, R167, R181-R185). -/

/-- Ticket 3 of the Press ended in a fault and ticket 8 is outstanding; token 8 stands at 5. -/
def awaited : Cluster :=
  { clus { grp with x := [(5, 3), (6, 4), (37, 3), (38, 4)] } with
    press := { ended := [(3, true)] }, stream := { ended := [(3, true)] }, tokens := [(3, 5)] }

theorem test_waits_complete :
    ([(rForm 1 0 5 0 7 0x7B, LaneRow.twait, Instr.dhTwait 0 0, [1, 1]), (rForm 1 0 5 1 7 0x7B, .swait, .dhSwait 0 0, [1, 1]),
      (rForm 2 0 5 3 7 0x7B, .tkread, .dhTkread 0 0, [5, 5])].all
      (fun (w, r, i, v) => let s := laneOf awaited w
        s.fetchLane 0 0 == some (lc w, none) && bit (s.ctx 1).status 4 == false && laneRow w == r && xs i s 7 == v)) = true := by decide +kernel

/-- An operation of ticket 3 is outstanding in both units, and token 3 stands below what is asked. -/
def awaiting : Cluster :=
  { clus { grp with x := [(5, 3), (6, 4), (37, 3), (38, 4)] } with
    press := { ops := [{ ticket := 3, group := 0, desc := 0 }] }, stream := { ops := [{ ticket := 3, group := 0, desc := 0, s1 := {} }] },
    tokens := [(3, 3)] }

theorem test_waits_wait :
    ([(rForm 1 0 5 0 7 0x7B, LaneRow.twait, Instr.dhTwait 0 0), (rForm 1 0 5 1 7 0x7B, .swait, .dhSwait 0 0),
      (rForm 1 6 5 3 0 0x7B, .tkwait, .dhTkwait 0 0)].all
      (fun (w, r, i) => let s := laneOf awaiting w
        s.fetchLane 0 0 == some (lc w, none) && !exactTraps w && laneRow w == r &&
          ((after i s).group 0 0).stack.map (fun e => (e.pc.toNat, e.st)) == [(0x40001010, .waiting)])) = true := by decide +kernel

/-- 0x8005 is behind 5 by 32768: the wait does not hold; 5 - 5 = 0 and 5 - 4 = 1 hold (R185). -/
theorem test_tkwait_boundary :
    ([(5, 1), (4, 1), (0x8006, 1), (0x8005, 0), (6, 0)].all (fun (n, ok) =>
      let w := rForm 1 6 5 3 0 0x7B
      let s := laneOf { awaited with groups := [(0, { grp with x := [(5, 3), (6, BitVec.ofNat 64 n), (37, 3), (38, BitVec.ofNat 64 n)] })] } w
      (((after (.dhTkwait 0 0) s).group 0 0).stack.map (fun e => e.pc.toNat) == [0x40001010 + 4 * ok]))) = true := by decide +kernel

-- dh.tksig to token 3 of the own cluster by 4
theorem test_dh_tksig : (let w := rForm 0 6 5 3 0 0x7B; let s := laneOf awaited w
    Issues s (lc w) ∧ laneRow w = .tksig ∧ s.sameKernel 0 kern = true ∧
    ((after (.dhTksig 0 0) s).cluster 0).incoming.map (fun u => (u.lane.toNat, u.token.toNat, u.amount.toNat)) = [(0, 3, 4), (1, 3, 4)]) := by
  unfold Issues; decide +kernel
theorem test_token_arrival :
    (let u : TokenInc := { cluster := 1, group := 0, lane := 0, token := 3, amount := 65535 }
     let v : TokenInc := { cluster := 2, group := 0, lane := 0, token := 3, amount := 1 }
     let s := laneOf { awaited with incoming := [v, u] } 0
     (s.cluster 0).incoming[1]? = some u ∧ (∀ x ∈ (s.cluster 0).incoming.take 1, ¬(x.cluster = u.cluster ∧ x.group = u.group ∧ x.lane = u.lane)) ∧
     tget 0 ((after (.tokenArrival 0 1) s).cluster 0).tokens 3 = 4 ∧ ((after (.tokenArrival 0 1) s).cluster 0).incoming = [v]) := by
  decide +kernel

/-! Groups (R137-R150). -/

theorem test_dh_exit : (let w := BitVec.ofNat 32 (1 * 2 ^ 12 + 0x0B); Issues (lane w) (lc w) ∧ laneRow w = .exit ∧
    ((after (.dhExit 0 0) (lane w)).group 0 0).stack = []) := by unfold Issues; decide +kernel
theorem test_group_retire : (let s := laneOf (clus { grp with stack := [] }) 0
    (s.cluster 0).runs = true ∧ (s.group 0 0).status = .running ∧ (s.cluster 0).groupBusy 0 = false ∧
    ((after (.groupRetire 0 0) s).group 0 0).status = .retired) := by decide +kernel
theorem test_yield_wake_timeout : (let s := laneOf (clus { grp with stack := [{ at1010 3 with st := .yielded }] }) 0
    (∀ e ∈ (s.group 0 0).stack, e.st ≠ .ready) ∧ ((after (.yieldWakeTimeout 0 0) s).group 0 0).stack = [at1010 3]) := by decide +kernel

/-- A group told to park for an illegal instruction (R147, R150). -/
def parking : State := laneOf (clus { grp with parking := some { cause := 4, pc := 0x40001010, mask := 3, insn := 0x13 } }) 0

theorem test_group_park : (∀ x ∈ (parking.group 0 0).stack, x.out = none) ∧
    (parking.group 0 0).stack.find? (fun x => x.pc == 0x40001010) = some (at1010 3) ∧
    ((after (.groupPark 0 ⟨0, false⟩) parking).group 0 0).status = .parked ∧ fld ((after (.groupPark 0 ⟨0, false⟩) parking).group 0 0).park 255 248 = 4 ∧
    fld ((after (.groupPark 0 ⟨0, false⟩) parking).group 0 0).park 143 96 = 0x40001010 := by decide +kernel
/-- A register image that fails parks a group of a kernel that may not be replayed with cause 0x08, Reason 0x01 and RS 0 (R435). -/
theorem test_image_fails : (lane 0).mayReplay kern = false ∧ ((lane 0).group 0 0).stack ≠ [] ∧
    (∀ x ∈ ((lane 0).group 0 0).stack, x.out = none) ∧
    (let p := ((after (.groupPark 0 ⟨0, true⟩) (lane 0)).group 0 0).park; (fld p 255 248, fld p 247 240, bit p 229) = (8, 1, false)) := by
  decide +kernel
theorem test_group_livelock : (let s := laneOf (clus { grp with livelock := true }) 0
    (s.cluster 0).kernel = some kern ∧ (s.group 0 0).livelock = true ∧
    fld ((after (.groupLivelock 0 0) s).ctx 1).status 35 32 = 2 ∧ fld ((after (.groupLivelock 0 0) s).ctx 1).status 29 28 = 3) := by decide +kernel

/-! ### Local store, cluster cache, and the Quire from lanes (R168-R178, R206-R208) -/

/-- Fields of the I and S forms (R159). -/
def iForm (imm rs1 f3 rd op : Nat) : BitVec 32 := BitVec.ofNat 32 (imm % 4096 * 2 ^ 20 + rs1 * 2 ^ 15 + f3 * 2 ^ 12 + rd * 2 ^ 7 + op)
def sForm (imm rs2 rs1 f3 op : Nat) : BitVec 32 :=
  BitVec.ofNat 32 (imm / 32 % 128 * 2 ^ 25 + rs2 * 2 ^ 20 + rs1 * 2 ^ 15 + f3 * 2 ^ 12 + imm % 32 * 2 ^ 7 + op)

/-- Lane 0 at offset 16 and lane 1 at the last doubleword of the local store; the local store holds 5 at 16. -/
def stored : Cluster :=
  { clus { grp with x := [(5, 16), (6, 3), (37, 524280), (38, 2)] } with ls := [(16, 5), (524280, 0x80)] }

theorem test_dh_ls_load : (let w := iForm 0 5 3 7 0x2B; let s := laneOf stored w
    Issues s (lc w) ∧ laneRow w = .lsLoad ∧ (lsLoadForm w).bytes = 8 ∧ kern.lsBytes = 524288 ∧
    (∀ l ∈ (lc w).lanes, (s.group 0 0).laneVA l 5 0 + 8 ≤ 524288 ∧ (s.group 0 0).laneVA l 5 0 % 8 = 0) ∧ (s.cluster 0).lsBad = [] ∧
    xs (.dhLsLoad 0 0 []) s 7 = [5, 0x80]) := by unfold Issues; decide +kernel
-- a byte load is extended by its sign
theorem test_dh_ls_load_byte : (let w := iForm 0 5 0 7 0x2B; xs (.dhLsLoad 0 0 []) (laneOf stored w) 7 = [5, -128]) := by decide +kernel
theorem test_dh_ls_store : (let w := sForm 0 6 5 3 0x5B; let s := laneOf stored w
    Issues s (lc w) ∧ laneRow w = .lsStore ∧ (storeForm w).1 = 8 ∧
    (∀ l ∈ (lc w).lanes, (s.group 0 0).laneVA l 5 0 + 8 ≤ 524288 ∧ (s.group 0 0).laneVA l 5 0 % 8 = 0) ∧
    ((after (.dhLsStore 0 0 []) s).cluster 0).ls = [(16, 3), (524280, 2)]) := by unfold Issues; decide +kernel
-- lane 1 ends one byte beyond the local store; lane 1 is misaligned
theorem test_local_store_faults :
    ([(8, some (6, 2)), (4, some (7, 2))].all (fun (imm, p) =>
      let w := iForm imm 5 3 7 0x2B
      let v := sForm imm 6 5 3 0x5B
      let u := if p == some (7, 2) then { stored with groups := [(0, { grp with x := [(5, 20), (6, 3), (37, 8)] })] } else stored
      (laneOf u w).fetchLane 0 0 == some (lc w, none) && parks (.dhLsLoad 0 0 []) (laneOf u w) == p &&
        parks (.dhLsStore 0 0 []) (laneOf u v) == p)) = true := by decide +kernel

/-- Both lanes at offset 16, doubleword 5; x6 holds 3 and 2, rd is x7. -/
def shared16 : Cluster := { clus { grp with x := [(5, 16), (6, 3), (7, 5), (37, 16), (38, 2), (39, 8)] } with ls := [(16, 5)] }

/-- Fields of an atomic on the local store, 64 bits (R177). -/
def amoForm (aop : Nat) (wide : Bool) (rs2 rd : Nat) : BitVec 32 := rForm (aop * 4 + 2 + if wide then 1 else 0) rs2 5 7 rd 0x5B

/-- Lane 0 acts first, lane 1 on what it left: old words of both lanes and the word at the end (R177, R180). -/
theorem test_local_atomics :
    ([(0, Instr.dhAmoswap 0 0, 5, 3, 2), (1, .dhAmoadd 0 0, 5, 8, 10), (2, .dhAmoand 0 0, 5, 1, 0), (3, .dhAmoor 0 0, 5, 7, 7),
      (4, .dhAmoxor 0 0, 5, 6, 4), (5, .dhAmomin 0 0, 5, 3, 2), (6, .dhAmomax 0 0, 5, 5, 5), (7, .dhAmominu 0 0, 5, 3, 2),
      (8, .dhAmomaxu 0 0, 5, 5, 5), (9, .dhAmocas 0 0, 5, 3, 3)].all (fun (aop, i, a, b, m) =>
      let w := amoForm aop true 6 7
      let s := laneOf shared16 w
      s.fetchLane 0 0 == some (lc w, none) && laneRow w == .amo aop && bit w 26 && xs i s 7 == [BitVec.ofNat 64 a, BitVec.ofNat 64 b] &&
        readLe ((after i s).cluster 0).ls 16 8 == m)) = true := by decide +kernel
-- 2.0 in memory, 1.0 and 0.5 from the lanes: the sum is 3.5, the least 0.5, the greatest 2.0
theorem test_local_float_atomics :
    ([(0x0A, Instr.dhFamoaddS 0 0, 0x40600000), (0x0B, .dhFamominS 0 0, 0x3F000000), (0x0C, .dhFamomaxS 0 0, 0x40000000)].all (fun (aop, i, m) =>
      let w := amoForm aop false 6 7
      let s := laneOf { clus { grp with x := [(5, 16), (6, 0x3F800000), (37, 16), (38, 0x3F000000)] } with ls := [(19, 0x40)] } w
      s.fetchLane 0 0 == some (lc w, none) && laneRow w == .amo aop && readLe ((after i s).cluster 0).ls 16 4 == m)) = true := by decide +kernel
-- a free lock: lane 0 takes it with its tag, lane 1 fails; dh.spinacq splits the entry; dh.rel frees the lock
theorem test_local_locks :
    (let a := amoForm 0x0D true 0 7
     let b := amoForm 0x0E true 0 0
     let c := amoForm 0x0F true 0 0
     let free := { shared16 with ls := [] }
     laneRow a = .amo 0x0D ∧ laneRow b = .amo 0x0E ∧ laneRow c = .amo 0x0F ∧
     xs (.dhAcq 0 0) (laneOf free a) 7 = [1, 0] ∧ readLe ((after (.dhAcq 0 0) (laneOf free a)).cluster 0).ls 16 8 = 1 ∧
     ((after (.dhSpinacq 0 0) (laneOf free b)).group 0 0).stack.map (fun e => (e.pc.toNat, e.mask.toNat, e.st)) =
       [(0x40001010, 2, .yielded), (0x40001014, 1, .ready)] ∧
     readLe ((after (.dhRel 0 0) (laneOf shared16 c)).cluster 0).ls 16 8 = 0) := by decide +kernel

/-- The cluster cache holds the first two sectors of the line at 0x2000, as a read may or a write; lane 0 at 0x2000, lane 1 at 0x2080 of the
second gigabyte. -/
def hits : Cluster :=
  { clus { grp with x := [(5, 0x40002000), (6, 3), (37, 0x40002080), (38, 2)] } with
    tlb := [tlb1], cache := [{ set := 0, way := 0, line := 4, valid := 3, filling := 0, age := 0, hint := 0, dirty := [], data := [(0, 77), (1, 78)] }] }

def noted (s : State) (mask : BitVec 32) : State := s.modGroup 0 0 (fun k => k.noteIssue (at1010 mask))

/-- Where the lanes of an access go, once every address translates. -/
def goes : Resolved → Option (List LaneTo)
  | .go ts => some ts
  | _ => none

/-- An access that goes is the one a statement assumes. -/
theorem goes_go {r : Resolved} {ts : List LaneTo} (h : goes r = some ts) : r = .go ts := by
  cases r <;> simp_all [goes]

def lanes2 : List LaneTo := [(0, 0x40002000, .local_ 0x2000), (1, 0x40002080, .local_ 0x2080)]

theorem test_base_load : (let w := iForm 0 5 3 7 0x03; let s := laneOf hits w
    Issues s (lc w) ∧ laneRow w = .load ∧
    goes ((noted s 3).resolve (lc w) .read 8 false [(0, 0x40002000), (1, 0x40002080)]) = some lanes2 ∧
    (s.cluster 0).cline 0x2080 = (s.cluster 0).cache.head? ∧ xs (.baseLoad 0 0) s 7 = [77, 78]) := by unfold Issues; decide +kernel
-- a hinted load of doublewords: hint 0, width 3
theorem test_dh_hinted_load : (let w := rForm 0x03 0 5 5 7 0x5B; let s := laneOf hits w
    Issues s (lc w) ∧ laneRow w = .hintedLoad ∧ (loadForm w).bytes = 8 ∧ xs (.dhHintedLoad 0 0) s 7 = [77, 78]) := by unfold Issues; decide +kernel
theorem test_base_store : (let w := sForm 0 6 5 3 0x23; let s := laneOf hits w
    Issues s (lc w) ∧ laneRow w = .store ∧ bit (s.ctx 1).status 3 = false ∧
    goes ((noted s 3).resolve (lc w) .write 8 false [(0, 0x40002000), (1, 0x40002080)]) = some lanes2 ∧
    ((after (.baseStore 0 0) s).cluster 0).cache.map (fun l => (l.data, l.dirty)) = [([(0, 3), (1, 2)], [(0, 255), (1, 255)])]) := by
  unfold Issues; decide +kernel
theorem test_dh_hinted_store : (let w := rForm 0x13 6 5 5 0 0x5B; let s := laneOf hits w
    Issues s (lc w) ∧ laneRow w = .hintedStore ∧
    ((after (.dhHintedStore 0 0) s).cluster 0).cache.map (fun l => l.data) = [[(0, 3), (1, 2)]]) := by unfold Issues; decide +kernel
-- in fence mode the store goes to the Quire and the entry waits (R196)
theorem test_store_in_fence_mode : (let w := sForm 0 6 5 3 0x23
    let s := { laneOf hits w with ctxs := [(0, { xlat := 0x1001, status := 0x10000000 }), (1, { xlat := 0x1001, status := 0x10000008 })] }
    Issues s (lc w) ∧ bit (s.ctx 1).status 3 = true ∧
    ((after (.baseStore 0 0) s).group 0 0).stack.map (fun e => e.out.map (fun a => a.wait)) =
      [some [(0, 0x40002000, 0x2000), (1, 0x40002080, 0x2080)]]) := by unfold Issues; decide +kernel
-- the frame of group 0 lies at 0x10000 of the context: a store there and a load back perform at once (R139)
theorem test_frame_access : (let u := { clus { grp with x := [(5, 0x10000), (6, 3), (37, 0x10008), (38, 2)] } with
                                          tlb := [{ tlb1 with lo := 0, lg := 20 }, tlb1] }
    let w := sForm 0 6 5 3 0x23
    goes ((noted (laneOf u w) 3).resolve (lc w) .write 8 false [(0, 0x10000), (1, 0x10008)]) = some [(0, 0x10000, .frame 0), (1, 0x10008, .frame 8)] ∧
    ((after (.baseStore 0 0) (laneOf u w)).cluster 0).frame = [(0, 3), (8, 2)]) := by decide +kernel

/-- Atomics of lane 0 on the doubleword at 0x2000 of memory wait for the Quire (R178). -/
theorem test_quire_atomics :
    ([(0, Instr.dhAmoswap 0 0, 6, 7), (1, .dhAmoadd 0 0, 6, 7), (2, .dhAmoand 0 0, 6, 7), (3, .dhAmoor 0 0, 6, 7), (4, .dhAmoxor 0 0, 6, 7),
      (5, .dhAmomin 0 0, 6, 7), (6, .dhAmomax 0 0, 6, 7), (7, .dhAmominu 0 0, 6, 7), (8, .dhAmomaxu 0 0, 6, 7), (9, .dhAmocas 0 0, 6, 7),
      (0x0D, .dhAcq 0 0, 0, 7), (0x0E, .dhSpinacq 0 0, 0, 0), (0x0F, .dhRel 0 0, 0, 0)].all (fun (aop, i, rs2, rd) =>
      let w := rForm (aop * 4 + 1) rs2 5 7 rd 0x5B
      let s := laneOf hits w
      laneRow w == .amo aop && !bit w 26 && goes ((noted s 3).resolve (lc w) .atomic 8 true [(0, 0x40002000), (1, 0x40002080)]) == some lanes2 && !(s.cluster 0).mixedLine 0x2000 &&
      ((after i s).group 0 0).stack.map (fun e => e.out.map (fun a => (a.kind, a.wait.length))) == [some (.atomic, 2)])) = true := by decide +kernel
theorem test_quire_float_atomics :
    ([(0x0A, Instr.dhFamoaddS 0 0), (0x0B, .dhFamominS 0 0), (0x0C, .dhFamomaxS 0 0)].all (fun (aop, i) =>
      let w := rForm (aop * 4) 6 5 7 7 0x5B
      let s := laneOf hits w
      laneRow w == .amo aop && !bit w 26 &&
      ((after i s).group 0 0).stack.map (fun e => e.out.map (fun a => (a.kind, a.wait.length))) == [some (.atomic, 2)])) = true := by decide +kernel

/-- dh.deadhead of the line at 0x2000, by one lane (R172). -/
def deadWord : BitVec 32 := rForm 0x08 0 5 6 0 0x5B
def dead1 : State := laneOf { hits with groups := [(0, { grp with x := [(5, 0x40002000)], stack := [at1010 1] })] } deadWord
def lcDead : LC := { lc deadWord with e := at1010 1 }

theorem test_dh_deadhead : Issues dead1 lcDead ∧ laneRow deadWord = .deadhead ∧ lcDead.lanes = [0] ∧
    goes ((noted dead1 1).resolve lcDead .atomic 1 true [(0, 0x40002000)]) = some [(0, 0x40002000, .local_ 0x2000)] ∧
    ((after (.dhDeadhead 0 0) dead1).group 0 0).stack.map (fun e => e.out.map (fun a => a.wait)) = [some [(0, 0x40002000, 0x2000)]] := by
  unfold Issues; decide +kernel

/-! ### The Press and the Stream Engine (R66-R125) -/

/-- All 32 lanes at the instruction; the local store holds `d` at 0. -/
def whole (d : Nat) : Cluster :=
  { clus { grp with x := [], stack := [at1010 (BitVec.allOnes 32)] } with ls := writeLe [] 0 64 d }

def lcAll (w : BitVec 32) : LC := { lc w with e := at1010 (BitVec.allOnes 32) }

/-- A tile descriptor of one row, one column and depth 1 with operands at 0x1000 and 0x2000 and Aux at 0x3000 (R69). -/
def tileDesc (op fmt out start fin : Nat) : BitVec 256 :=
  BitVec.ofNat 256 (put 1 8 225 + put 0x3000 48 176 + put 1 8 168 + put 0x2000 22 146 + put 1 8 138 + put 0x1000 22 116 + put op 4 60 +
    put fmt 4 56 + put fmt 4 52 + put out 4 48 + put start 2 45 + put fin 2 43 + put 1 25 0)

def tileWord : BitVec 32 := rForm 0 0 5 0 7 0x7B

/-- The five operations enter the queue, each on a buffer that suits it (R69-R74). -/
theorem test_tile_issue :
    ([(Instr.product 0 0, tileDesc 1 1 6 0 0, BufMode.none), (.exponentPass 0 0, tileDesc 2 6 6 0 0, .none), (.merge 0 0, tileDesc 3 9 6 0 0, .none),
      (.anchorLoad 0 0, tileDesc 4 1 6 0 0, .none), (.drain 0 0, tileDesc 5 1 6 0 1, .exact)].all (fun (i, d, m) =>
      let s := laneOf { whole d.toNat with press := { buf0 := { mode := m } } } tileWord
      s.fetchLane 0 0 == some (lcAll tileWord, none) && laneRow tileWord == .tile &&
        BitVec.ofNat 256 (readLe (s.cluster 0).ls 0 32) == d && tileFaults 524288 (s.cluster 0).press.projected 0 d == [] &&
        ((after i s).cluster 0).press.ops.map (fun o => (o.desc, o.phase)) == [(d, .queued)] &&
        ((after i s).cluster 0).press.nextTicket == 1)) = true := by decide +kernel
/-- A product whose finish is unlisted parks the group with reason 1 (R70, R74). -/
theorem test_tile_fault : (let d := tileDesc 1 1 6 0 3; let s := laneOf (whole d.toNat) tileWord
    Issues s (lcAll tileWord) ∧ tileFaults 524288 (s.cluster 0).press.projected 0 d = [1] ∧
    ((after (.product 0 0) s).group 0 0).parking.map (fun p => (p.cause, p.reason)) = some (2, 1)) := by unfold Issues; decide +kernel
/-- Issued by two lanes, or with unlike operands, a collective traps (R75, R99, R144). -/
theorem test_divergent_collectives :
    (let w := rForm 0 0 5 1 7 0x7B
     let unlike := laneOf { whole 0 with groups := [(0, { grp with x := [(5, 8)], stack := [at1010 (BitVec.allOnes 32)] })] } w
     Issues (lane tileWord) (lc tileWord) ∧ (lc tileWord).e.mask ≠ BitVec.allOnes 32 ∧
     ((after (.product 0 0) (lane tileWord)).group 0 0).parking.map (fun p => (p.cause, p.reason)) = some (2, 6) ∧
     Issues unlike (lcAll w) ∧ laneRow w = .stream ∧ (unlike.group 0 0).getX 0 5 ≠ (unlike.group 0 0).getX 1 5 ∧
     ((after (.dhStream 0 0) unlike).group 0 0).parking.map (fun p => (p.cause, p.reason)) = some (3, 0x13)) := by unfold Issues; decide +kernel

def op1 (d : BitVec 256) : PressOp := { ticket := 3, group := 0, desc := d }
/-- With eight operations in the queue the instruction waits where it is (R76). -/
theorem test_tile_stall : (let d := tileDesc 4 1 6 0 0
    let s := laneOf { whole d.toNat with press := { ops := List.replicate 8 (op1 d) } } tileWord
    Issues s (lcAll tileWord) ∧ tileFaults 524288 (s.cluster 0).press.projected 0 d = [] ∧
    ((after (.anchorLoad 0 0) s).cluster 0).press.ops.length = 8 ∧ ((after (.anchorLoad 0 0) s).cluster 0).press.nextTicket = 0 ∧
    ((after (.anchorLoad 0 0) s).group 0 0).stack.map (fun e => e.pc) = [0x40001010]) := by unfold Issues; decide +kernel
def pressed (p : Press) : State := laneOf { clus grp with press := p, ls := [(0x1000, 0x40), (0x2000, 0xC0)] } 0

theorem test_own_exponent_pass_start : (let s := pressed { ops := [{ op1 (tileDesc 1 6 6 0 0) with exp := .needed }] }
    (s.cluster 0).press.ops.find? (fun x => x.exp == .needed) = (s.cluster 0).press.ops.head? ∧
    ((after (.ownExponentPassStart 0) s).cluster 0).press.ops.map (fun o => o.exp) = [.running]) := by decide +kernel
theorem test_own_exponent_pass_end : (let s := pressed { ops := [{ op1 (tileDesc 1 6 6 0 0) with exp := .running }] }
    (s.cluster 0).press.ops.find? (fun x => x.exp == .running) = (s.cluster 0).press.ops.head? ∧ (s.cluster 0).lsBad = [] ∧
    ((after (.ownExponentPassEnd 0) s).cluster 0).press.ops.map (fun o => o.exp) = [.staged]) := by decide +kernel
/-- The staged value 9 of a product that does not retain replaces the anchor 12, and does not where it retains (R82). -/
theorem test_array_phase_start :
    ([(0, 0x8009), (1, 0x800C)].all (fun (start, v) =>
      let s := pressed { ops := [{ op1 (tileDesc 1 6 6 start 0) with exp := .staged }], staging := [(0, 0x8009)], anchor := [(0, 0x800C)] }
      (s.cluster 0).resident && ((after (.arrayPhaseStart 0) s).cluster 0).press.ops.map (fun o => o.phase) == [.array] &&
        tget 0 ((after (.arrayPhaseStart 0) s).cluster 0).press.anchor 0 == v)) = true := by decide +kernel
-- 2.0 times -2.0 in FP8: the element holds -4 in units of 2^-32 (R49)
theorem test_array_phase_end : (let s := pressed { ops := [{ op1 (tileDesc 1 1 6 0 0) with phase := .array }] }
    (s.cluster 0).press.ops.find? (fun x => x.phase == .array) = (s.cluster 0).press.ops.head? ∧ tileMode (tileDesc 1 1 6 0 0) = .exact ∧
    Tile.tokEn (tileDesc 1 1 6 0 0) = false ∧
    ((tileProds (s.cluster 0).ls (tileDesc 1 1 6 0 0) 0 0).foldl (fun a x => exactStep a x.1 x.2) {}).fits .exact = true ∧
    ((after (.arrayPhaseEnd 0 false) s).cluster 0).press.ops = [] ∧
    ((after (.arrayPhaseEnd 0 false) s).cluster 0).press.acc.map (fun e => e.2.val.toInt) = [-4 * 2 ^ 32]) := by decide +kernel
theorem test_finish_start : (let s := pressed { ops := [{ op1 (tileDesc 1 1 6 0 1) with phase := .arrayDone }], nextSlot := 3 }
    hasFinish (tileDesc 1 1 6 0 1) = true ∧ ((after (.finishStart 0) s).cluster 0).press.credits = 3 ∧
    ((after (.finishStart 0) s).cluster 0).press.nextSlot = 0) := by decide +kernel
theorem test_finish_end : (let s := pressed { ops := [{ op1 (tileDesc 1 1 6 0 1) with phase := .finishing, slot := 2 }], buf0 := { mode := .exact } }
    (s.cluster 0).press.slots.length = 4 ∧ (s.cluster 0).press.ops.find? (fun x => x.phase == .finishing) = (s.cluster 0).press.ops.head? ∧
    ((after (.finishEnd 0 false) s).cluster 0).press.order = [2] ∧
    ((after (.finishEnd 0 false) s).cluster 0).press.slots.map (fun x => x.st) = [.free, .free, .visible, .free]) := by decide +kernel
theorem test_press_credit_return : (let s := pressed { creditsComing := 1, credits := 3 }
    (s.cluster 0).press.creditsComing ≠ 0 ∧ ((after (.pressCreditReturn 0) s).cluster 0).press.credits = 4) := by decide +kernel

/-- A stream of one element: its Sprig at 0x40 adds constant 0, which is 1.0, to itself, into output 0, an FP32 at 0x100 (R95-R108). -/
def strmDesc : BitVec 512 := BitVec.ofNat 512 (put 0x40 22 466 + put 1 2 249 + put 6 4 244 + put 0x100 48 196)
def sprigNum : Nat := 0x3FF0000000000000 <<< 64 + (1 * 2 ^ 26 + 0x10 * 2 ^ 20 + 0x18 * 2 ^ 15 + 0x18 * 2 ^ 10) <<< 576
def sprig1 : Sprig := { ks := 0x3FF0000000000000 :: List.replicate 7 0, ins := [BitVec.ofNat 32 (1 * 2 ^ 26 + 0x10 * 2 ^ 20 + 0x18 * 2 ^ 15 + 0x18 * 2 ^ 10)] }
def streamed (d : BitVec 512) : Cluster := { whole d.toNat with ls := writeLe (writeLe [] 0 64 d.toNat) 0x40 76 sprigNum }
def streamWord : BitVec 32 := rForm 0 0 5 1 7 0x7B
def okOr {ε α : Type} (d : α) : Except ε α → α
  | .ok a => a
  | .error _ => d

theorem test_dh_stream : (let s := laneOf (streamed strmDesc) streamWord
    Issues s (lcAll streamWord) ∧ laneRow streamWord = .stream ∧ streamFaults 524288 strmDesc = [] ∧
    okOr {} (readSprig (s.cluster 0).ls [] 524288 0x40) = sprig1 ∧ sprigRulesBad strmDesc 0 true sprig1 = false ∧
    ((after (.dhStream 0 0) s).cluster 0).stream.ops.map (fun o => o.s1) = [sprig1]) := by unfold Issues; decide +kernel
def running1 : State := laneOf { clus grp with stream := { ops := [{ ticket := 4, group := 0, desc := strmDesc, s1 := sprig1 }] } } 0

theorem test_stream_first_read : ((running1.cluster 0).stream.ops.all (fun o =>
      let r := o.run true 0 (running1.streamSrc 0 []) { v0 := [], v1 := [], rowf := [] } none
      r.writes.map (fun w => w.kind) == [1] && (match State.streamWrites 0 kern 4 r.writes running1 with | .ok _ => true | _ => false))) = true ∧
    rowVecs strmDesc = [] ∧ tileInput strmDesc = none ∧ Strm.reset0 strmDesc = false ∧
    Strm.reset1 strmDesc = false ∧ ((after (.streamFirstRead 0 none) running1).cluster 0).stream.ops.map (fun o => o.phase) = [.writing] := by
  decide +kernel

theorem test_stream_complete : (let o : StreamOp := { ticket := 4, group := 0, desc := BitVec.ofNat 512 (put 1 1 495 + put 9 6 489), s1 := {}, phase := .writing, status := 5 }
    let s := laneOf { clus grp with stream := { ops := [o] } } 0
    (s.cluster 0).kernel = some kern ∧ s.sh.reqs = [] ∧ ((after (.streamComplete 0) s).cluster 0).stream.ops = [] ∧
    ((after (.streamComplete 0) s).ctx 1).num = 5 ∧ tget 0 ((after (.streamComplete 0) s).cluster 0).tokens 9 = 1) := by decide +kernel
-- input 0 is a row vector of one FP32 at 0x200 of the local store
theorem test_row_vector_load : (let d := BitVec.ofNat 512 (put (put 1 2 43 + put 6 4 39 + put 1 1 38 + put 0x200 22 16) 45 341)
    let o : StreamOp := { ticket := 4, group := 0, desc := d, s1 := {} }
    let s := laneOf { clus grp with ls := [(0x200, 7)], stream := { ops := [o] } } 0
    (s.cluster 0).stream.ops.find? (fun o => o.phase == .queued && o.rows.isNone && rowVecs o.desc != []) = some o ∧
    ((after (.rowVectorLoad 0) s).cluster 0).stream.ops.map (fun o => o.rows) = [some [(0, 7)]]) := by decide +kernel

/-- x5, x6, x8 give address, offset and length 256 in every lane; the first 256 bytes at 0x1000 are readable. -/
def filling : Cluster :=
  { clus { grp with
             x := (List.range 32).flatMap (fun l => [(l * 32 + 5, 0x40001000), (l * 32 + 6, 0x100), (l * 32 + 8, 256)])
             stack := [at1010 (BitVec.allOnes 32)] } with
    tlb := [tlb1] }
def fillForm (flush : Bool) : BitVec 32 := rForm (8 * 4 + if flush then 1 else 0) 6 5 2 7 0x7B

theorem test_fill_issue :
    ([(false, LaneRow.ocfill, Instr.dhOcfill 0 0), (true, .ocflush, .dhOcflush 0 0)].all (fun (flush, r, i) =>
      let w := fillForm flush
      let s := laneOf filling w
      s.fetchLane 0 0 == some (lcAll w, none) && laneRow w == r && iRs3 w == 8 &&
        ((after i s).cluster 0).stream.fills.map (fun o => (o.flush, o.va.toNat, o.off.toNat, o.len.toNat)) ==
          [(flush, 0x40001000, 0x100, 256)])) = true := by decide +kernel
/-- With eight streams or four fills in the queue the instruction waits (R100, R115). -/
theorem test_stream_stalls : (let s := laneOf { streamed strmDesc with stream := { ops := List.replicate 8 { ticket := 4, group := 0, desc := 0, s1 := {} } } } streamWord
    Issues s (lcAll streamWord) ∧ ((after (.dhStream 0 0) s).cluster 0).stream.ops.length = 8 ∧ ((after (.dhStream 0 0) s).cluster 0).stream.nextTicket = 0 ∧
    (let f : FillOp := { ticket := 4, group := 0, flush := false, va := 0x40001000, off := 0x100, len := 256 }
     let u := laneOf { filling with stream := { fills := List.replicate 4 f } } (fillForm true)
     Issues u (lcAll (fillForm true)) ∧ ((after (.dhOcflush 0 0) u).cluster 0).stream.fills.length = 4 ∧
     ((after (.dhOcflush 0 0) u).group 0 0).stack.map (fun e => e.pc) = [0x40001010])) := by unfold Issues; decide +kernel
/-- A fill issued by a part of the lanes, or whose third operand differs, traps (R99, R144). -/
theorem test_divergent_fills :
    ([(false, Instr.dhOcfill 0 0), (true, .dhOcflush 0 0)].all (fun (flush, i) =>
      let w := fillForm flush
      let part := laneOf (clus grp) w
      let unlike := laneOf { filling with groups := [(0, { ((filling.groups.head?.map (fun p => p.2)).getD {}) with
        x := (8, 512) :: ((filling.groups.head?.map (fun p => p.2.x)).getD []).filter (fun p => p.1 != 8) })] } w
      ((after i part).group 0 0).parking.map (fun p => (p.cause, p.reason)) == some (3, 0x12) &&
        ((after i unlike).group 0 0).parking.map (fun p => (p.cause, p.reason)) == some (3, 0x13))) = true := by decide +kernel
def fill1 : FillOp := { ticket := 4, group := 0, flush := false, va := 0x40001000, off := 0x100, len := 256 }
theorem test_fill_start : (let s := { laneOf { filling with stream := { fills := [fill1] } } 0x13 with
                                        west := { lines := [(16, { codeLine 0x13 with valid := 3 })] } }
    (s.cluster 0).stream.fills = [fill1] ∧ ((after (.fillStart 0 false) s).cluster 0).stream.fills.map (fun o => (o.phase, o.data.length)) =
      [(.executing, 256)]) := by decide +kernel
theorem test_fill_complete : (let s := laneOf { filling with stream := { fills := [{ fill1 with phase := .executing, data := [1, 2, 3] }] } } 0
    (s.cluster 0).kernel = some kern ∧ readBytes ((after (.fillComplete 0) s).cluster 0).stream.oc 0x100 3 = [1, 2, 3] ∧
    ((after (.fillComplete 0) s).cluster 0).stream.fills = []) := by decide +kernel

def flush1 (phase : StreamPhase) : FillOp := { fill1 with flush := true, phase := phase, data := if phase = .executing then List.replicate 256 1 else [] }
def flushing (phase : StreamPhase) : State := laneOf { filling with stream := { fills := [flush1 phase], oc := [(0x100, 7)] } } 0
/-- A flush reads the operand cache, sends its sectors as writes, and ends once they are performed (R115). -/
theorem test_flush :
    (match (flushing .queued).virtPas 0 ownFill kern .write (sectorsOf 0x40001000 256) with | .ok _ es => es.length | _ => 0) = 2 ∧
    ((after (.fillStart 0 false) (flushing .queued)).cluster 0).stream.fills.map (fun o => (o.phase, o.data.head?)) = [(.executing, some 7)] ∧
    ((after (.fillComplete 0) (flushing .executing)).cluster 0).stream.fills = [flush1 .writing] ∧
    (after (.fillComplete 0) (flushing .executing)).sh.reqs.length = 2 ∧
    ((after (.fillComplete 0) (flushing .writing)).cluster 0).stream.fills = [] := by decide +kernel

/-! ### Queues and kernels (R312-R343) -/

/-- A hardware queue with a completion ring of 16 in host memory at 0x1000 (R314, R331). -/
def qu (type ctx st head tail : Nat) : Queue :=
  { reg := BitVec.ofNat 128 (put head 16 48 + put tail 16 32 + put st 4 28 + put type 2 22 + put ctx 12 10), ring := 0x40001000,
    ringLog2 := 4, cpl := 0x1000, cplHost := true, cplLog2 := 4 }

/-- An entry (R316). -/
def ent (op stamp payload : Nat) : BitVec 512 := BitVec.ofNat 512 (put stamp 16 496 + put op 8 488 + payload)

/-- A kernel of one group on clusters 0 and 1, with frames at 0x40000000. -/
def launchE : BitVec 512 := ent 1 1 (put 0x40001010 48 432 + put 0x77 48 384 + put 0x0000400000000080 64 320 + put 1 7 290)

/-- Slot 1 of the ring of a queue of context 1 lies at 0x1040. -/
def ringLine (e : BitVec 512) : QLine :=
  { present := true, line := 2, valid := 1, data := [(0, sectorOfNums [(0, 0x1001), (64, 0x010000000000003B), (512, e.toNat)])] }
def withQ (ls : List (Nat × Queue)) (e : BitVec 512 := 0) : State := { up with west := { lines := [(16, ringLine e)] }, queues := ls }

def launching : State := withQ [(2, { qu 1 1 2 2 2 with fetched := [launchE] })]

theorem test_kernel_launch : (let s := launching
    Ready s 2 launchE 1 ∧ s.launchFault 2 launchE = none ∧
    (let k := (after (.kernelLaunch 2) s).queue 2
     k.st = 5 ∧ k.running = some launchE ∧ k.launch.id = 0x20001 ∧ k.launch.ctx = 1 ∧ k.launch.gen = 0)) := by unfold Ready; decide +kernel
theorem test_kernel_launch_rejected : (let e := ent 1 1 (put 0x80000000 64 320)
    let s := withQ [(2, { qu 1 1 2 2 2 with fetched := [e] })]
    Ready s 2 e 1 ∧ s.launchFault 2 e = some 1 ∧
    (after (.kernelLaunch 2) s).host.stream.map (fun w => (w.addr.toNat, leNat w.bytes)) =
      [(0x1000, cplRecord 0x20001 7 0 1 1 0 0)]) := by unfold Ready; decide +kernel

def launched : Queue :=
  { qu 1 1 5 2 2 with running := some launchE, launch := { entry := launchE, id := 0x20001, ctx := 1 } }
def token : Kernel :=
  { queue := 2, id := 0x20001, ctx := 1, gen := 0, entry := 0x40001010, arg := 0x77, groupCfg := 0x0000400000000080, sideCfg := 0, rep := false }

theorem test_kernel_dispatch : (let s := withQ [(2, launched)]
    (s.queue 2).launching 2 = true ∧ (s.queue 2).dispatched = false ∧ (s.queue 2).halted = false ∧ s.refuseWork = false ∧ s.launchClusters 2 = [0, 1] ∧
    (∀ c ∈ s.launchClusters 2, (s.cluster c).runList.length < 16) ∧
    ((after (.kernelDispatch 2) s).cluster 0).runList = [token] ∧ ((after (.kernelDispatch 2) s).cluster 1).runList = [token] ∧
    ((after (.kernelDispatch 2) s).cluster 2).runList = []) := by decide +kernel
theorem test_kernel_dispatch_held : (let s := { withQ [(2, launched)] with clusters := [(1, { runList := List.replicate 16 token })] }
    (∃ c ∈ s.launchClusters 2, 16 ≤ (s.cluster c).runList.length) ∧ 2 ∉ s.holding ∧ s.holding.length < 64 ∧
    (after (.kernelDispatch 2) s).holding = [2]) := by decide +kernel

/-- Both clusters have the kernel at the head of their run lists and have reported ready. -/
def waitingStart : State :=
  { withQ [(2, { launched with dispatched := true })] with clusters := [(0, { runList := [token], ready := true }), (1, { runList := [token], ready := true })] }
def begun : State := after (.start 1) (after (.start 0) waitingStart)

theorem test_cluster_ready : (let s := { waitingStart with clusters := [(0, { runList := [token] })] }
    (s.cluster 0).runList ≠ [] ∧ (s.cluster 0).kernel = none ∧ ((after (.clusterReady 0) s).cluster 0).ready = true) := by decide +kernel
theorem test_start : (let s := waitingStart
    (s.cluster 1).runList = [token] ∧ (s.cluster 1).ready = true ∧ (s.cluster 1).kernel = none ∧ s.power.withhold = false ∧
    (∀ d ∈ s.launchClusters 2, (s.cluster d).ready = true ∧ (s.cluster d).runList.head? = some token) ∧
    (begun.cluster 1).kernel = some token ∧ (begun.group 1 0).getX 3 2 = 0x40004800 ∧ (begun.group 1 0).getX 3 10 = 0x77 ∧
    (begun.group 1 0).getX 3 5 = 0) := by decide +kernel
theorem test_go : (∀ d ∈ begun.launchClusters 2, (begun.cluster d).has token = true) ∧ (begun.cluster 0).kernel = some token ∧
    ((after (.go 0) begun).cluster 0).acked = true := by decide +kernel

theorem test_kernel_replay : (let s := withQ [(2, { launched with launch := { launched.launch with withdrawn := true } })]
    (s.queue 2).launch.withdrawn = true ∧ (s.queue 2).running = some launchE ∧ s.sh.reqs = [] ∧
    ((after (.kernelReplay 2) s).cluster 1).runList = [token] ∧ ((after (.kernelReplay 2) s).queue 2).launch.replays = 1) := by decide +kernel
/-- A replay that its queue's stop, a reset of its context or a full run list holds (R326, R343, R436). -/
theorem test_kernel_replay_held : (let k := { launched with launch := { launched.launch with withdrawn := true } }
    let halt := withQ [(2, { k with reg := (qu 1 1 6 2 2).reg })]
    let reset := { withQ [(2, k)] with ctxs := [(1, { xlat := 0x1001, status := 0x30000000, resetting := true })] }
    let full := { withQ [(2, k)] with clusters := [(1, { runList := List.replicate 16 token })] }
    (halt.queue 2).halted = true ∧ after (.kernelReplay 2) halt = halt ∧ after (.kernelReplay 2) reset = reset ∧ after (.kernelReplay 2) full = full) := by
  decide +kernel
/-- Ahead of a kernel that waits, behind one that has begun to start. -/
theorem test_kernel_replay_order : (let other : Kernel := { token with queue := 3, id := 0x30001 }
    let s := fun (started : Bool) => { withQ [(2, { launched with launch := { launched.launch with withdrawn := true } }), (3, { qu 1 1 5 2 2 with started := started })] with
      clusters := [(0, { runList := [other] })] }
    ((after (.kernelReplay 2) (s false)).cluster 0).runList = [token, other] ∧ ((after (.kernelReplay 2) (s true)).cluster 0).runList = [other, token]) := by
  decide +kernel
/-- Cluster 1 has completed; the group of cluster 0 has ended. -/
def ending (l : List CLine) : State :=
  { withQ [(2, { launched with launch := { launched.launch with complete := 2 } })] with
    clusters := [(0, { clus { grp with status := .retired } with kernel := some token, cache := l })] }
theorem test_cluster_kernel_complete : (let s := ending []
    (s.cluster 0).kernel = some token ∧ (s.cluster 0).runs = true ∧ (∀ g, g < token.groups → (s.group 0 g).status = .retired) ∧
    (s.cluster 0).press.ops = [] ∧ (s.cluster 0).stream.ops = [] ∧ (s.cluster 0).stream.fills = [] ∧ s.sh.reqs = [] ∧
    (s.queue 2).launch.id = token.id ∧ (s.queue 2).launch.withdrawn = false ∧ (s.queue 2).running = some launchE ∧
    ((after (.clusterKernelComplete 0) s).queue 2).running = none ∧
    (after (.clusterKernelComplete 0) s).host.stream.map (fun w => leNat w.bytes) = [cplRecord 0x20001 0 0 1 0 0 0]) := by decide +kernel
def dirtyLine : CLine := { set := 0, way := 0, line := 4, valid := 1, filling := 0, age := 0, hint := 0, dirty := [(0, 255)], data := [(0, 3)] }
theorem test_cluster_kernel_writes_back : (let s := ending [dirtyLine]
    (∃ l ∈ (s.cluster 0).cache, l.dirty ≠ []) ∧ ((after (.clusterKernelComplete 0) s).cluster 0).cache.map (fun l => l.dirty) = [[]] ∧
    ((after (.clusterKernelComplete 0) s).queue 2).running = some launchE) := by decide +kernel

theorem test_doorbell : (let s := withQ [(2, { qu 1 1 1 2 2 with reg := (qu 1 1 1 2 2).reg ||| 1 })]
    s.hostWaits = false ∧ (s.queue 2).armed = true ∧ (s.queue 2).st ≠ 0 ∧ stampDiff 18 (s.queue 2).head = 2 ^ 4 ∧ stampDiff 19 (s.queue 2).head = 17 ∧
    ((after (.doorbell true 0x2000 18) s).queue 2).tail = 18 ∧ ((after (.doorbell true 0x2000 18) s).queue 2).st = 2 ∧
    ((after (.doorbell false 0x10 18) s).queue 2).armed = false ∧
    (after (.doorbell true 0x2000 19) s).queues = s.queues ∧ (after (.doorbell true 0x2000 19) s).events.next = 2) := by decide +kernel

/-- In Dormant a doorbell of the host waits, and is taken as the wake is complete (R403). -/
theorem test_doorbell_waits : (let s := { withQ [(2, { qu 1 1 1 2 2 with reg := (qu 1 1 1 2 2).reg ||| 1 })] with power := { status := 0x3200000000000000 } }
    s.hostWaits = true ∧ (after (.doorbell true 0x2000 18) s).queues = s.queues ∧ (after (.doorbell true 0x2000 18) s).host.held = [.doorbell 0x2000 18] ∧
    (s.takeHeld.queue 2).tail = 2 ∧ ((after (.doorbell true 0x2000 18) s).takeHeld.queue 2).tail = 18) := by decide +kernel

theorem test_entry_fetch : (let s := withQ [(2, qu 1 1 2 1 3)]
    (s.queue 2).fetches = true ∧ s.feedStopped (s.queue 2) = false ∧ s.fetchBehind 2 (s.queue 2) = false ∧
    (s.queue 2).head ≠ (s.queue 2).tail ∧ (s.queue 2).held = 0 ∧
    (match s.walk 1 ((s.queue 2).slotVA 1) with | .ok w => !w.remote && w.r | .error _ => false) = true ∧
    ((after (.entryFetch 2) s).queue 2).head = 2 ∧ ((after (.entryFetch 2) s).queue 2).inFetch = 1) := by decide +kernel
theorem test_entry_fetch_empty_and_unmapped : (let s := withQ [(2, qu 1 1 2 3 3), (3, { qu 1 1 2 1 3 with ring := 0x80000000 })]
    ((after (.entryFetch 2) s).queue 2).st = 1 ∧ ((after (.entryFetch 2) s).queue 2).armed = true ∧
    (match s.walk 1 ((s.queue 3).slotVA 1) with | .ok _ => false | .error _ => true) = true ∧ ((after (.entryFetch 3) s).queue 3).st = 7) := by
  decide +kernel

theorem test_entry_arrival : (let e := ent 4 1 0
    let s := withQ [(2, { qu 1 1 2 2 3 with inFetch := 1 })] e
    (s.readVA 1 ((s.queue 2).slotVA 1) 64).map leNat = some e.toNat ∧ ((after (.entryArrival 2) s).queue 2).fetched = [e]) := by decide +kernel
theorem test_entry_arrival_stale : (let s := withQ [(2, { qu 1 1 2 2 3 with inFetch := 1 })] (ent 4 0xFFF1 0)
    ((after (.entryArrival 2) s).queue 2).st = 3 ∧ ((after (.entryArrival 2) s).queue 2).head = 1 ∧ ((after (.entryArrival 2) s).queue 2).fetched = []) := by
  decide +kernel
/-- A stale stamp behind a fence wait leaves the queue in State 4, and the wait is still satisfied (R322, R330). -/
theorem test_entry_arrival_while_blocked :
    (let s := withQ [(2, { qu 1 1 4 2 3 with inFetch := 1, running := some (ent 3 1 (put 3 14 466 + put 1 64 402)) }), (3, (qu 1 1 1 0 0).setDone 1)]
                (ent 4 0xFFF1 0)
     ((after (.entryArrival 2) s).queue 2).st = 4 ∧ ((after (.fenceWaitSatisfied 2) (after (.entryArrival 2) s)).queue 2).st = 3) := by
  decide +kernel
theorem test_stamp_reread : (let e := ent 4 1 0
    let s := withQ [(2, { qu 1 1 3 1 3 with stampAt := some 0 })] e
    (s.queue 2).rereads = true ∧ s.tracksVA 1 ((s.queue 2).slotVA 1) 64 = false ∧ (s.readVA 1 ((s.queue 2).slotVA 1) 64).map leNat = some e.toNat ∧ ((after (.stampReread 2) s).queue 2).fetched = [e] ∧
    ((after (.stampReread 2) s).queue 2).st = 2) := by decide +kernel
theorem test_stamp_timeout : (let s := withQ [(2, { qu 1 1 3 1 3 with stampAt := some 0 })]
    (s.queue 2).rereads = true ∧ 9 ≤ s.coldStep.toNat ∧ ((after (.stampTimeout 2) s).queue 2).st = 7 ∧ (after (.stampTimeout 2) s).events.next = 2) := by
  decide +kernel

theorem test_nop : (let e := ent 4 1 0
    let s := withQ [(2, { qu 1 1 2 2 2 with fetched := [e] })]
    Ready s 2 e 4 ∧ ((after (.nop 2) s).queue 2).done = 1) := by unfold Ready; decide +kernel
-- a kernel launch's payload in a queue of kernels, with the Op of a copy: its Xfer is reported (R319)
theorem test_invalid_entry : (let e := ent 2 1 (put 77 32 312)
    let s := withQ [(2, { qu 1 1 2 2 2 with fetched := [e] })]
    s.readyEntry 2 = some e ∧ s.attachOnly 2 e = false ∧ s.entryValid 2 e = false ∧ Ent.xfer e = 77 ∧
    (after (.invalidEntry 2) s).host.stream.map (fun w => leNat w.bytes) = [cplRecord 0x20001 6 0 1 77 0 0]) := by decide +kernel

/-- A wait of queue 2 for queue 3's Done. -/
def waitE (v : Nat) : BitVec 512 := ent 3 1 (put 3 14 466 + put v 64 402)
theorem test_fence_wait : (let s := withQ [(2, { qu 1 1 2 2 2 with fetched := [waitE 0] }), (3, qu 1 1 1 0 0)]
    Ready s 2 (waitE 0) 3 ∧ Ent.value (waitE 0) ≤ (s.queue (Ent.target (waitE 0))).done ∧ ((after (.fenceWait 2) s).queue 2).done = 1) := by
  unfold Ready; decide +kernel
theorem test_fence_wait_blocks : (let s := withQ [(2, { qu 1 1 2 2 2 with fetched := [waitE 1] }), (3, qu 1 1 1 0 0)]
    Ready s 2 (waitE 1) 3 ∧ (s.queue (Ent.target (waitE 1))).done < Ent.value (waitE 1) ∧ ((after (.fenceWait 2) s).queue 2).st = 4 ∧
    (after (.fenceWait 2) s).walkPending = [2]) := by unfold Ready; decide +kernel
theorem test_fence_wait_satisfied : (let s := withQ [(2, { qu 1 1 4 2 2 with running := some (waitE 1) }), (3, (qu 1 1 1 0 0).setDone 1)]
    (s.queue 2).fence = some (waitE 1) ∧ (s.queue 2).halted = false ∧ (s.queue (Ent.target (waitE 1))).done = 1 ∧
    ((after (.fenceWaitSatisfied 2) s).queue 2).done = 1) := by decide +kernel

/-- Queue 3 waits for queue 2, which waits for queue 3. -/
def cyclic : State :=
  { withQ [(2, { qu 1 1 4 2 2 with running := some (waitE 1) }), (3, { qu 1 1 4 2 2 with running := some (ent 3 1 (put 2 14 466 + put 1 64 402)) })] with
    walkPending := [2] }
theorem test_wait_graph_walk : cyclic.waitCycle 2 16384 2 [] = some [2, 3] ∧ fld ((after (.waitGraphWalk 2) cyclic).ctx 1).status 35 32 = 1 := by
  decide +kernel
theorem test_wait_graph_no_cycle : (let s := { cyclic with queues := cyclic.queues.take 1 }
    s.waitCycle 2 16384 2 [] = none ∧ after (.waitGraphWalk 2) s = { s with walkPending := [] }) := by decide +kernel

/-! ### Copies and admin commands (R299-R303, R318, R331, R340) -/

/-- A copy of 256 bytes with its transfer number. -/
def copyE : BitVec 512 := ent 2 1 (put 0x40001000 48 432 + put 0x40002000 48 384 + put 256 40 344 + put 9 32 312)

theorem test_copy : (let s := withQ [(2, { qu 3 1 2 2 2 with fetched := [copyE] })]
    Ready s 2 copyE 2 ∧ (s.engine 0).queue = none ∧ (s.engine 0).todo = [] ∧ ((after (.copy 2) s).engine 0).queue = some 2 ∧
    ((after (.copy 2) { s with engines := [(0, { queue := some 7 })] }).engine 0).todo = [2]) := by unfold Ready; decide +kernel

/-- The copy runs on engine 0. -/
def copying (k : CopyEngine) (l : List (Nat × Queue) := []) (e : BitVec 512 := 0) : State :=
  { withQ (l ++ [(2, { qu 3 1 5 2 2 with running := some copyE })]) e with engines := [(0, { k with queue := some 2, entry := copyE })] }

theorem test_copy_complete : (let s := copying { done := 256 }
    (s.queue 2).running = some copyE ∧ s.engineBusy 0 = false ∧ (s.engine 0).ends = none ∧ (s.engine 0).stopped = false ∧
    (s.engine 0).done.toNat = Ent.length copyE ∧
    (after (.copyComplete 0) s).host.stream.map (fun w => leNat w.bytes) = [cplRecord 0x20001 0 0 1 9 0 0]) := by decide +kernel
theorem test_copy_ends_early : (let s := copying { ends := some 3 }
    (s.engine 0).ends = some 3 ∧ ((after (.copyComplete 0) s).engine 0).queue = none ∧
    (after (.copyComplete 0) s).host.stream.map (fun w => leNat w.bytes) = [cplRecord 0x20001 3 0 1 9 0 0]) := by decide +kernel
theorem test_copy_stall : (let s := copying { stopped := true }
    (s.engine 0).queue = some 2 ∧ (s.engine 0).stopped = true ∧ fld ((after (.copyStall 0) s).ctx 1).status 35 32 = 3) := by decide +kernel

/-- A command at the front of admin queue 0 (R313). -/
def adq (e : BitVec 512) : List (Nat × Queue) := [(0, { qu 0 0 2 2 2 with fetched := [e] })]
def adm (e : BitVec 512) : State := withQ (adq e)

/-- The command has completed: with success, or rejected with an Info. -/
def accepted (i : Instr) (s : State) (e : BitVec 512) : Bool :=
  (after i s).host.stream.any (fun w => w.addr == 0x1000 && leNat w.bytes == cplRecord (Ent.stamp e) 0 0 1 0 0 0)
def rejected (i : Instr) (s : State) (e : BitVec 512) (info : Nat) : Bool :=
  (after i s).host.stream.map (fun w => leNat w.bytes) == [cplRecord (Ent.stamp e) 8 0 1 info 0 0]

theorem test_fault_resume_retry : (let e := ent 0x48 1 0
    let s := copying { stopped := true, record := 1#256 <<< 249, done := 256 } (adq e)
    AdminReady s false e 0x48 ∧ bit (s.engine 0).record 249 = true ∧ Ent.length (s.engine 0).entry ≤ (s.engine 0).done.toNat ∧
    accepted (.faultResumeRetry false) s e = true ∧ ((after (.faultResumeRetry false) s).engine 0).stopped = false ∧
    rejected (.faultResumeRetry false) (copying { stopped := true } (adq e)) e 2 = true) := by unfold AdminReady Ready; decide +kernel
theorem test_fault_resume_abort : (let e := ent 0x48 1 (put 1 2 472)
    let s := copying { stopped := true } (adq e)
    AdminReady s false e 0x48 ∧ (s.engine 0).todo = [] ∧ accepted (.faultResumeAbort false) s e = true ∧
    (after (.faultResumeAbort false) s).host.stream.any (fun w => leNat w.bytes == cplRecord 0x20001 2 0 1 9 0 0) = true) := by
  unfold AdminReady Ready; decide +kernel
theorem test_translation_fault_record : (let s := copying { stopped := true, recordWaits := true, record := 5 }
    (s.engine 0).recordWaits = true ∧ s.faultLog.length < faultLogRoom ∧ (after (.translationFaultRecord 0) s).faultLog = [5]) := by decide +kernel

theorem test_window_fault_record : (let s := { up with sh := { faultWait := [5, 6] } }
    s.faultLog.length < faultLogRoom ∧ (after (.translationFaultRecord 0) s).faultLog = [5] ∧
    (after (.translationFaultRecord 0) s).sh.faultWait = [6]) := by decide +kernel

theorem test_context_open : (let e := ent 0x40 1 (put 5 12 468 + put 1 2 464 + put 1 1 461 + put 0x1000 36 425 + put 256 9 380)
    AdminReady (adm e) false e 0x40 ∧ (adm e).genBusy 5 = false ∧ (adm e).ctxState 5 = 0 ∧ accepted (.contextOpen false) (adm e) e = true ∧
    (let k := (after (.contextOpen false) (adm e)).ctx 5
     k.xlat = BitVec.ofNat 128 (put 256 9 75 + put 1 4 60 + put 0x1000 36 12 + 1) ∧ k.status = BitVec.ofNat 64 (put 1 2 28 + put 1 1 5))) := by
  unfold AdminReady Ready; decide +kernel
-- context 0; 257 slots
theorem test_context_open_rejected : (let e := ent 0x40 1 0
    let f := ent 0x40 1 (put 5 12 468 + put 257 9 380)
    AdminReady (adm e) false e 0x40 ∧ rejected (.contextOpen false) (adm e) e 3 = true ∧ rejected (.contextOpen false) (adm f) f 1 = true) := by
  unfold AdminReady Ready; decide +kernel
theorem test_context_close : (let e := ent 0x41 1 (put 1 12 468)
    AdminReady (adm e) false e 0x41 ∧ (adm e).ctxState 1 = 1 ∧ (adm e).queuesOf 1 = [] ∧ (adm e).genBusy 1 = false ∧
    accepted (.contextClose false) (adm e) e = true ∧ (after (.contextClose false) (adm e)).ctxState 1 = 0) := by
  unfold AdminReady Ready; decide +kernel
theorem test_context_reset : (let e := ent 0x42 1 (put 1 12 468)
    let s := { adm e with clusters := [(0, clus grp)] }
    AdminReady s false e 0x42 ∧ s.ctxState 1 = 1 ∧ s.genBusy 1 = false ∧ (after (.contextReset false) s).ctxState 1 = 3 ∧
    ((after (.contextReset false) s).cluster 0).kernel = none ∧ ((after (.contextReset false) s).queue 0).running = some e) := by
  unfold AdminReady Ready; decide +kernel
-- 65,535 entries done, Tail at 1: two entries are discarded
theorem test_context_reset_complete : (let e := ent 0x42 1 (put 1 12 468)
    let s := { withQ [(0, { qu 0 0 5 2 2 with running := some e }), (2, (qu 1 1 2 0 1).setDone 65535)] with
               ctxs := [(1, { xlat := 0x1001, status := 0x30000000, resetting := true })] }
    (s.ctx 1).resetting = true ∧ s.sh.reqs = [] ∧ s.queuesOf 1 = [2] ∧ (after (.contextResetComplete 1) s).ctxState 1 = 1 ∧
    ((after (.contextResetComplete 1) s).queue 2).done = 65537 ∧ ((after (.contextResetComplete 1) s).queue 2).head = 1 ∧
    accepted (.contextResetComplete 1) s e = true) := by decide +kernel

theorem test_queue_create : (let e := ent 0x43 1 (put 4 14 466 + put 3 2 464 + put 1 12 452 + put 4 4 448 + put 0x40002000 48 400 + put 0x2000 64 336 + put 1 1 335 +
      put 4 4 331 + put 63 6 325)
    AdminReady (adm e) false e 0x43 ∧ ((adm e).queue 4).st = 0 ∧
    (match (adm e).walk 1 0x40002000 with | .ok w => !w.remote && w.pin && w.r | .error _ => false) = true ∧
    accepted (.queueCreate false) (adm e) e = true ∧
    (let k := (after (.queueCreate false) (adm e)).queue 4
     k.st = 1 ∧ k.type = 3 ∧ k.ctx = 1 ∧ k.bind = 63 ∧ k.armed = true ∧ k.ring = 0x40002000)) := by unfold AdminReady Ready; decide +kernel
theorem test_queue_destroy : (let e := ent 0x44 1 (put 3 14 466)
    let s := withQ (adq e ++ [(3, qu 1 1 1 0 0)])
    AdminReady s false e 0x44 ∧ (s.queue 3).st = 1 ∧ s.fenceNames 3 = false ∧ accepted (.queueDestroy false) s e = true ∧
    (after (.queueDestroy false) s).queue 3 = {}) := by unfold AdminReady Ready; decide +kernel
theorem test_queue_reset : (let e := ent 0x45 1 (put 3 14 466)
    let s := withQ (adq e ++ [(3, (qu 1 1 7 1 2).setErr 1)])
    AdminReady s false e 0x45 ∧ (s.queue 3).st = 7 ∧ accepted (.queueReset false) s e = true ∧
    ((after (.queueReset false) s).queue 3).st = 2 ∧ ((after (.queueReset false) s).queue 3).head = 1) := by unfold AdminReady Ready; decide +kernel

/-- The group of cluster 0 parked at 0x40001010 by an environment call; it may be resumed. -/
def parkedG : Group := { grp with status := .parked, park := BitVec.ofNat 256 (put 5 8 248 + put 1 1 229 + put 0x40001010 48 96) }
def admG (e : BitVec 512) (g : Group) : State := { withQ (adq e) (BitVec.ofNat 512 (2 ^ 200 - 1)) with clusters := [(0, { clus g with frame := [(8, 7)] })] }

-- one doubleword: x5 of lane 0 lies at 0x428 of the image; the frame's second doubleword
theorem test_group_access_read : (let e := ent 0x4B 1 (put 1 12 468 + put 0x428 17 436 + put 1 14 422 + put 0x5000 64 358 + put 1 1 357)
    let f := ent 0x4B 1 (put 1 12 468 + put 1 1 453 + put 8 17 436 + put 1 14 422 + put 0x5000 64 358 + put 1 1 357)
    AdminReady (admG e parkedG) false e 0x4B ∧ accepted (.groupAccessRead false) (admG e parkedG) e = true ∧
    (after (.groupAccessRead false) (admG e parkedG)).host.stream.head? = some { addr := 0x5000, bytes := [8, 0, 0, 0, 0, 0, 0, 0] } ∧
    (after (.groupAccessRead false) (admG f parkedG)).host.stream.head? = some { addr := 0x5000, bytes := [7, 0, 0, 0, 0, 0, 0, 0] }) := by
  unfold AdminReady Ready; decide +kernel
theorem test_group_access_write : (let e := ent 0x4B 1 (put 1 12 468 + put 1 1 454 + put 0x428 17 436 + put 1 14 422 + put 0x40001040 64 358)
    let f := ent 0x4B 1 (put 1 12 468 + put 3 2 453 + put 8 17 436 + put 1 14 422 + put 0x40001040 64 358)
    let h := ent 0x4B 1 (put 1 12 468 + put 1 1 454 + put 1 14 422 + put 0x40001040 64 358)
    AdminReady (admG e parkedG) false e 0x4B ∧ (admG e parkedG).tracksVA 0 0x40001040 8 = false ∧ (admG e parkedG).readVA 0 0x40001040 8 = some (List.replicate 8 255) ∧
    accepted (.groupAccessWrite false) (admG e parkedG) e = true ∧ ((after (.groupAccessWrite false) (admG e parkedG)).group 0 0).getX 0 5 = -1 ∧
    ((after (.groupAccessWrite false) (admG f parkedG)).cluster 0).frame = (List.range 8).map (fun i => (8 + i, 255)) ∧
    rejected (.groupAccessWrite false) (admG h parkedG) h 2 = true) := by unfold AdminReady Ready; decide +kernel
theorem test_inspection_aperture_write : (let s := admG 0 parkedG
    (s.group 0 0).status = .parked ∧ bit (s.group 0 0).park 229 = true ∧
    ((after (.inspectionApertureWrite 0 0x528 true 9) s).group 0 0).getX 1 5 = 9 ∧
    ((after (.inspectionApertureWrite 0 0x500 true 9) s).group 0 0).getX 1 0 = 0) := by decide +kernel
/-- A write to a running group, and one to no multiple of 4, are reported to the core as a trap (R154, log 89). -/
theorem test_inspection_rejected : (let s := admG 0 grp
    (s.group 0 0).mayResume = false ∧ (after (.inspectionApertureWrite 0 0x528 true 9) s).clusters = s.clusters ∧
    tget 0 ((after (.inspectionApertureWrite 0 0x528 true 9) s).core 0).csr 0x342 = 7 ∧
    tget 0 ((after (.inspectionApertureWrite 0 0x52A true 9) (admG 0 parkedG)).core 0).csr 0x343 = 0x06000000052A) := by decide +kernel

theorem test_group_resume_replay : (let e := ent 0x4C 1 (put 1 12 468)
    let s := admG e { parkedG with causes := [{ cause := 0x0B }] }
    AdminReady s false e 0x4C ∧ s.owns 1 0 = true ∧ (s.group 0 0).mayResume = true ∧ accepted (.groupResumeReplay false) s e = true ∧
    ((after (.groupResumeReplay false) s).group 0 0).status = .running ∧
    ((after (.groupResumeReplay false) s).group 0 0).parking = some { cause := 0x0B }) := by unfold AdminReady Ready; decide +kernel
theorem test_group_resume_skip : (let e := ent 0x4C 1 (put 1 12 468 + put 1 2 453)
    let s := admG e parkedG
    AdminReady s false e 0x4C ∧ (s.group 0 0).maySkip = true ∧ accepted (.groupResumeSkip false) s e = true ∧
    ((after (.groupResumeSkip false) s).group 0 0).stack.map (fun e => e.pc) = [0x40001014]) := by unfold AdminReady Ready; decide +kernel
theorem test_group_resume_discard : (let e := ent 0x4C 1 (put 1 12 468 + put 2 2 453)
    let s := admG e parkedG
    AdminReady s false e 0x4C ∧ (s.group 0 0).status = .parked ∧ accepted (.groupResumeDiscard false) s e = true ∧
    ((after (.groupResumeDiscard false) s).group 0 0).status = .discarded ∧ ((after (.groupResumeDiscard false) s).cluster 0).discarded = true) := by
  unfold AdminReady Ready; decide +kernel
theorem test_group_stop : (let e := ent 0x4D 1 (put 1 12 468)
    let s := admG e grp
    let acc : LaneAcc := { kind := .load, insn := 0, mask := 3, wait := [(0, 0x40001080, 0x1080)], vals := [], fails := [] }
    let u := admG e { grp with stack := [{ at1010 3 with out := some acc }] }
    AdminReady s false e 0x4D ∧ s.owns 1 0 = true ∧ (s.group 0 0).status = .running ∧ (s.group 0 0).parking = none ∧
    accepted (.groupStop false) s e = true ∧ ((after (.groupStop false) s).group 0 0).status = .parked ∧
    fld ((after (.groupStop false) s).group 0 0).park 255 248 = 0x0B ∧ AdminReady u false e 0x4D ∧
    ((after (.groupStop false) u).queue 0).running = some e ∧
    ((after (.groupStop false) u).group 0 0).parking = some { cause := 0x0B, notify := false }) := by
  unfold AdminReady Ready; decide +kernel

theorem test_register_read : (let e := ent 0x4E 1 (put 0x88200 24 456 + put 0x5000 64 384 + put 1 1 383)
    let f := ent 0x4E 1 (put 0x88204 24 456)
    let s := { adm e with links := [(0, { status := 0x0003000000000021 })] }
    AdminReady s false e 0x4E ∧ accepted (.registerRead false) s e = true ∧
    (after (.registerRead false) s).host.stream.head? = some { addr := 0x5000, bytes := [0x21, 0, 0, 0, 0, 0, 3, 0] } ∧
    ((after (.registerRead false) s).linkEnd 0).status = 0x21 ∧
    AdminReady (adm f) false f 0x4E ∧ rejected (.registerRead false) (adm f) f 1 = true) := by unfold AdminReady Ready; decide +kernel
theorem test_register_write : (let e := ent 0x4F 1 (put 0x88268 24 456 + put 0xF1 64 392)
    let f := ent 0x4F 1 (put 0x88264 24 456)
    let s := { adm e with links := [(13, { status := 0x21 })] }
    AdminReady s false e 0x4F ∧ accepted (.registerWrite false) s e = true ∧ ((after (.registerWrite false) s).linkEnd 13).status = 0x20 ∧
    AdminReady (adm f) false f 0x4F ∧ rejected (.registerWrite false) (adm f) f 1 = true) := by unfold AdminReady Ready; decide +kernel
theorem test_aperture_write : (let s := { up with ctxs := [(1, { status := 0x10000001, num := 0x115 })] }
    ((after (.apertureWrite 0 0x70008 1) s).ctx 1).status = 0x10000000 ∧ ((after (.apertureWrite 0 0x70008 0xFE) s).ctx 1).status = 0x10000001 ∧
    ((after (.apertureWrite 0 0x78008 0x104) s).ctx 1).num = 0x111) := by decide +kernel
theorem test_status_reads : (let s := { up with
      links := [(3, { status := 0x0005000000000020 })], channels := [(2, { status := 0x0000050000000020 })],
      ctxs := [(1, { status := 0x0005000010000000, counter := 77 })], ports := [(4, { status := 0x0005000030000000 })],
      timed := 0x8000000000000005 }
    (after (.linkStatusRead 1 true) s).sh.readData = [0x20, 0, 0, 0, 0, 0, 5, 0] ∧ ((after (.linkStatusRead 1 true) s).linkEnd 3).status = 0x20 ∧
    (after (.channelStatusRead 2) s).sh.readData = [0x20, 0, 0, 0, 0, 5, 0, 0] ∧ ((after (.channelStatusRead 2) s).channel 2).status = 0x20 ∧
    (after (.quireCounterRead 1) s).sh.readData = [77, 0, 0, 0, 0, 0, 0, 0] ∧ ((after (.quireCounterRead 1) s).ctx 1).counter = 0 ∧
    (after (.contextStatusRead 1) s).sh.readData = [0, 0, 0, 0x10, 0, 0, 5, 0] ∧ ((after (.contextStatusRead 1) s).ctx 1).status = 0x10000000 ∧
    (after (.portStatusRead 4) s).sh.readData = [0, 0, 0, 0x30, 0, 0, 5, 0] ∧ ((after (.portStatusRead 4) s).port 4).status = 0x30000000 ∧
    (after (.timedStatusRead false) s).sh.readData = [5, 0, 0, 0, 0, 0, 0, 0x80] ∧ (after (.timedStatusRead false) s).timed = 0x8000000000000000) := by
  decide +kernel

theorem test_translation_invalidate : (let e := ent 0x47 1 (put 1 12 468 + put 1 1 467)
    let s := { adm e with clusters := [(0, { tlb := [tlb1, { tlb1 with ctx := 2 }] })], engines := [(3, { tlb := [tlb1] })] }
    AdminReady s false e 0x47 ∧ s.sh.reqs = [] ∧ s.sh.walks = [] ∧ Tbl.wf {} s.clusters = true ∧ Tbl.wf {} s.engines = true ∧
    accepted (.translationInvalidate false) s e = true ∧ ((after (.translationInvalidate false) s).cluster 0).tlb = [{ tlb1 with ctx := 2 }] ∧
    ((after (.translationInvalidate false) s).engine 3).tlb = []) := by unfold AdminReady Ready; decide +kernel
-- valid, from the host, base 0x1000
theorem test_window_set : (let w : BitVec 128 := BitVec.ofNat 128 (put 1 1 127 + put 1 2 125 + put 0x1000 48 33 + put 1 28 5)
    let e := ent 0x46 1 (put 7 12 468 + put w.toNat 128 340)
    let f := ent 0x46 1 (put w.toNat 128 340)
    AdminReady (adm e) false e 0x46 ∧ fld w 4 0 = 0 ∧ Win.src w = 1 ∧ Win.base w % 4096 = 0 ∧ (adm e).fabric.held = [] ∧
    accepted (.windowSet false) (adm e) e = true ∧ tget 0 (after (.windowSet false) (adm e)).windows 7 = w ∧
    AdminReady (adm f) false f 0x46 ∧ rejected (.windowSet false) (adm f) f 3 = true) := by unfold AdminReady Ready; decide +kernel

/-! ### The Quire and the channels (R209-R267) -/

/-- The line at 0x1000, in way 0 of set 1 of the west half: sectors 0 and 1 are held, sector 0 dirty. -/
def held1 : QLine := { present := true, line := 2, valid := 3, dirty := 1, age := 1, data := [(0, 9), (1, 0x3F80000000000005)] }
def home (l : QLine := held1) : State := { up with west := { lines := [(16, l)] } }
/-- A request from cluster 0 that is on its way. -/
def asked (op attr : Nat) (ctl : BitVec 128 := 0) (data : Sector := 0) (vc : Nat := 0) (pa : BitVec 48 := 0x1080) : MemMsg :=
  { vc := BitVec.ofNat 2 vc, op := BitVec.ofNat 8 op, src := 0, tag := 7, ctx := 1, attr := BitVec.ofNat 12 attr, pa := pa, ctl := ctl, data := data }
def sent (m : MemMsg) (s : State := home) : State := { s with sh := { inflight := [.mem m] } }

/-- The messages on their way after a command. -/
def wire (i : Instr) (s : State) : List Msg := (after i s).sh.inflight

theorem test_rd_sec : (let m := asked 1 0
    AtHome (sent m) m 0 held1 ∧ wire (.rdSec m false) (sent m) = [.mem (replyTo m 1 1 (data := 0x3F80000000000005))]) := by
  unfold AtHome QuietHalf IdleHalf; decide +kernel
theorem test_wr_full : (let m := asked 2 0 (data := 3)
    AtHome (sent m) m 0 held1 ∧ wire (.wrFull m false) (sent m) = [.mem (replyTo m 1 2)] ∧ (after (.wrFull m false) (sent m)).homeData 0x1080 = 3 ∧
    (after (.wrFull m false) (sent m)).homeData 0x1000 = 9) := by unfold AtHome QuietHalf IdleHalf; decide +kernel
-- byte 7 of the sector only
theorem test_wr_mask : (let m := asked 3 0 (ctl := 0x80) (data := 0xFFFFFFFFFFFFFFFF)
    AtHome (sent m) m 0 held1 ∧ (after (.wrMask m false) (sent m)).homeData 0x1080 = 0xFF80000000000005) := by
  unfold AtHome QuietHalf IdleHalf; decide +kernel
-- AMOADD.D of 2
theorem test_atomic : (let m := asked 4 (1 * 128 + 64) (ctl := 2)
    AtHome (sent m) m 0 held1 ∧ (after (.atomic m false) (sent m)).homeData 0x1080 = 0x3F80000000000007 ∧
    wire (.atomic m false) (sent m) = [.mem (replyTo m 1 3 (ctl := 0x3F80000000000005))]) := by unfold AtHome QuietHalf IdleHalf; decide +kernel
/-- A reduction control unit (R231). -/
def redCtl (fmt rop ordinal count : Nat) : BitVec 128 := BitVec.ofNat 128 (put ordinal 24 72 + put count 24 48 + put fmt 4 44 + put rop 4 40)
-- INT32: the larger of each element
theorem test_red_int : (let m := asked 2 0 (redCtl 8 2 0 0) (data := 0x4000000000000001) (vc := 3)
    AtHome (sent m) m 0 held1 ∧ redIntOk (Red.fmt m) (Red.rop m) (Red.redId m) (Red.ordinal m) (Red.count m) = true ∧
    (after (.redInt m false) (sent m)).homeData 0x1080 = 0x4000000000000005 ∧ wire (.redInt m false) (sent m) = [.mem (replyTo m 3 3)]) := by
  unfold AtHome QuietHalf IdleHalf; decide +kernel
-- FP32: 1.0 + 1.0; the first of two contributions opens a tracker
theorem test_red_ord : (let m := asked 1 0 (redCtl 6 1 0 2) (data := 0x3F80000000000000) (vc := 3)
    AtHome (sent m) m 0 held1 ∧ redOrdOk (Red.fmt m) (Red.rop m) (Red.ordinal m) (Red.count m) = true ∧
    redFold 6 1 0x3F80000000000005 m.data = some 0x4000000000000005 ∧ (after (.redOrd m false) (sent m)).homeData 0x1080 = 0x4000000000000005 ∧
    (after (.redOrd m false) (sent m)).west.reds = [{ pa := 0x1080, ctx := 1, redId := 0, count := 2, next := 1 }]) := by
  unfold AtHome QuietHalf IdleHalf; decide +kernel
theorem test_dead : (let m := asked 5 0
    AtHome (sent m) m 0 held1 ∧ (home.half false).lineHeld 2 = [] ∧ (after (.dead m) (sent m)).west.lines = [] ∧
    (after (.dead m) (sent m)).west.filter = [(2, 1)]) := by unfold AtHome QuietHalf IdleHalf; decide +kernel

-- sector 2 is not held: sectors 2 to 15 are fetched from channel 16
theorem test_rd_sec_waits : (let m := asked 1 0 (pa := 0x1100)
    QuietHalf (sent m) false ∧ ((sent m).half false).lineAt 0x1100 = some (0, held1) ∧ ((sent m).placeOf 0x1100).1 = 16 ∧
    (after (.rdSec m false) (sent m)).west.wait = [m] ∧ wire (.rdSec m false) (sent m) = [] ∧
    ((after (.rdSec m false) (sent m)).channel 16).fetches.map (fun f => (f.sectors.length, f.sectors.head?)) = [(14, some 0x1100)]) := by
  unfold QuietHalf IdleHalf; decide +kernel
-- a reserved hint; the first address beyond the capacity; the first byte of the scratchpad; an open reduction
theorem test_rd_sec_fails : (let m := { asked 1 0 with hint := 3 }
    let a := asked 1 0 (pa := 0x020000000000)
    let b := asked 1 0 (pa := 0x040000000000)
    let c := asked 1 0
    let t := { home with west := { home.west with reds := [{ pa := 0x1080, ctx := 1, redId := 0, count := 2, next := 1 }] } }
    QuietHalf (sent m) false ∧ QuietHalf (sent a) true ∧ QuietHalf (sent a) false ∧
    wire (.rdSec m false) (sent m) = [.mem (replyTo m 1 4 4)] ∧ (sent a).capacity = 0x020000000000 ∧
    wire (.rdSec a false) (sent a) = [.mem (replyTo a 1 4 4)] ∧ isScratch 0x040000000000 = true ∧
    wire (.rdSec b false) (sent b) = [.mem (replyTo b 1 4 2)] ∧ (sent c t).trackerOpen 0x1080 = true ∧
    wire (.rdSec c false) (sent c t) = [.mem (replyTo c 1 5)]) := by unfold QuietHalf IdleHalf; decide +kernel
theorem test_invalid_message : (let m := asked 9 0
    listedOp 0 9 = false ∧ wire (.invalidMessage 0 m) (sent m) = [.mem (replyTo m 1 4 4)] ∧ (after (.invalidMessage 0 m) (sent m)).events.next = 2) := by
  decide +kernel

/-- The request that an answer of the given opcode comes for. -/
def open1 (why : Purpose) (src : BitVec 12) (op vc : Nat) (s : State) : State :=
  { s with sh := { reqs := [{ msg := { vc := 0, op := BitVec.ofNat 8 op, src := src, tag := 7, ctx := 1, pa := 0x1080 }, why := why }],
                   inflight := [.mem { vc := BitVec.ofNat 2 vc, op := 0, src := src, tag := 7, ctx := 1, pa := 0x1080 }] } }
def ans (src : BitVec 12) (vc op : Nat) (attr : Nat := 0) (ctl : BitVec 128 := 0) (data : Sector := 0) : MemMsg :=
  { vc := BitVec.ofNat 2 vc, op := BitVec.ofNat 8 op, src := src, tag := 7, ctx := 1, attr := BitVec.ofNat 12 attr, pa := 0x1080, ctl := ctl, data := data }
def answers (s : State) (m : MemMsg) (why : Purpose) : Bool :=
  (s.reqOf m.src m.tag).any (fun r => r.why == why && r.msg.gen.toNat == s.genOf r.msg.ctx.toNat) && s.sh.reqs.all (fun x => !x.held) &&
    (s.coreReqOf m).isNone

/-- Sector 1 of line 2 is on its way to the cache of cluster 0; byte 0 of it is dirty. -/
def fillLine : CLine := { set := 2, way := 0, line := 2, valid := 1, filling := 2, age := 0, hint := 0, dirty := [(1, 1)], data := [(1, 0xAA)] }
theorem test_data : (let s := open1 .fill 0 1 1 (laneOf { clus grp with cache := [fillLine] } 0)
    let m := ans 0 1 1 (data := 0x1234)
    answers s m .fill = true ∧ (∀ e ∈ (s.group 0 0).stack, e.out = none) ∧ (s.cluster 0).cline 0x1080 = some fillLine ∧
    ((after (.data ⟨m, false⟩) s).cluster 0).cache.map (fun l => (l.valid, l.filling, tget 0 l.data 1)) = [(3, 0, 0x12AA)]) := by decide +kernel
def coreAsk : CoreReq := { tag := 7, op := 1, pa := 0x1080, age := 0, noExcl := false, grant := none, data := none, again := false }
theorem test_data_at_core : (let s := { up with cores := [(3, { reqs := [coreAsk] })] }
    let m := ans 0x103 1 1 (data := 5)
    s.coreReqOf m = some (3, coreAsk) ∧ ((after (.data ⟨m, false⟩) s).core 3).reqs = [{ coreAsk with data := some 5 }] ∧
    s.coreReqOf (ans 0x103 1 4) = some (3, coreAsk) ∧ ((after (.err (ans 0x103 1 4)) s).core 3).failed = [0x1080]) := by decide +kernel
theorem test_done : (let s := open1 .writeBack 0 2 1 up
    let u := open1 .coreAccess 0x103 2 1 { up with cores := [(3, { unc := [{ pa := 0x1080 }] })] }
    answers s (ans 0 1 2) .writeBack = true ∧ (after (.done (ans 0 1 2)) s).sh.reqs = [] ∧
    answers u (ans 0x103 1 2) .coreAccess = true ∧ ((after (.done (ans 0x103 1 2)) u).core 3).unc = [{ pa := 0x1080, answer := some (0, 0) }]) := by
  decide +kernel
def amoWait : LaneAcc := { kind := .atomic, insn := 0, mask := 3, wait := [(0, 0x40001080, 0x1080), (1, 0x40001088, 0x1088)], vals := [], fails := [] }
theorem test_atom_res : (let s := open1 (.laneAtomic 0 0) 0 4 1 (laneOf (clus { grp with stack := [{ at1010 3 with out := some amoWait }] }) 0)
    let m := ans 0 1 3 (ctl := 6)
    answers s m (.laneAtomic 0 0) = true ∧ amoWait.wait.filter (fun w => w.1 == 0) = [(0, 0x40001080, 0x1080)] ∧
    ((after (.atomRes m) s).group 0 0).stack.map (fun e => e.out.map (fun a => (a.wait.length, a.vals))) = [some (1, [(0, 6)])]) := by decide +kernel
theorem test_err : (let s := open1 (.copyWrite 128) 0x204 2 1 { up with engines := [(4, { queue := some 2, held := [1] })] }
    let m := ans 0x204 1 4 1
    answers s m (.copyWrite 128) = true ∧ ((after (.err m) s).engine 4).ends = some 3 ∧ ((after (.err m) s).engine 4).held = []) := by decide +kernel
theorem test_retry : (let s := open1 .writeBack 0 2 1 up
    answers s (ans 0 1 5) .writeBack = true ∧ (after (.retry (ans 0 1 5)) s).sh.reqs.map (fun r => r.again) = [true]) := by decide +kernel
theorem test_red_done : (let s := open1 (.copyWrite 128) 0x204 2 3 (up)
    let s := { s with engines := [(4, { queue := some 2, entry := copyE, done := 128 })] }
    answers s (ans 0x204 3 3) (.copyWrite 128) = true ∧ Ent.length copyE ≤ (128 + 128 : BitVec 40).toNat ∧
    ((after (.redDone (ans 0x204 3 3)) s).engine 4).done = 256) := by decide +kernel
-- the first half has processed one line, the second two
theorem test_maint_done : (let m : MemMsg := { vc := 1, op := 6, src := 0xFFE, tag := 0, ctl := 0x100000001 }
    let e := ent 0x4A 1 0
    let s := withQ [(0, { qu 0 0 5 2 2 with running := some e })]
    let u := { s with sh := { maintGot := [(0xFFE, 1)] } }
    (after (.maintDone m) s).sh.maintGot = [(0xFFE, 1)] ∧ (u.queue 0).running = some e ∧
    (after (.maintDone m) u).host.stream.map (fun w => leNat w.bytes) = [cplRecord 1 0 0 1 2 0 0]) := by decide +kernel

theorem test_resends : (let r : Req := { msg := asked 2 0, why := .writeBack, again := true }
    let o : Req := { r with msg := asked 1 0 (redCtl 6 1 0 2) (vc := 3) }
    let s := { up with sh := { reqs := [r] } }
    let u := { up with sh := { reqs := [o] } }
    isRedOrd r.msg = false ∧ isRedOrd o.msg = true ∧ wire (.quireRetryResend 0 7) s = [.mem r.msg] ∧ wire (.redordResend 0 7) s = [] ∧
    (after (.quireRetryResend 0 7) s).sh.reqs = [{ r with again := false }] ∧
    wire (.redordResend 0 7) u = [.mem o.msg] ∧ wire (.quireRetryResend 0 7) u = []) := by decide +kernel

/-- Sector 2 of the held line has been fetched from channel 16, whose die holds a 5 there. -/
def coming : State :=
  { home { held1 with filling := 4 } with
    channels := [(16, { status := 0x20, fetches := [{ sectors := [0x1100], src := 0, ctx := 1, issued := true }] })], mem := [(0x1100, 5)] }
theorem test_sector_arrival : (let s := coming
    QuietHalf s false ∧ (s.half false).lineAt 0x1100 = some (0, { held1 with filling := 4 }) ∧
    ((after (.sectorArrival 16 0x1100 []) s).west.lines.map (fun p => (p.2.valid, p.2.filling, tget 0 p.2.data 2))) = [(7, 0, 5)] ∧
    ((after (.sectorArrival 16 0x1100 []) s).channel 16).fetches = []) := by unfold QuietHalf IdleHalf; decide +kernel
def twoErrs : List SymErr := [{ cw := 0, pos := 0, val := 1 }, { cw := 0, pos := 1, val := 2 }]
theorem test_sector_arrival_uncorrectable : errsUncorrectable twoErrs = true ∧ 0x1100 < coming.reservedBase ∧
    ((after (.sectorArrival 16 0x1100 twoErrs) coming).west.lines.map (fun p => (p.2.valid, p.2.filling))) = [(3, 0)] ∧
    (after (.sectorArrival 16 0x1100 twoErrs) coming).events.next = 2 ∧
    bit ((after (.sectorArrival 16 0x1100 twoErrs) coming).channel 16).status 0 = true := by decide +kernel
theorem test_write_around_drain : (let s := { up with west := { around := [(0x1100, 5), (0x1180, 6)] } }
    QuietHalf s false ∧ (s.placeOf 0x1100).1 = 16 ∧ (after (.writeAroundDrain false) s).west.around = [(0x1180, 6)] ∧
    ((after (.writeAroundDrain false) s).channel 16).writes = [(0x1100, 5)]) := by unfold QuietHalf IdleHalf; decide +kernel
theorem test_store_tracker_expiry : (let a : SeqTracker := { src := 3, next := 0x1000, run := 8 }
    let b : SeqTracker := { src := 4, next := 0x2000, run := 8 }
    (after (.storeTrackerExpiry false 3) { up with west := { seqs := [a, a, b] } }).west.seqs = [a, b]) := by decide +kernel
theorem test_reduction_stall : (let m := asked 1 0 (redCtl 6 1 2 3) (vc := 3)
    let x : RedTracker := { pa := 0x1080, ctx := 1, redId := 0, count := 3, next := 1 }
    let s := { home with west := { home.west with reds := [x], staged := [m] } }
    QuietHalf s false ∧ x.pa.toNat = sectorBase 0x1080 ∧ wire (.reductionStall false 0x1080) s = [.mem (replyTo m 1 4 5)] ∧
    fld ((after (.reductionStall false 0x1080) s).ctx 1).status 35 32 = 5 ∧ (after (.reductionStall false 0x1080) s).west.reds = []) := by
  unfold QuietHalf IdleHalf; decide +kernel

theorem test_quire_partition : (let e := ent 0x49 1 (put 8 4 423 + put 4 3 415)
    let f := ent 0x49 1 (put 9 4 423)
    AdminReady (adm e) false e 0x49 ∧ QuietHalf (adm e) false ∧ accepted (.quirePartition (.admin false)) (adm e) e = true ∧
    (after (.quirePartition (.admin false)) (adm e)).west.scratchWays = 8 ∧ (after (.quirePartition (.admin false)) (adm e)).west.lockMax = 4 ∧
    AdminReady (adm f) false f 0x49 ∧ rejected (.quirePartition (.admin false)) (adm f) f 1 = true) := by
  unfold AdminReady Ready QuietHalf IdleHalf; decide +kernel
-- from 2 ways to 1: what lies above 32 MiB of the half's scratchpad goes
theorem test_quire_partition_by_core : (let s := { up with west := { part := 0x200, scratch := [(5, 1), (2 ^ 18, 2)] } }
    (s.core 0).mode = 3 ∧ QuietHalf s false ∧ (after (.quirePartition (.core 0 false 0x101)) s).west.scratch = [(5, 1)] ∧
    (after (.quirePartition (.core 0 false 0x101)) s).west.scratchWays = 1) := by unfold QuietHalf IdleHalf; decide +kernel
theorem test_scratch_ways_change_done :
    (after (.scratchWaysChangeDone false) { home with west := { home.west with part := 0x10200 } }).west.part = 0x200 := by decide +kernel

/-- A maintenance command for one line from 0x1000 (R216). -/
def maint (op hint : Nat) : MemMsg :=
  { vc := 0, op := 6, src := 0x100, tag := 3, ctl := BitVec.ofNat 128 (put op 4 124 + put hint 2 122 + put 1 32 64 + 0x1000) }
def wholeLine : QLine := { held1 with valid := 0xFFFF }
def halves (a b : Nat) : List Msg :=
  [a, b].map (fun n => .mem { vc := 1, op := 6, src := 0x100, tag := 3, ctl := BitVec.ofNat 128 (n * 2 ^ 32) })
theorem test_quire_maintenance : (let l := wholeLine
    let ok := fun (op : Nat) (l : QLine) => let m := maint op 1
      (sent m (home l)).maintOk m.ctl && ((home l).half false).lineAt 0x1000 == some (0, l) && (home l).roomBelow l && (home l).west.lineHeld 2 == []
    [1, 2, 3, 4, 5].all (fun op => ok op l) = true ∧ (QLine.absent l 0) = [] ∧ (home l).west.lockMax = 0 ∧
    (after (.quirePreload (.message (maint 1 1))) (sent (maint 1 1) (home l))).west.lines = [(16, { l with age := hitAge 1 1 })] ∧
    wire (.quirePreload (.message (maint 1 1))) (sent (maint 1 1) (home l)) = halves 1 0 ∧
    (after (.quireUnlock (.message (maint 3 0))) (sent (maint 3 0) (home { l with lock := true }))).west.lines = [(16, { l with age := 2 })] ∧
    (after (.quireWriteBack (.message (maint 4 0))) (sent (maint 4 0) (home l))).west.lines = [(16, { l with dirty := 0 })] ∧
    ((after (.quireWriteBack (.message (maint 4 0))) (sent (maint 4 0) (home l))).channel 16).writes = [(0x1000, 9)] ∧
    (after (.quireWriteBackInvalidate (.message (maint 5 0))) (sent (maint 5 0) (home l))).west.lines = []) := by decide +kernel
theorem test_quire_preload_and_lock : (let s := { home wholeLine with west := { (home wholeLine).west with part := 4 } }
    (s.half false).lockMax = 4 ∧ (after (.quirePreloadAndLock (.message (maint 2 0))) (sent (maint 2 0) s)).west.lines =
      [(16, { wholeLine with age := hitAge 1 1, lock := true })]) := by decide +kernel

/-- The generator, with its leading one, vanishes at the four roots of the check equations, and the check symbols of a single data symbol 1 at
position 8 are its coefficients (R247). -/
theorem test_check_generator :
    [1, 2, 3, 4].map (fun i => syndrome ((checkGenerator ++ [1]).zipIdx.map (fun (p : Nat × Nat) => (p.2, p.1))) i) = [0, 0, 0, 0] ∧
    (checkSymbols [1]).map symElement = checkGenerator := by decide +kernel
theorem test_one_symbol : checkErrors [{ cw := 3, pos := 71, val := 15 }] = .corrected 71 15 := by decide +kernel

/-- Channel 16 in service. -/
def chan (k : Channel) : State := { up with channels := [(16, { k with status := 0x20 })] }
def fetch0 : Fetch := { sectors := [0x1000, 0x1080], src := 0, ctx := 1, issued := false }
theorem test_channel_fetch : (let s := chan { fetches := [fetch0] }
    chState (s.channel 16) = 2 ∧ s.tooHot 1 = false ∧ s.nextFetch 16 = some fetch0 ∧ s.mayIssue 16 fetch0 = true ∧
    ((after (.channelFetch 16) s).channel 16).fetches = [{ fetch0 with issued := true }]) := by decide +kernel
theorem test_channel_write : (let s := chan { writes := [(0x1000, 0x201)] }
    QuietHalf s false ∧ ((after (.channelWrite 16) s).channel 16).writes = [] ∧ (after (.channelWrite 16) s).mem = [(0x1000, 1), (0x1001, 2)]) := by
  unfold QuietHalf IdleHalf; decide +kernel
theorem test_refresh : (let s := chan { fetches := [fetch0], owed := [(0, 7)] }
    s.timedOn = false ∧ s.dieBank 0x1000 = 0 ∧ after (.refresh 16 0 .issue) s = s ∧
    tget 0 ((after (.refresh 16 0 .postpone) s).channel 16).owed 0 = 8 ∧ tget 0 ((after (.refresh 16 0 .pullIn) s).channel 16).owed 0 = 6 ∧
    tget 0 ((after (.refresh 16 1 .pullIn) s).channel 16).owed 1 = -1) := by decide +kernel
theorem test_patrol_scrub : (chan {}).scrubTurn 16 = true ∧ ((chan {}).channel 16).dieErrs = [] ∧ ((after (.patrolScrub 16 []) (chan {})).channel 16).scrub = 1 := by decide +kernel
theorem test_symbol_threshold : (let s := chan { corr := [(5, List.replicate 1024 8)] }
    1024 ≤ (tget [] (s.channel 16).corr 5).length ∧ ((after (.symbolThreshold 16 5) s).channel 16).flagged = [5] ∧
    (after (.symbolThreshold 16 5) s).events.next = 2) := by decide +kernel
/-- Channel 16 trains as cold start asks; outside it; and with a failure known from before (R253-R258). -/
theorem test_channel_training : (let s := { up with modState := 0, coldStep := 8, starting := true, channels := [(16, { status := 0x10 })] }
    let t := { up with channels := [(16, { status := 0x10 })] }
    let u := { s with channels := [(16, { status := 0x10, failed := true })] }
    let v := { s with channels := [(16, { status := 0x10 }), (144, { status := 0x40 })] }
    let done := fun (s : State) (bad : Bool) (marks : List (BitVec 7)) => after (.channelTrainingDone 16 { phaseFail := bad, marked := marks }) s
    chState (s.channel 16) = 1 ∧ chState (s.channel 144) ≠ 4 ∧ chState ((done s false []).channel 16) = 2 ∧
    fld ((done s false [7]).channel 16).status 27 12 = 0x87 ∧ chState ((done s true []).channel 16) = 4 ∧
    chState ((done { s with channels := [(16, { status := 0x10 }), (144, { status := 0x20 })] } true []).channel 144) = 5 ∧
    chState ((done t true []).channel 16) = 6 ∧ chState ((done u false []).channel 16) = 4 ∧ chState ((done v false []).channel 16) = 5) := by
  decide +kernel
theorem test_channel_fails : (let s := chan {}
    s.starting = false ∧ s.coldStep ≠ 0 ∧ chState (s.channel 16) < 4 ∧ chState ((after (.channelFailedOutsideColdStart 16) s).channel 16) = 6 ∧
    (after (.channelFailedOutsideColdStart 16) s).refuseWork = true) := by decide +kernel

/-! ### Zawick cores and their directory (R268-R288) -/

/-- A coherence message of core 3 for sector 1 of the held line, that is on its way. -/
def coh (op : Nat) (attr : Nat := 0) (data : Sector := 0) (dst : BitVec 6 := 0) : CohMsg :=
  { op := BitVec.ofNat 8 op, src := 0x103, tag := 7, core := 3, attr := BitVec.ofNat 8 attr, pa := 0x1080, data := data, dst := dst }
def cohSent (m : CohMsg) (s : State) : State := { s with sh := { inflight := [.coh m] } }
def dirOf (d : DirEnt) : State := { home with west := { home.west with dir := [(0x21, d)] } }
/-- The opcodes of the messages on their way after a command, their tags and attributes. -/
def cohs (i : Instr) (s : State) : List (Nat × Nat × Nat) := (wire i s).map (fun m => match m with
  | .coh m => (m.op.toNat, m.dst.toNat, m.attr.toNat)
  | .mem m => (0x100 + m.op.toNat, 0, 0)
  | .etmos _ _ => (0, 0, 0))
def dirAfter (i : Instr) (s : State) : DirEnt := tget {} (after i s).west.dir 0x21

-- E to a reader alone, S where it asks for no E, M to a writer
theorem test_coherent_requests :
    ([(Instr.rdShared (coh 1), coh 1, 6), (.rdShared (coh 1 1), coh 1 1, 5), (.rdUnique (coh 2), coh 2, 7), (.upgrade (coh 3), coh 3, 7)].all
      (fun (i, m, a) => let s := cohSent m home
        s.admits m && (s.half false).dirOf 0x1080 == {} && (s.half false).lineAt 0x1080 == some (0, held1) && (s.half false).trans == [] &&
        cohs i s == [(0x101, 0, 0), (0x18, 3, a)])) = true := by decide +kernel
theorem test_upgrade : (let s := cohSent (coh 3) (dirOf { dstate := 1, sharers := 8 })
    s.admits (coh 3) = true ∧ ((s.half false).dirOf 0x1080).sharers = 1#64 <<< 3 ∧ cohs (.upgrade (coh 3)) s = [(0x18, 3, 3)]) := by decide +kernel
-- core 5 owns the sector: it is snooped
theorem test_owned_elsewhere :
    ([(Instr.rdShared (coh 1), coh 1, 0x10), (.rdUnique (coh 2), coh 2, 0x11)].all (fun (i, m, a) =>
      let s := cohSent m (dirOf { dstate := 2, owner := 5 })
      s.admits m && cohs i s == [(a, 5, 0)] && (after i s).west.trans.map (fun t => t.waitFor) == [[5]])) = true := by decide +kernel
/-- A transaction of core 5 on the sector is open. -/
def openTrans (what : TransFor) (cs : List (BitVec 6)) (granted : Option (BitVec 2)) (own : Bool) (d : DirEnt := {}) : State :=
  let x : Transaction := { pa := 0x1080, what := what, waitFor := cs, snooped := cs, ownerSends := own, granted := granted }
  { home with west := { home.west with dir := if d = {} then [] else [(0x21, d)], trans := [x] } }
-- another core's starved request has the sector's record
theorem test_coherent_retry : (let r : Starved := { src := 0x105, tag := 1, pa := 0x1080, age := 15 }
    let s := cohSent (coh 1) { home with west := { home.west with starved := [(1, some r)] } }
    s.admits (coh 1) = false ∧ (s.half false).trans = [] ∧ cohs (.rdShared (coh 1)) s = [(0x105, 0, 0)]) := by decide +kernel

theorem test_comp_ack : (let m := coh 6
    let s := fun (st : BitVec 2) (d : DirEnt) => cohSent m (openTrans (.core (coh 1)) [] (some st) false d)
    IdleHalf (s 1 {}) false ∧ (s 1 {}).west.trans.map (fun t => t.granted) = [some 1] ∧
    dirAfter (.compAck m) (s 1 {}) = { dstate := 1, sharers := 8 } ∧
    dirAfter (.compAck m) (s 1 { dstate := 1, sharers := 1 }) = { dstate := 1, sharers := 9 } ∧
    dirAfter (.compAck m) (s 1 { dstate := 2, owner := 5 }) = { dstate := 1, sharers := 40 } ∧
    dirAfter (.compAck m) (s 3 { dstate := 2, owner := 5 }) = { dstate := 2, owner := 3 } ∧ (after (.compAck m) (s 1 {})).west.trans = []) := by
  unfold IdleHalf; decide +kernel
theorem test_evict_clean : (let s := cohSent (coh 5) (dirOf { dstate := 1, sharers := 9 })
    IdleHalf s false ∧ dirAfter (.evictClean (coh 5)) s = { dstate := 1, sharers := 1 }) := by unfold IdleHalf; decide +kernel
-- a write-back by the owner, one with Keep, one by a core that the directory does not name
theorem test_wb_full : (let s := fun (a : Nat) (d : DirEnt) => cohSent (coh 4 a (data := 6)) (if d = {} then home else dirOf d)
    IdleHalf (s 0 { dstate := 2, owner := 3 }) false ∧
    (after (.wbFull (coh 4 0 (data := 6))) (s 0 { dstate := 2, owner := 3 })).homeData 0x1080 = 6 ∧
    dirAfter (.wbFull (coh 4 0 (data := 6))) (s 0 { dstate := 2, owner := 3 }) = {} ∧
    cohs (.wbFull (coh 4 0 (data := 6))) (s 0 { dstate := 2, owner := 3 }) = [(0x19, 3, 0)] ∧
    dirAfter (.wbFull (coh 4 2 (data := 6))) (s 2 { dstate := 2, owner := 3 }) = { dstate := 2, owner := 3 } ∧
    (after (.wbFull (coh 4 2 (data := 6))) (s 2 {})).homeData 0x1080 = 0x3F80000000000005 ∧
    cohs (.wbFull (coh 4 2 (data := 6))) (s 2 {}) = [(0x19, 3, 0)]) := by unfold IdleHalf; decide +kernel
theorem test_snp_ack : (let s := cohSent (coh 0x20) (openTrans .recall [3] none false { dstate := 1, sharers := 8 })
    let u := cohSent (coh 0x20 2) (openTrans (.core { coh 2 with core := 5, src := 0x105 }) [3] none true { dstate := 2, owner := 3 })
    IdleHalf s false ∧ (s.west.trans.map (fun t => (t.waitFor, t.wbSlot))) = [([BitVec.ofNat 6 (coh 0x20).src.toNat], [])] ∧
    (after (.snpAck (coh 0x20)) s).west.trans = [] ∧ dirAfter (.snpAck (coh 0x20)) s = {} ∧
    cohs (.snpAck (coh 0x20 2)) u = [(0x18, 5, 7)]) := by unfold IdleHalf; decide +kernel
theorem test_snp_data : (let s := cohSent (coh 0x21 0 (data := 6)) (openTrans .recall [3] none false { dstate := 2, owner := 3 })
    (after (.snpData (coh 0x21 0 (data := 6))) s).homeData 0x1080 = 6 ∧ dirAfter (.snpData (coh 0x21 0 (data := 6))) s = {}) := by decide +kernel

/-- Core 4 is snooped for sector 1 of the line, for core 3. -/
def snooped (op : Nat) (st : L2State) : State :=
  cohSent (coh op (dst := 4)) { up with cores := [(4, { l2 := [(0x20, { st := .shared }), (0x21, { st := st, data := 6 })], res := some 0x1088 })] }
def stAfter (i : Instr) (s : State) : L2State × Bool := (((after i s).core 4).sector 0x1080 |>.st, ((after i s).core 4).res.isSome)
theorem test_snoops :
    ([(Instr.snpFwdS (coh 0x10 (dst := 4)), 0x10, L2State.modified, [(0x101, 0, 0), (0x21, 0, 0)], L2State.shared, true),
      (.snpFwdS (coh 0x10 (dst := 4)), 0x10, .exclusive, [(0x101, 0, 0), (0x20, 0, 2)], .shared, true),
      (.snpFwdU (coh 0x11 (dst := 4)), 0x11, .modified, [(0x101, 0, 0), (0x20, 0, 2)], .invalid, false),
      (.snpInv (coh 0x12 (dst := 4)), 0x12, .shared, [(0x20, 0, 2)], .invalid, false),
      (.snpDown (coh 0x13 (dst := 4)), 0x13, .modified, [(0x21, 0, 0)], .shared, true),
      (.snpRecall (coh 0x14 (dst := 4)), 0x14, .modified, [(0x21, 0, 0)], .invalid, false),
      (.snpRecall (coh 0x14 (dst := 4)), 0x14, .exclusive, [(0x20, 0, 2)], .invalid, false),
      (.snpDrop (coh 0x15 (dst := 4)), 0x15, .modified, [(0x20, 0, 2)], .invalid, false),
      (.snpFwdU (coh 0x11 (dst := 4)), 0x11, .exclusive, [(0x101, 0, 0), (0x20, 0, 2)], .invalid, false),
      (.snpInv (coh 0x12 (dst := 4)), 0x12, .modified, [(0x20, 0, 2)], .invalid, false),
      (.snpDown (coh 0x13 (dst := 4)), 0x13, .exclusive, [(0x20, 0, 2)], .shared, true),
      (.snpDown (coh 0x13 (dst := 4)), 0x13, .shared, [(0x20, 0, 2)], .shared, true),
      (.snpRecall (coh 0x14 (dst := 4)), 0x14, .shared, [(0x20, 0, 2)], .invalid, false),
      (.snpDrop (coh 0x15 (dst := 4)), 0x15, .exclusive, [(0x20, 0, 2)], .invalid, false),
      (.snpDrop (coh 0x15 (dst := 4)), 0x15, .shared, [(0x20, 0, 2)], .invalid, false)].all
      (fun (i, op, st, ms, st2, res) => let s := snooped op st
        (s.core 4).wb == [] && ((s.core 4).sector 0x1080).st == st && cohs i s == ms && stAfter i s == (st2, res))) = true := by decide +kernel
theorem test_snoops_absent :
    (let s := fun (op : Nat) => ({ coh op (dst := 4) with pa := 0x1100 } : CohMsg)
     ((snooped 0x12 .shared).core 4).sector 0x1100 = {} ∧
     [(0x10, Instr.snpFwdS (s 0x10)), (0x11, .snpFwdU (s 0x11)), (0x12, .snpInv (s 0x12)), (0x13, .snpDown (s 0x13)), (0x14, .snpRecall (s 0x14)),
      (0x15, .snpDrop (s 0x15))].all (fun (op, i) => cohs i (cohSent (s op) (snooped op .shared)) == [(0x20, 0, 0)]) = true) := by decide +kernel

theorem test_grant : (let m := { coh 0x18 6 with dst := 3 }
    let s := cohSent m { up with cores := [(3, { reqs := [{ coreAsk with data := some 5 }] })] }
    (s.core 3).reqs.map (fun r => (r.tag, r.data.isSome)) = [(m.tag, true)] ∧ ((after (.grant m) s).core 3).reqs = [] ∧
    ((after (.grant m) s).core 3).sector 0x1080 = { st := .exclusive, data := 5 } ∧ cohs (.grant m) s = [(6, 0, 0)]) := by decide +kernel
theorem test_wb_ack : (let m := { coh 0x19 with dst := 3 }
    let s := cohSent m { up with cores := [(3, { wb := [{ tag := 7, pa := 0x1080, data := 5, keep := false }, { tag := 8, pa := 0x1100, data := 5, keep := false }] })] }
    ((after (.wbAck m) s).core 3).wb.map (fun w => w.tag) = [8]) := by decide +kernel
theorem test_coherent_retry_resend : (let s := { up with cores := [(3, { reqs := [{ coreAsk with again := true, age := 2 }] })] }
    (after (.coherentRetryResend 3 7) s).sh.inflight = [.coh { op := 1, src := 0x103, tag := 7, core := 3, age := 2, pa := 0x1080 }] ∧
    ((after (.coherentRetryResend 3 7) s).core 3).reqs.map (fun r => r.again) = [false]) := by decide +kernel
theorem test_starvation_record_expiry :
    (after (.starvationRecordExpiry false 5) { up with west := { starved := [(5, some { src := 0x105, tag := 1, pa := 0x1080, age := 15 }), (6, some { src := 0x105, tag := 2, pa := 0x1080, age := 3 })] } }).west.starved.map (fun p => p.1) = [6] := by
  decide +kernel

/-- Core 3 fetches a word at 0x1000 from its L2; the sector at 0x1080 is in a given state there. -/
def coreOf (w : BitVec 32) (st : L2State) : State :=
  let code : L2Sector := { st := .shared, data := BitVec.ofNat 1024 w.toNat }
  let data : Tbl L2Sector := if st = .invalid then [] else [(0x21, { st := st, data := sectorOfNums [(64, 7)] })]
  { up with power := {}, cores := [(3, { pc := 0x1000, x := [(5, 0x1088), (6, 3)], l2 := (0x20, code) :: data })] }
def coreX (i : Instr) (s : State) (r : Nat) : Word × Word := (((after i s).core 3).getX r, ((after i s).core 3).pc)

-- SUB x7, x5, x6
theorem test_core_alu : (let w := rForm 0x20 6 5 0 7 0x33
    CoreIssues (coreOf w .invalid) 3 w ∧ coreAlu w 0x1000 0x1088 3 = some 0x1085 ∧ coreX (.coreInstruction 3 .none) (coreOf w .invalid) 7 = (0x1085, 0x1004)) := by
  unfold CoreIssues; decide +kernel
-- JAL x1, +16; BLT x6, x5, +8
theorem test_core_jumps : (let w := BitVec.ofNat 32 (0x01000000 + 0x80 + 0x6F)
    let b := rForm 0 5 6 4 8 0x63
    CoreIssues (coreOf w .invalid) 3 w ∧ coreX (.coreInstruction 3 .none) (coreOf w .invalid) 1 = (0x1004, 0x1010) ∧
    CoreIssues (coreOf b .invalid) 3 b ∧ branchTaken 4 3 0x1088 = true ∧ coreX (.coreInstruction 3 .none) (coreOf b .invalid) 1 = (0, 0x1008)) := by
  unfold CoreIssues; decide +kernel
-- LD x7, 0(x5), held and not held
theorem test_core_load : (let w := iForm 0 5 3 7 0x03
    let s := coreOf w .shared
    CoreIssues s 3 w ∧ (s.core 3).pmpOk 3 0x1088 8 .load = true ∧ coreX (.coreInstruction 3 .none) s 7 = (7, 0x1004) ∧
    cohs (.coreInstruction 3 .none) (coreOf w .invalid) = [(1, 0, 0)] ∧ coreX (.coreInstruction 3 .none) (coreOf w .invalid) 7 = (0, 0x1000)) := by
  unfold CoreIssues; decide +kernel
theorem test_core_store : (let w := sForm 0 6 5 3 0x23
    let s := coreOf w .exclusive
    CoreIssues s 3 w ∧ (s.core 3).pmpOk 3 0x1088 8 .store = true ∧
    ((after (.coreInstruction 3 .none) s).core 3).sector 0x1080 = { st := .modified, data := sectorOfNums [(64, 3)] }) := by
  unfold CoreIssues; decide +kernel
theorem test_core_ecall : (let s := coreOf 0x73 .invalid
    CoreIssues s 3 0x73 ∧ ((after (.coreInstruction 3 .none) s).core 3).getCsr Csr.mcause = 11 ∧
    ((after (.coreInstruction 3 .none) s).core 3).getCsr Csr.mepc = 0x1000) := by unfold CoreIssues; decide +kernel

def cbo (f : Nat) : BitVec 32 := iForm f 5 2 0 0x0F
theorem test_cbo_clean : (let s := coreOf (cbo 1) .modified
    CoreIssues s 3 (cbo 1) ∧ cboOf (cbo 1) = some 1 ∧ (s.core 3).pmpOk 3 0x1088 1 .load = true ∧ (s.core 3).pmpOk 3 0x1088 1 .store = true ∧
    cohs (.cboClean 3) s = [(4, 0, 2)] ∧ (((after (.cboClean 3) s).core 3).sector 0x1080).st = .exclusive ∧
    cohs (.cboClean 3) (coreOf (cbo 1) .exclusive) = []) := by unfold CoreIssues; decide +kernel
theorem test_cbo_flush : (let s := coreOf (cbo 2) .modified
    CoreIssues s 3 (cbo 2) ∧ cboOf (cbo 2) = some 2 ∧ cohs (.cboFlush 3) s = [(4, 0, 0)] ∧ ((after (.cboFlush 3) s).core 3).sector 0x1080 = {} ∧
    cohs (.cboFlush 3) (coreOf (cbo 2) .shared) = [(5, 0, 0)]) := by unfold CoreIssues; decide +kernel
theorem test_cbo_inval : (let s := coreOf (cbo 0) .modified
    CoreIssues s 3 (cbo 0) ∧ cboOf (cbo 0) = some 0 ∧ cohs (.cboInval 3) s = [(4, 0, 0)] ∧ ((after (.cboInval 3) s).core 3).wb.length = 1 ∧
    cohs (.cboInval 3) (coreOf (cbo 0) .exclusive) = [(5, 0, 0)]) := by unfold CoreIssues; decide +kernel
theorem test_cbo_zero : (let s := coreOf (cbo 4) .exclusive
    CoreIssues s 3 (cbo 4) ∧ cboOf (cbo 4) = some 4 ∧ ((after (.cboZero 3) s).core 3).sector 0x1080 = { st := .modified, data := 0 } ∧
    coreX (.cboZero 3) s 6 = (3, 0x1004)) := by unfold CoreIssues; decide +kernel

-- a block for which a request is outstanding stays where it is (R278)
theorem test_cbo_pinned : (let s := fun (f : Nat) => (coreOf (cbo f) .shared).modCore 3 (fun k => { k with reqs := [{ coreAsk with op := 3, pa := 0x1080 }] })
    cohs (.cboFlush 3) (s 2) = [] ∧ (coreX (.cboFlush 3) (s 2) 6).2 = 0x1000 ∧ (((after (.cboFlush 3) (s 2)).core 3).sector 0x1080).st = .shared ∧
    cohs (.cboInval 3) (s 0) = [] ∧ (coreX (.cboInval 3) (s 0) 6).2 = 0x1000) := by decide +kernel
-- a shared block is asked for by RdUnique; a block whose write-back waits for its WbAck is not stored to
theorem test_cbo_zero_shared : (let s := coreOf (cbo 4) .shared
    CoreIssues s 3 (cbo 4) ∧ s.roomFor 0x103 1 = true ∧ cohs (.cboZero 3) s = [(2, 0, 0)] ∧ coreX (.cboZero 3) s 6 = (3, 0x1000)) := by
  unfold CoreIssues; decide +kernel
theorem test_store_waits_for_wb_ack :
    (let s := coreOf (sForm 0 6 5 3 0x23) .exclusive
     let t := s.modCore 3 (fun k => { k with wb := [{ tag := 0, pa := 0x1080, data := 5, keep := true }] })
     (coreX (.coreInstruction 3 .none) s 6).2 = 0x1004 ∧ (coreX (.coreInstruction 3 .none) t 6).2 = 0x1000 ∧
     (((after (.coreInstruction 3 .none) t).core 3).sector 0x1080).st = .exclusive) := by decide +kernel
-- a clean copy that fails its check is given up and asked for again, a dirty one is Lost; a failed request for code is an instruction
-- access fault (R287)
theorem test_core_bad_data :
    (let clean := coreOf 0x13 .invalid
     let lost := coreOf (iForm 0 5 3 7 0x03) .modified
     let failed := clean.modCore 3 (fun k => { k with failed := [0x1000] })
     ((after (.coreInstruction 3 .fetch) clean).core 3).sector 0x1000 = {} ∧ (coreX (.coreInstruction 3 .fetch) clean 6).2 = 0x1000 ∧
     ((after (.coreInstruction 3 .data) lost).core 3).getCsr Csr.mcause = 5 ∧ cohs (.coreInstruction 3 .data) lost = [(4, 0, 1)] ∧
     ((after (.coreInstruction 3 .none) failed).core 3).getCsr Csr.mcause = 1) := by decide +kernel
-- a word in the L1 instruction cache is fetched there, whatever the L2 holds (R269)
theorem test_core_l1i : (let w := rForm 0x20 6 5 0 7 0x33
    let s := (coreOf 0 .invalid).modCore 3 (fun k => { k with l1i := [(0x20, BitVec.ofNat 1024 w.toNat)] })
    CoreIssues s 3 w ∧ coreX (.coreInstruction 3 .none) s 7 = (0x1085, 0x1004)) := by unfold CoreIssues; decide +kernel

/-- Core 3 with vectors on: SEW 32, LMUL 1, vl 3; v1 holds 7, 2^32 - 1 and 1, v2 holds 8, 1 and 3, v3 holds 5 in every element. -/
def vecOf (w : BitVec 32) (v1 v2 : Nat) : State :=
  (coreOf w .invalid).modCore 3 (fun k =>
    { k with csr := tput 0 (tput 0 (tput 0 k.csr Csr.mstatus 0x2200) Csr.vtype 0x10) Csr.vl 3,
             v := [(1, BitVec.ofNat 256 v1), (2, BitVec.ofNat 256 v2), (3, BitVec.ofNat 256 (5 + 5 * 2 ^ 32 + 5 * 2 ^ 64 + 5 * 2 ^ 96))] })
def ints1 : Nat := 7 + (2 ^ 32 - 1) * 2 ^ 32 + 2 ^ 64
def ints2 : Nat := 8 + 2 ^ 32 + 3 * 2 ^ 64
def vreg (w : BitVec 32) (v1 v2 r : Nat) : List Nat :=
  (List.range 4).map (fun j => ((after (.coreInstruction 3 .none) (vecOf w v1 v2)).core 3).velem r 4 j)
-- VADD.VV v3, v1, v2; VREDSUM.VS v3, v1, v2; the tail is left as it was
theorem test_vector_integer : vreg (rForm 1 1 2 0 3 0x57) ints1 ints2 3 = [15, 0, 4, 5] ∧ vreg (rForm 1 1 2 2 3 0x57) ints1 ints2 3 = [15, 5, 5, 5] := by
  decide +kernel
-- VFADD.VV: 1.0 + 2^-24 and 1.0 + 3 * 2^-24 are ties, and go to the even neighbour (R45)
theorem test_vector_float :
    vreg (rForm 1 1 2 1 3 0x57) (0x3F800000 + 0x3F800001 * 2 ^ 32) (0x33800000 + 0x33800000 * 2 ^ 32) 3 = [0x3F800000, 0x3F800002, 0, 5] := by
  decide +kernel
-- VSETVLI x7, x6, e32, m1
theorem test_vsetvli : (let t := after (.coreInstruction 3 .none) (vecOf (iForm 0x10 6 7 7 0x57) 0 0)
    (t.core 3).getX 7 = 3 ∧ (t.core 3).getCsr Csr.vl = 3 ∧ fld ((t.core 3).getCsr Csr.mstatus) 10 9 = 3) := by decide +kernel

/-! ### The host link and the windows (R305-R311, R345-R371) -/

theorem test_host_attach : (let e := ent 0x50 1 (put 0x100000 64 416 + put 10 5 411 + put 0x2000 64 347 + put 4 4 343 + put 1 64 279 + put 7 8 271)
    let s := { withQ (adq e ++ [(3, qu 1 1 1 0 0)]) with host := { attachGen := 4, apertures := [(5, { valid := true, base := 0x1000 })] }, events := { next := 2, log := [(1, 77)] } }
    AdminReady s false e 0x50 ∧
    (let t := after (.hostAttach false) s
     t.host.attach = 2 ∧ t.host.attachGen = 5 ∧ t.host.evRing = 0x100000 ∧ t.host.modUs = 7 ∧ (tget {} t.host.apertures 5).valid = false ∧
     (t.queue 0).cpl = 0x2000 ∧ (t.queue 0).suspended = false ∧ (t.queue 3).suspended = true ∧
     t.host.stream.head? = some { addr := 0x100040, bytes := leBytes 64 77 } ∧
     t.host.stream.any (fun w => w.addr == 0x2000 && leNat w.bytes == cplRecord 1 0 0 1 0 0 0) = true)) := by unfold AdminReady Ready; decide +kernel
theorem test_host_detach : (let e := ent 0x51 1 0
    let s := { adm e with host := { attach := 2, apertures := [(5, { valid := true })] } }
    AdminReady s false e 0x51 ∧ accepted (.hostDetach false 0) s e = true ∧ (after (.hostDetach false 0) s).host.attach = 0 ∧
    (tget {} (after (.hostDetach false 0) s).host.apertures 5).valid = false ∧ ((after (.hostDetach false 0) s).queue 0).suspended = true) := by
  unfold AdminReady Ready; decide +kernel
theorem test_host_aperture_set : (let e := ent 0x52 1 (put 5 12 468 + put 1 1 467 + put 0x3000 64 403 + put 16 28 375)
    AdminReady (adm e) false e 0x52 ∧ accepted (.hostApertureSet false) (adm e) e = true ∧
    tget {} (after (.hostApertureSet false) (adm e)).host.apertures 5 = { valid := true, base := 0x3000, length := 16 }) := by
  unfold AdminReady Ready; decide +kernel
theorem test_completion_ring_set : (let e := ent 0x53 1 (put 3 14 466 + put 0x4000 64 402 + put 1 1 401 + put 5 4 397)
    let s := withQ (adq e ++ [(3, { qu 1 1 1 0 0 with suspended := true })])
    AdminReady s false e 0x53 ∧ (s.queue 3).st ≠ 0 ∧ accepted (.completionRingSet false) s e = true ∧
    (let k := (after (.completionRingSet false) s).queue 3
     k.cpl = 0x4000 ∧ k.cplHost = true ∧ k.cplLog2 = 5 ∧ k.suspended = false)) := by unfold AdminReady Ready; decide +kernel
theorem test_event_resend : (let e := ent 0x54 1 (put 1 64 416)
    let s := { adm e with host := { attach := 2, evRing := 0x100000, evLog2 := 10 }, events := { next := 3, log := [(1, 77), (2, 78)] } }
    AdminReady s false e 0x54 ∧ accepted (.eventResend false) s e = true ∧
    (after (.eventResend false) s).host.stream.take 2 = [{ addr := 0x100040, bytes := leBytes 64 77 }, { addr := 0x100080, bytes := leBytes 64 78 }]) := by
  unfold AdminReady Ready; decide +kernel

theorem test_host_read : (let s := { up with host := { attach := 2, attachGen := 3, moduleId := 0x1122 } }
    s.hostWaits = false ∧ 12 ≤ s.coldStep.toNat ∧ s.modState ≠ 3 ∧ (after (.hostRead 0 4096 3) s).host.readData = [255, 255, 255, 255] ∧
    (after (.hostRead 2 0 3) s).host.hostReads = 1 ∧ (after (.hostRead 4 0 7) s).host.readData = [0x22, 0x11, 0, 0, 0, 0, 0, 0] ∧
    (after (.hostRead 4 8 7) s).host.readData = leBytes 8 (0x10000 + 0x300 + 2) ∧ (after (.hostRead 4 24 7) s).host.readData = [1, 0, 0, 0, 0, 0, 0, 0] ∧
    (after (.hostRead 4 0x1060 15) s).host.readData = List.replicate 12 0 ++ [1, 0, 0, 0] ∧
    (after (.hostRead 4 0x2000 7) s).host.readData = List.replicate 8 0 ∧ (after (.hostRead 4 0x1FFF 0) s).host.readData = [0]) := by
  decide +kernel
/-- The configuration space (R347, R453, R478, log 99): vendor and device, then the class; Retry Status before step 12 has ended; a written command
register keeps its writable bits. -/
theorem test_config_space : (let s := { up with sec := { steppings := 0x11000000 } }
    let early := { up with coldStep := 5 }
    s.host.cfg = [] ∧ (after (.hostRead 7 0 3) s).host.readData = [0xB4, 0x1D, 0x16, 0x04] ∧
    (after (.hostRead 7 8 3) s).host.readData = [0x11, 0, 0, 0x12] ∧
    (after (.hostRead 7 0 3) early).host.readRetry = true ∧ (after (.hostRead 7 0 3) early).host.readData = [] ∧
    (let t := after (.hostIngressWrite (.config 4) [0xFF, 0xFF, 0xFF, 0xFF]) s
     t.host.cfgWord 1 &&& ~~~cfgMask 1 = s.host.cfgWord 1 &&& ~~~cfgMask 1 ∧ t.host.cfgWord 1 ≠ s.host.cfgWord 1 ∧
     (after (.hostRead 7 0 3) t).host.readData = [0xB4, 0x1D, 0x16, 0x04])) := by decide +kernel
/-- The host masks a vector and sets its address and data through BAR4 (R347). -/
theorem test_msix_table_write : (let t := after (.hostIngressWrite (.bar4 0x1060) [4, 2, 3, 4, 0, 0, 0, 0, 9, 0, 0, 0, 1, 0, 0, 0]) { up with host := { attach := 2, msix := [(6, { masked := false })] } }
    tget {} t.host.msix 6 = { addr := 0x04030204, data := 9, masked := true }) := by decide +kernel
/-- A read in Dormant waits until the wake is complete (R403). -/
theorem test_host_read_waits : (let s := { up with power := { status := 0x3200000000000000 }, host := { attach := 2, moduleId := 7, l1 := true } }
    s.hostWaits = true ∧ (after (.hostRead 4 0 7) s).host.held = [.read 4 0 7] ∧ (after (.hostRead 4 0 7) s).host.readData = [] ∧
    (after (.hostRead 4 0 7) s).host.called = true ∧ (after (.hostRead 4 0 7) s).powerState = 5 ∧
    (after (.hostRead 4 0 7) s).takeHeld.host.readData = [7, 0, 0, 0, 0, 0, 0, 0] ∧ (after (.hostRead 4 0 7) s).takeHeld.host.held = []) := by decide +kernel
/-- Only what has not entered the link is dropped by a reset (R353, R359). -/
theorem test_reset_keeps_entered : (let w : HostWrite := { addr := 0, bytes := [] }
    let s := { up with host := { attach := 2, stream := [w, w, w], entered := 2 } }
    (after (.perst 2) s).host.stream.length = 2 ∧ (after (.perst 2) s).host.dropped = 1) := by decide +kernel
theorem test_msix : (let e : MsixEnt := { addr := 0xFEE00000, data := 0x41 }
    let w : HostWrite := { addr := 0xFEE00000, bytes := [0x41, 0, 0, 0], msi := some 6 }
    let s := { up with host := { attach := 2, modUs := 1, msix := [(6, e)], pending := 0x40 } }
    let u := { up with host := { attach := 2, modUs := 1, msix := [(6, { e with masked := false })], holdOff := 0x40, holdDue := 0x40 } }
    bit s.host.pending 6 = true ∧ bit s.host.holdOff 6 = false ∧ (after (.msixUnmask 6) s).host.stream = [w] ∧ (after (.msixUnmask 6) s).host.pending = 0 ∧
    bit u.host.holdOff 6 = true ∧ (after (.msixHoldoffExpiry 6) u).host.stream = [w] ∧ (after (.msixHoldoffExpiry 6) u).host.holdOff = 0x40 ∧
    (after (.msixHoldoffExpiry 6) (after (.msixHoldoffExpiry 6) u)).host.holdOff = 0) := by decide +kernel
theorem test_function_resets : (let w : HostWrite := { addr := 0, bytes := [] }
    let s := { up with host := { attach := 2, msix := [(6, { masked := false })], pending := 3, stream := [w, w, w] }, queues := [(3, qu 1 1 1 0 0)] }
    Tbl.wf {} s.queues = true ∧
    [Instr.pcieLinkDown 2, .perst 2, .hotReset 2, .flr 2].all (fun i => let t := after i s
      t.host.attach == 0 && t.host.msix == [] && t.host.pending == 0 && t.host.stream.length == 1 && t.host.dropped == 2 && (t.queue 3).suspended) = true) := by
  decide +kernel

/-- Window 7: one page of context 1 at 0x40001000, open to every sender and direction. -/
def win7 : BitVec 128 := BitVec.ofNat 128 (put 1 1 127 + put 3 2 125 + put 7 3 122 + put 1 12 110 + put 1 1 105 + put 0x40001000 48 33 + put 1 28 5)
def winS : State := { linked with windows := [(7, win7)], sh := { winTlb := [tlb1] }, fabric := { node := 0x0000050400000000 } }
/-- The requests outstanding after a command: opcode, channel, address, control unit and data. -/
def asks (i : Instr) (s : State) : List (Nat × Nat × Nat × Nat × Nat) :=
  (after i s).sh.reqs.map (fun r => (r.msg.vc.toNat, r.msg.op.toNat, r.msg.pa.toNat, r.msg.ctl.toNat, r.msg.data.toNat))

-- two bytes at 0x1101; 128 bytes at 0x1100; window 8 is not valid
theorem test_host_ingress_write : (let o : BitVec 40 := BitVec.ofNat 40 (7 * 2 ^ 28 + 0x101)
    winS.hostWaits = false ∧ Win.gen win7 = winS.genOf 1 ∧ Win.src win7 % 2 = 1 ∧ winS.sh.winTlb.find? (fun l => l.covers 1 (winS.genOf 1) 0x40001101) = some tlb1 ∧
    winS.fabric.held = [] ∧ winS.roomFor 0x300 1 = true ∧ tlb1.addr 0x40001101 = 0x1101 ∧
    asks (.hostIngressWrite (.aperture o) [0xAB, 0xCD]) winS = [(0, 3, 0x1100, 6, 0xCDAB00)] ∧
    asks (.hostIngressWrite (.aperture (o - 1)) (List.replicate 128 1)) winS = [(0, 2, 0x1100, 0, leNat (List.replicate 128 1))] ∧
    (after (.hostIngressWrite (.aperture (o + 0x10000000)) [1]) winS).faultLog = [faultRecord 3 1 false 0 0 0 0 0xFFFFFF 8 6 0 0 0 0]) := by decide +kernel

/-- A message from node 9 to this node 5 over port 0: it arrives at its destination with a route of one leg. -/
def emsg (vc op : Nat) (us : List (BitVec 128)) : EMsg :=
  { vc := BitVec.ofNat 2 vc, len := BitVec.ofNat 6 (us.length + 2), op := BitVec.ofNat 8 op, dst := 5, src := 9, legCnt := 1, route := 1, units := us }
/-- The message as delivered (R376). -/
def arrived (m : EMsg) : EMsg := { m with hops := 1, route := 0 }
def access (n off tag reason : Nat) : BitVec 128 := accessUnit 7 off n 1 0 tag reason

def winR : EMsg := emsg 0 2 [access 16 0x110 3 0]
def winW : EMsg := emsg 0 1 [access 16 0x110 3 0, 0xAB]
def winI : EMsg := emsg 0 3 (access 128 0x100 3 0 :: redCtl 8 1 0 0 :: List.replicate 8 5)
def winO : EMsg := emsg 0 4 (access 128 0x100 3 0 :: redCtl 6 1 0 2 :: List.replicate 8 5)
theorem test_window_accesses :
    [winR, winW, winI, winO].all (fun m => etmosValid m && winS.routeStep m == .deliver (arrived m)) = true ∧ winS.powerState ≠ 2 ∧
    winS.roomFor 0x301 1 = true ∧ asks (.winRead 0 winR) winS = [(0, 1, 0x1100, 0, 0)] ∧
    asks (.winWrite 0 winW) winS = [(0, 3, 0x1100, 0xFFFF0000, 0xAB00000000000000000000000000000000)] ∧
    winS.roomFor 0x302 1 = true := by decide +kernel
theorem test_window_reductions :
    asks (.winRedInt 0 winI) winS = [(3, 2, 0x1100, (redCtl 8 1 0 0).toNat, leNat (unitBytes (List.replicate 8 5)))] ∧
    asks (.winRedOrd 0 winO) winS = [(3, 1, 0x1100, (redCtl 6 1 0 2).toNat, leNat (unitBytes (List.replicate 8 5)))] := by decide +kernel

/-- Engine 4 has asked node 9 for 16 bytes from window 7 there. -/
def askedOut (dir : BitVec 2) : State :=
  { winS with fabric := { winS.fabric with winReqs := [{ tag := 3, engine := 4, node := 9, win := 7, off := 0x100, n := 16, dir := dir, va := 0x40001100, ctx := 1, gen := 0 }] },
              queues := [(2, { qu 3 1 5 2 2 with running := some copyE })], engines := [(4, { queue := some 2, entry := copyE, held := [1] })] }
theorem test_win_data : (let m := emsg 1 1 [access 16 0x110 3 0, 0xABCD]
    let s := askedOut 0
    etmosValid m = true ∧ s.routeStep m = .deliver (arrived m) ∧ (s.winReqOf (arrived m)).isSome = true ∧ s.accessCurrent (arrived m) = true ∧
    (match s.look (engineSrc 4) 1 0x40002000 with | .miss => true | _ => false) = true ∧
    ((after (.winData 0 m) s).engine 4).held = 0xCD :: 0xAB :: List.replicate 14 0) := by decide +kernel
theorem test_win_red_done : (let m := emsg 1 2 [access 16 0x110 3 0]
    let s := askedOut 2
    etmosValid m = true ∧ s.routeStep m = .deliver (arrived m) ∧ ((after (.winRedDone 0 m) s).engine 4).done = 16 ∧
    ((after (.winRedDone 0 m) s).engine 4).held = []) := by decide +kernel
theorem test_win_err : (let m := emsg 1 3 [access 16 0x110 3 7]
    let s := askedOut 0
    etmosValid m = true ∧ s.routeStep m = .deliver (arrived m) ∧ ((after (.winErr 0 m) s).engine 4).stopped = true ∧
    (after (.winErr 0 m) s).faultLog = [faultRecord 4 0 false 0 1 0 0 9 7 7 0x40001100 0 (Ent.xfer copyE) 0]) := by decide +kernel
theorem test_window_response_timeout : (let s := askedOut 0
    s.fabric.winReqs.find? (fun r => r.tag == 3) = s.fabric.winReqs.head? ∧ (s.engine 4).queue = some 2 ∧
    ((after (.windowResponseTimeout 3) s).engine 4).stopped = true ∧ bit ((after (.windowResponseTimeout 3) s).ctx 1).status 0 = true ∧
    (after (.windowResponseTimeout 3) s).faultLog = [faultRecord 4 0 false 0 1 0 0 9 7 6 0x40001100 0 (Ent.xfer copyE) 0]) := by decide +kernel

/-! ### Etmos ports and messages (R364-R396) -/

/-- Port 0 of node 5, its peer node 9, whose entry lies in memory (R378), and what their training measured. -/
def facing : State :=
  { up with ports := [(0, { record := 0x10000009 })], fabric := { node := 0x0000050400000000 },
            mem := [(0x40000130, 0x22), (0x40000131, 0x11)] }
def trained0 : PortTraining := { marked := 0, peerModuleId := 0x1122, peerPort := 1, peerVersion := 4, rtt := 70000 }

def passing0 : EMsg := { vc := 0, len := 3, op := 2, dst := 8, src := 9, legCnt := 1, route := 0x1002, units := [0] }
/-- What port 0 reports after a training: State and Why. -/
def reports (r : PortTraining) : Nat × Nat :=
  let k := (after (.etmosPortTraining 0 r) facing).port 0
  (fld k.status 31 28, fld k.status 27 24)

-- a lane marked on a version 3 link; the wrong port; the wrong module; a version two above
theorem test_port_training :
    12 ≤ facing.coldStep.toNat ∧ fld (facing.port 0).record 31 28 ≠ 0 ∧ fld (facing.port 0).status 31 28 = 0 ∧ facing.modState ≠ 3 ∧
    reports trained0 = (2, 0) ∧ reports { trained0 with marked := 1, peerVersion := 3 } = (4, 1) ∧ reports { trained0 with marked := 17 } = (4, 1) ∧
    reports { trained0 with peerPort := 0 } = (0, 2) ∧ reports { trained0 with peerModuleId := 1 } = (0, 3) ∧
    reports { trained0 with peerVersion := 6 } = (0, 4) ∧ reports { trained0 with marked := 0xF0, peerVersion := 5 } = (2, 0) := by decide +kernel
theorem test_port_training_measures : (let k := (after (.etmosPortTraining 0 { trained0 with marked := 16, peerVersion := 5 }) facing).port 0
    fld k.status 39 36 = 4 ∧ fld k.status 35 32 = 4 ∧ fld k.status 23 8 = 65535 ∧ fld k.status 7 4 = 1 ∧ k.sess.mine.length = 1 ∧ k.flit.credits.getD 4 0 = 2048 - 12 ∧
    (after (.etmosPortTraining 0 trained0) facing).sh.inflight.length = 1) := by decide +kernel
/-- What waited at a port that goes down is dropped and counted (R376). -/
theorem test_port_down_drops : (let s := { facing with ports := [(0, { record := 0x10000009, out := [passing0, passing0] })] }
    (after (.etmosPortTraining 0 { trained0 with peerPort := 0 }) s).fabric.drops = 2 ∧
    ((after (.etmosPortTraining 0 { trained0 with peerPort := 0 }) s).port 0).out = []) := by decide +kernel

theorem test_port_loss : fld (linked.port 0).status 31 28 = 3 ∧ linked.fabric.forwards = [] ∧
    [1, 2, 3, 4, 5, 6, 7].map (fun w => let k := (after (.etmosPortLoss 0 w) linked).port 0; (fld k.status 31 28, fld k.status 27 24)) =
      [(4, 1), (0, 2), (0, 3), (0, 4), (0, 5), (4, 6), (0, 7)] := by decide +kernel
theorem test_port_restart : (let s := { linked with ports := [(0, { status := 0x41000000 })], fabric := { e2e := { up := true } } }
    s.fabric.e2e.up = true ∧ fld (s.port 0).status 31 28 = 4 ∧ fld ((after (.portRestart 0) s).port 0).status 31 24 = 0x10) := by decide +kernel
theorem test_port_sleep_notice : fld (linked.port 0).status 31 28 = 3 ∧ ((after (.portSleepNotice 0) linked).port 0).asleep = true ∧
    fld ((after (.portSleepNotice 0) linked).port 0).status 31 24 = 0 := by decide +kernel
theorem test_port_activity_wake : (let s := { up with power := { status := 0x3000000000000000 } }
    s.powerState = 3 ∧ s.split = false ∧ fld ((after (.portActivityWake 2) s).port 2).status 31 28 = 1 ∧ (after (.portActivityWake 2) s).powerState = 5) := by decide +kernel
theorem test_rekey : (let s := { linked with ports := [(0, { status := 0x4830000000 }), (1, { status := 0x3830000000 })] }
    fld (s.port 0).status 31 28 = 3 ∧ (s.port 0).next = none ∧ 4 ≤ fld (s.port 0).status 39 36 ∧
    ((after (.rekey 0) s).port 0).next.map (fun n => (n.phase, n.mine.length)) = some (true, 1) ∧
    fld (s.port 1).status 31 28 = 3 ∧ fld (s.port 1).status 39 36 < 4 ∧ fld ((after (.rekey 1) s).port 1).status 31 24 = 0x10) := by decide +kernel

/-- Port 0 in its handshake. -/
def shaking (t : Session) : State := { up with ports := [(0, { status := 0x20000000, sess := t })] }
/-- The generator of P-384 as a key; any point of the curve is one. -/
def goodKey : BitVec 768 := BitVec.ofNat 768 (p384Gx * 2 ^ 384 + p384Gy)
/-- Bytes of the peer's handshake as they come on VC2 before there is a session (R370, R385). -/
def hs (bs : List Byte) : EMsg :=
  { vc := 2, len := BitVec.ofNat 6 ((dataUnits bs).length + 4), op := 0x11, dst := 5, src := 9, legCnt := 1, route := 1, units := 0 :: dataUnits bs ++ [0] }
/-- State and Why of the port, the steps of each end, and the messages that leave. -/
def shaken (t : Session) (bs : List Byte) : Nat × Nat × Nat × Nat :=
  let s := after (.handshake 0 (hs bs)) { shaking t with sec := { cert := [1, 2, 3] } }
  let k := s.port 0
  (fld k.status 31 24, k.sess.mine.length, k.sess.theirs.length, s.sh.inflight.length)
def helloOf (key : BitVec 768) : List Byte := beBytes 96 key.toNat ++ beBytes 32 7

theorem test_handshake_hello : (keyPoint (beBytes 96 goodKey.toNat)).isSome = true ∧ keyPoint (beBytes 96 (0 : BitVec 768).toNat) = none ∧
    etmosValid (hs (helloOf goodKey)) = true ∧ (({ mine := [[]] } : Session).gather (helloOf goodKey)).2 = some (.hello goodKey 7) ∧
    shaken { mine := [[]] } (helloOf goodKey) = (0x20, 2, 1, 1) ∧ shaken { mine := [[]] } (helloOf 0) = (3, 0, 0, 0) := by decide +kernel
/-- A part of a step is kept until the rest has come. -/
theorem test_handshake_gathers : (({ mine := [[]] } : Session).gather ((helloOf goodKey).take 64)).2 = none ∧
    ((after (.handshake 0 (hs ((helloOf goodKey).take 64))) (shaking { mine := [[]] })).port 0).sess.part = (helloOf goodKey).take 64 ∧
    shaken { mine := [[]], part := (helloOf goodKey).take 64 } ((helloOf goodKey).drop 64) = (0x20, 2, 1, 1) := by decide +kernel
def badCert : Session := { mine := [[], []], theirs := [[]], part := List.replicate 4240 0 }
theorem test_handshake_certificate : (match (badCert.gather (List.replicate 16 0)).2 with | some (.certificate l) => l.length | _ => 0) = 4256 := by decide +kernel
theorem test_handshake_certificate_kept : (badCert.gather (List.replicate 15 0)).2 = none := by decide +kernel
theorem test_handshake_unsigned : shaken badCert (List.replicate 16 0) = (3, 0, 0, 0) := by decide +kernel

/-- A session that has everything but the peer's Finished. -/
def almost : Session := { mine := [[1], [2], [3], [4]], theirs := [[5], [6], [7]], finTx := 9 }
def finishedOf (t : Session) (first : Bool) : BitVec 384 := BitVec.ofNat 384 (beNat (t.mac first (!first)))
theorem finishedOf_right (t : Session) (first : Bool) (h : (t.mac first (!first)).length = 48) :
    beBytes 48 (finishedOf t first).toNat = t.mac first (!first) := by
  have hr := leBytes_leNat (t.mac first (!first)).reverse
  have hl := leNat_lt (t.mac first (!first)).reverse
  rw [List.length_reverse, h] at hr hl
  unfold finishedOf beBytes beNat
  rw [BitVec.toNat_ofNat, show (2 : Nat) ^ 384 = 256 ^ 48 by decide +kernel, Nat.mod_eq_of_lt hl, hr, List.reverse_reverse]
theorem test_handshake_finished : (almost.mac true (!true)).length = 48 ∧ shaken almost (beBytes 48 (finishedOf almost true).toNat) = (0x30, 4, 4, 0) ∧
    (almost.mac false (!false)).length = 48 := by decide +kernel
/-- What a port, a port beside an old session, and the end-to-end session take. -/
theorem test_handshake_right : beBytes 48 (finishedOf almost true).toNat = almost.mac true (!true) ∧
    beBytes 48 (finishedOf almost false).toNat = almost.mac false (!false) :=
  ⟨finishedOf_right _ _ test_handshake_finished.1, finishedOf_right _ _ test_handshake_finished.2.2⟩
theorem test_handshake_wrong : shaken almost (List.replicate 48 0) = (3, 0, 0, 0) := by decide +kernel

/-- A message on the way from node 9 to node 8, entering at port 0 with 2 hops left on port 1, or 1 hop and then a leg on port 1. -/
def passing : EMsg := passing0
def turning : EMsg := { passing with legCnt := 2, route := 0x10030001 }
/-- The messages that leave: port, leg, hops and route. -/
def leaving (m : EMsg) : List (Nat × Nat × Nat × Nat) :=
  (after (.etmosForward 0 m) linked).sh.inflight.filterMap (fun x => match x with
    | .etmos p r => some (p.toNat, r.legIdx.toNat, r.hops.toNat, r.route.toNat)
    | _ => none)
theorem test_forward : etmosValid passing = true ∧ etmosValid turning = true ∧ etmosValid { passing with len := 4 } = false ∧
    linked.powerState ≠ 2 ∧ linked.powerState ≠ 4 ∧ linked.modState ≠ 3 ∧ fld (linked.port 1).status 31 28 = 3 ∧
    leaving passing = [(1, 0, 1, 0x1001)] ∧
    (let down := { linked with ports := [(0, { status := 0x30000000 })] }
     (after (.etmosForward 0 passing) down).fabric.drops = 1 ∧ bit ((after (.etmosForward 0 passing) down).port 1).status 0 = true) ∧
    (after (.etmosForward 0 passing) { linked with ports := [(0, { status := 0x30000000 }), (1, { asleep := true })] }).sh.inflight.length = 1 ∧ leaving turning = [(1, 1, 1, 0x10030000)] ∧
    bit ((after (.etmosForward 0 { passing with len := 4 }) linked).port 0).status 0 = true := by decide +kernel
theorem test_forward_ends : etmosValid { passing with hops := 4094 } = true ∧ etmosValid { passing with route := 1 } = true ∧
    (8 : BitVec 24).toNat ≠ linked.ownNode ∧
    (after (.etmosForward 0 { passing with hops := 4094 }) linked).fabric.drops = 1 ∧
    (after (.etmosForward 0 { passing with route := 1 }) linked).fabric.misroutes = 1 := by decide +kernel

/-! ### Management, time and gatherings (R386-R389, R445-R451) -/

/-- A session that both ends of port 0 share: what the peer sends under it. -/
def sess0 : Session := { up := true }
def secured (m : EMsg) : EMsg := (sess0.protect m).1
/-- The message as it is delivered (R376): its length is that of the protected one. -/
def opened (m : EMsg) : EMsg := { arrived m with len := BitVec.ofNat 6 (m.units.length + 4) }
/-- Node 5 with the session up on port 0, whose record has the Clock bit or not. -/
def mgmtS (clock : Bool) : State :=
  { up with ports := [(0, { status := 0x30000000, record := BitVec.ofNat 32 (putb clock 25 + 9), sess := sess0, probeT1 := some 100 })],
            fabric := { node := 0x0000050400000000, ptpSync := some (3, 50), ptpPair := some (5, 50), ptpReq := some (3, 60),
                        e2e := { up := true } } }
def port0 (s : State) : EPort := { s.port 0 with sess := { sess0 with ctrRx := 1 } }

theorem secured_reaches (s : State) (m : EMsg) (hs : (s.port 0).next = none ∧ (s.port 0).sess = sess0 ∧ fld (s.port 0).status 31 28 = 3 ∧ s.powerState ≠ 2 ∧
      s.powerState ≠ 4)
    (hv : 2 ≤ m.vc.toNat)
    (he : etmosValid { m with len := BitVec.ofNat 6 (m.units.length + 4), units := List.replicate (m.units.length + 2) 0 } = true)
    (hr : s.routeStep { m with len := BitVec.ofNat 6 (m.units.length + 4) } = .deliver (opened m)) :
    Reaches s 0 (secured m) (opened m) (port0 s) := by
  obtain ⟨hn, hss, hst, hp, hp4⟩ := hs
  obtain ⟨us, hm, hl, _⟩ := Session.protect_shape sess0 m
  have ho := EPort.openMsg_protect (s.port 0) sess0 m hn (by rw [hss]; rfl) (by rw [hss]) (by rw [hss]; rfl) (by rw [hss]; rfl)
    (by rw [hss]; decide) (by decide)
  refine ⟨by decide, hst, Session.protect_valid sess0 m hv he, hp, hp4, ?_, ?_⟩
  · rw [if_neg (by unfold secured; rw [hm]; exact Nat.not_lt.mpr hv)]
    show (s.port 0).openMsg (sess0.protect m).1 = _
    rw [ho, hss]
    rfl
  · unfold secured
    rw [hm]
    exact hr

def mgmtM : EMsg := emsg 2 0x10 [7, 8]
/-- A Sync, and its Follow_Up of sequence number 3: times 1 s and 5 ns, no correction. -/
def syncM : EMsg := emsg 2 0x12 [0, BitVec.ofNat 128 (2 ^ 120 * 3), 0]
def delayReqM : EMsg := emsg 2 0x12 [1, BitVec.ofNat 128 (2 ^ 120 * 3), 0]
/-- A Delay_Resp to the request of sequence number 3 of port 1 of this module. -/
def respM : EMsg := emsg 2 0x12 [9, BitVec.ofNat 128 (2 ^ 120 * 3), 0, BitVec.ofNat 128 (2 ^ 40)]
def followM : EMsg := emsg 2 0x12 [8, BitVec.ofNat 128 (2 ^ 120 * 3), BitVec.ofNat 128 (5 * 2 ^ 88 + 2 ^ 56)]
def counterM : EMsg := emsg 3 0x20 [BitVec.ofNat 128 (put 9 64 64)]
def probeM : EMsg := emsg 3 0x21 [BitVec.ofNat 128 (put 90 64 64), 0]
def replyM : EMsg := emsg 3 0x22 [BitVec.ofNat 128 (put 100 64 64 + put 5 64 0), BitVec.ofNat 128 (put 7 64 64)]

theorem test_ptp_ports : (mgmtS false).ptpPort 0 = true ∧ (mgmtS false).fabric.e2e.up = true := by decide +kernel
theorem test_ptp_delay : (Reaches (mgmtS false) 0 (secured respM) (opened respM) (port0 (mgmtS false)) ∧ (secured respM).vc = 2 ∧
    (secured respM).op = 0x12) ∧ Reaches (mgmtS false) 0 (secured delayReqM) (opened delayReqM) (port0 (mgmtS false)) ∧
    leAt (unitBytes (opened respM).units) 0 1 % 16 = 9 ∧ (mgmtS false).fabric.ptpPair = some (5, 50) ∧ (mgmtS false).fabric.ptpReq = some (3, 60) ∧
    BitVec.ofNat 16 (beNat (sub_ (unitBytes (opened respM).units) 30 2)) = 3 ∧
    sub_ (unitBytes (opened respM).units) 44 10 = leBytes 8 (mgmtS false).host.moduleId.toNat ++ beBytes 2 (0 + 1) := by
  refine ⟨⟨secured_reaches _ _ ?_ ?_ ?_ ?_, ?_, ?_⟩, secured_reaches _ _ ?_ ?_ ?_ ?_, ?_, ?_, ?_, ?_, ?_⟩ <;> decide +kernel
theorem test_mgmt : Reaches (mgmtS false) 0 (secured mgmtM) (opened mgmtM) (port0 (mgmtS false)) ∧ (secured mgmtM).vc = 2 ∧ (secured mgmtM).op = 0x10 := by
  refine ⟨secured_reaches _ _ ?_ ?_ ?_ ?_, ?_, ?_⟩ <;> decide +kernel
theorem test_ptp_sync : Reaches (mgmtS false) 0 (secured syncM) (opened syncM) (port0 (mgmtS false)) ∧ (secured syncM).vc = 2 ∧ (secured syncM).op = 0x12 ∧
    leAt (unitBytes (opened syncM).units) 0 1 % 16 = 0 := by
  refine ⟨secured_reaches _ _ ?_ ?_ ?_ ?_, ?_, ?_, ?_⟩ <;> decide +kernel
theorem test_ptp_follow_up : Reaches (mgmtS false) 0 (secured followM) (opened followM) (port0 (mgmtS false)) ∧ (secured followM).vc = 2 ∧
    (secured followM).op = 0x12 ∧ leAt (unitBytes (opened followM).units) 0 1 % 16 = 8 ∧
    (mgmtS false).fabric.ptpSync = some (BitVec.ofNat 16 (beNat (sub_ (unitBytes (opened followM).units) 30 2)), 50) := by
  refine ⟨secured_reaches _ _ ?_ ?_ ?_ ?_, ?_, ?_, ?_, ?_⟩ <;> decide +kernel
theorem test_counter_sync : Reaches (mgmtS true) 0 (secured counterM) (opened counterM) (port0 (mgmtS true)) ∧ (secured counterM).vc = 3 ∧
    (secured counterM).op = 0x20 ∧ bit (port0 (mgmtS true)).record 25 = true ∧ bit (mgmtS true).fabric.node 31 = false ∧
    (mgmtS true).fabric.stepNext = false := by
  refine ⟨secured_reaches _ _ ?_ ?_ ?_ ?_, ?_, ?_, ?_, ?_, ?_⟩ <;> decide +kernel
def afterDormant : State := { mgmtS true with fabric := { (mgmtS true).fabric with stepNext := true } }
theorem test_counter_sync_steps : Reaches afterDormant 0 (secured counterM) (opened counterM) (port0 afterDormant) ∧ (secured counterM).vc = 3 ∧
    (secured counterM).op = 0x20 ∧ bit (port0 afterDormant).record 25 = true ∧ bit afterDormant.fabric.node 31 = false ∧
    afterDormant.fabric.stepNext = true ∧
    (0 : Int) < (fld ((opened counterM).units.headD 0) 127 64 : Int) + (port0 afterDormant).delay - (afterDormant.launchCounter.toNat : Int) := by
  refine ⟨secured_reaches _ _ ?_ ?_ ?_ ?_, ?_, ?_, ?_, ?_, ?_, ?_⟩ <;> decide +kernel
/-- A counter that stands ahead after Dormant is held (R388). -/
def aheadOf : State := { afterDormant with launchCounter := 20 }
theorem test_counter_sync_holds : Reaches aheadOf 0 (secured counterM) (opened counterM) (port0 aheadOf) ∧
    (fld ((opened counterM).units.headD 0) 127 64 : Int) + (port0 aheadOf).delay - (aheadOf.launchCounter.toNat : Int) < 0 ∧
    (aheadOf.takeCounterSync 0 (opened counterM)).fabric.hold = 11 ∧ (aheadOf.takeCounterSync 0 (opened counterM)).launchCounter = 20 := by
  refine ⟨secured_reaches _ _ ?_ ?_ ?_ ?_, ?_, ?_, ?_⟩ <;> decide +kernel
theorem test_delay_probe : Reaches (mgmtS true) 0 (secured probeM) (opened probeM) (port0 (mgmtS true)) ∧ (secured probeM).vc = 3 ∧
    (secured probeM).op = 0x21 := by
  refine ⟨secured_reaches _ _ ?_ ?_ ?_ ?_, ?_, ?_⟩ <;> decide +kernel
theorem test_delay_reply : Reaches (mgmtS true) 0 (secured replyM) (opened replyM) (port0 (mgmtS true)) ∧ (secured replyM).vc = 3 ∧
    (secured replyM).op = 0x22 ∧ (port0 (mgmtS true)).probeT1 = some (BitVec.ofNat 64 (fld ((opened replyM).units.headD 0) 127 64)) := by
  refine ⟨secured_reaches _ _ ?_ ?_ ?_ ?_, ?_, ?_, ?_⟩ <;> decide +kernel

/-- What these messages do once they are taken: 1 s and 5 ns less the 50 ns at which the Sync came; an error of 9 ns unlocks; a delay of half of
5 - 100 and 20 - 7. -/
theorem test_time_messages : ((mgmtS false).takePtp 0 (opened followM)).fabric.tai = 1000000005 - 50 ∧
    ((mgmtS false).takePtp 0 (opened syncM)).fabric.ptpSync = some (3, 0) ∧ ((mgmtS true).takeCounterSync 0 (opened counterM)).fabric.owed = 9 ∧
    bit ((mgmtS true).takeCounterSync 0 (opened counterM)).fabric.node 30 = false ∧ (afterDormant.takeCounterSync 0 (opened counterM)).launchCounter = 9 ∧
    leAt (unitBytes (opened delayReqM).units) 0 1 % 16 = 1 ∧
    ((mgmtS false).takePtp 0 (opened respM)).fabric.ptpDelay = some (-8) ∧ ((mgmtS false).takePtp 0 (opened respM)).fabric.tai = -53 ∧
    (ptpDelayResp (unitBytes (opened delayReqM).units) 0 0 1000000005).length = 54 ∧
    ptpTime ((ptpDelayResp (unitBytes (opened delayReqM).units) 0 0 1000000005).drop 34) = 1000000005 ∧
    (({ mgmtS true with launchCounter := 20 }.takeDelayReply 0 (opened replyM)).port 0).delay = -41 := by decide +kernel

theorem test_counter_sync_timer : fld ((mgmtS false).port 0).status 31 28 = 3 ∧ bit ((mgmtS false).port 0).record 25 = false ∧
    (after (.counterSyncTimer 0) (mgmtS false)).sh.inflight.length = 1 := by decide +kernel
theorem test_delay_probe_timer : ((after .delayProbeTimer (mgmtS true)).port 0).probeT1 = some 0 ∧
    ((after .delayProbeTimer (mgmtS false)).port 0).probeT1 = some 100 := by decide +kernel

/-- The bytes of a gathering (R445): its class, CommitCount and records of a type and a body of whole words. -/
def gathering (cls commit : Nat) (recs : List (Nat × List Byte)) : List Byte :=
  let body := recs.flatMap (fun r => leBytes 4 r.1 ++ leBytes 4 r.2.length ++ r.2)
  leBytes 4 0xA5C30417 ++ leBytes 1 cls ++ leBytes 1 0 ++ leBytes 2 recs.length ++ leBytes 4 (64 + body.length) ++ leBytes 4 0 ++ leBytes 8 commit ++
    leBytes 40 0 ++ body
/-- Port records of 12 ports, and own node 6; a budget of 100 W, sequence number 2, at commit count 3. -/
def trellisG : List Byte := gathering 4 5 [(0x30, (List.replicate 12 (leBytes 4 0x10000009)).flatten), (0x31, leBytes 8 (6 * 2 ^ 40))]
def budgetG : List Byte := gathering 6 0 [(0x50, leBytes 16 (put 2 32 96 + put 3 64 32 + put 100 9 23))]
def managed : State := { up with fabric := { node := 0x0000050400000000, e2e := { up := true }, routeCache := [(9, 1)] } }
theorem test_gatherings_arrive :
    [(trellisG, 4), (budgetG, 6)].all (fun b => (gatheringOf managed.sec.grade.toNat b.1).any (fun g => !g.signed && g.cls == b.2)) = true ∧
    gatheringOf managed.sec.grade.toNat (trellisG.take 80) = none ∧
    (after (.trellisGathering trellisG) managed).fabric.pendingGath.map (fun g => g.commit) = [5] ∧
    (after (.budgetGathering budgetG) managed).fabric.replies = [[6, 1]] ∧ (after (.budgetGathering trellisG) managed).fabric.replies = [[6, 0]] := by
  decide +kernel

/-- Both wait, and their CommitCounts have come. -/
def waiting : State :=
  { managed with launchCounter := 5, fabric := { managed.fabric with pendingGath := [⟨4, 5, trellisG⟩, ⟨6, 3, budgetG⟩] } }
def trellisWaits : State := { waiting with fabric := { waiting.fabric with pendingGath := [⟨4, 5, trellisG⟩] } }
theorem test_trellis_commits : (nextPending trellisWaits.fabric.pendingGath).map (fun g => g.bytes) = some trellisG ∧
    trellisWaits.shadowsHeld = false ∧ trellisWaits.spineOff = false ∧
    (after (.gatheringCommit 4) trellisWaits).ownNode = 6 ∧ (after (.gatheringCommit 4) trellisWaits).epoch = (waiting.epoch + 1) % 16 ∧
    (after (.gatheringCommit 4) trellisWaits).fabric.routeCache = [] ∧ after (.gatheringCommit 4) waiting = waiting ∧
    after (.gatheringCommit 4) { trellisWaits with launchCounter := 4 } = { trellisWaits with launchCounter := 4 } := by decide +kernel
/-- One whose CommitCount has passed as it arrives commits at once; in Split it waits (R407, R451). -/
theorem test_due_on_arrival : (let s := { managed with launchCounter := 5 }
    let t := { s with power := { s.power with splitWest := true } }
    (after (.budgetGathering budgetG) s).power.granted = 100 ∧ (after (.budgetGathering budgetG) s).fabric.pendingGath = [] ∧
    t.shadowsHeld = true ∧ (after (.budgetGathering budgetG) t).fabric.pendingGath.length = 1 ∧
    after (.gatheringCommit 6) { t with fabric := waiting.fabric } = { t with fabric := waiting.fabric }) := by decide +kernel
theorem test_budget_commits : (nextPending waiting.fabric.pendingGath).map (fun g => g.bytes) = some budgetG ∧
    (gatheringOf waiting.sec.grade.toNat budgetG).map (fun x => x.recs.map (fun r => r.1)) = some [0x50] ∧ waiting.power.grantSeq = none ∧
    (after (.gatheringCommit 6) waiting).power.granted = 100 ∧ (after (.gatheringCommit 6) waiting).power.grantSeq = some 2 := by decide +kernel

/-! ### Job gates (R390-R394) -/

/-- Gate 2 of job 7 in a state, with queue 3 of context 1. -/
def gateIn (st : Nat) : Gate := { reg := BitVec.ofNat 64 (put st 4 60 + 7), ctx := 1, queue := 3 }
theorem test_job_gate_set : (let e := ent 0x58 1 (put 2 4 476 + put 7 32 444 + put 1 12 432 + put 3 14 418 + put 1 8 410)
    let s := withQ (adq e ++ [(3, qu 1 1 1 0 0), (4, qu 1 1 1 0 0)])
    AdminReady s false e 0x58 ∧ fld (s.gate 2).reg 63 60 = 0 ∧ (s.queue 3).ctx = 1 ∧ (s.queue 3).type ≠ 0 ∧ accepted (.jobGateSet false) s e = true ∧
    ((after (.jobGateSet false) s).gate 2).reg = (gateIn 1).reg ∧ ((after (.jobGateSet false) s).queue 4).st = 6) := by
  unfold AdminReady Ready; decide +kernel

def startE (start guard : Nat) : BitVec 512 := ent 0x59 1 (put 2 4 476 + put start 64 412 + put guard 32 380 + put 0x40001040 48 332 + put 2 24 308)
/-- The root, node 5, with Bcast port 0 up, and the members 9 and 5 listed at 0x40001040. -/
def rootS (e : BitVec 512) : State :=
  { withQ (adq e) (BitVec.ofNat 512 (put 9 32 0 + put 5 32 32)) with
    gates := [(2, gateIn 1)], ports := [(0, { status := 0x30000000, record := 0x04000009, sess := sess0 })], fabric := { node := 0x0000050480000000 } }
theorem test_job_start_ready :
    AdminReady (rootS (startE 100 20)) false (startE 100 20) 0x59 ∧ bit (rootS (startE 100 20)).fabric.node 31 = true ∧
    (rootS (startE 100 20)).tracksVA 0 0x40001040 8 = false ∧ (rootS (startE 100 20)).readVA 0 0x40001040 8 = some [9, 0, 0, 0, 5, 0, 0, 0] := by unfold AdminReady Ready; decide +kernel
theorem test_job_start : (let k := (after (.jobStart false) (rootS (startE 100 20))).gate 2
      fld k.reg 63 60 = 2 ∧ k.members = [9, 5] ∧ k.acks = [5] ∧ k.root = true) ∧
    AdminReady (rootS (startE 10 20)) false (startE 10 20) 0x59 ∧ accepted (.jobStart false) (rootS (startE 10 20)) (startE 10 20) = true ∧
    fld ((after (.jobStart false) (rootS (startE 10 20))).gate 2).reg 63 56 = 0x54 := by unfold AdminReady Ready; decide +kernel
theorem test_job_gate_clear : (let e := ent 0x5A 1 (put 2 4 476)
    let s := { withQ (adq e ++ [(3, qu 1 1 6 0 0)]) with gates := [(2, gateIn 1)] }
    let u := { withQ (adq e) with gates := [(2, gateIn 3)] }
    AdminReady s false e 0x5A ∧ fld (s.ctx 1).status 29 28 = 1 ∧ (s.gate 2).queues = [3] ∧ (s.queue 3).st = 6 ∧ (s.queue 3).running = none ∧ (s.queue 3).stampAt = none ∧
    accepted (.jobGateClear false) s e = true ∧ ((after (.jobGateClear false) s).queue 3).st = 1 ∧ rejected (.jobGateClear false) u e 2 = true) := by
  unfold AdminReady Ready; decide +kernel

/-- A job message from node 9, and node 5 with gate 2. -/
def jobM (op reason : Nat) : EMsg := emsg 2 op (jobUnits 7 9 reason 20 100)
def jobS (k : Gate) (locked : Bool) (fw : List JobForward := []) : State :=
  let f : Fabric := { node := BitVec.ofNat 64 (0x0000050400000000 + putb locked 30), forwards := fw }
  { mgmtS false with gates := [(2, k)], fabric := f }
def armed : Gate := { gateIn 2 with s := 100, guard := 20 }
def rooted (members : List (BitVec 24)) : Gate := { armed with members := members, acks := [5], root := true }
theorem test_job_message_reaches : ∀ op ∈ [0x13, 0x14, 0x15, 0x16, 0x17], ∀ s ∈ [jobS (gateIn 1) true, jobS (gateIn 1) false, jobS armed false,
    jobS (rooted [9, 5]) false, { jobS armed false with launchCounter := 100 }],
    Reaches s 0 (secured (jobM op 3)) (opened (jobM op 3)) (port0 s) ∧ (secured (jobM op 3)).vc = 2 := by
  have hc : ∀ op ∈ [0x13, 0x14, 0x15, 0x16, 0x17], ∀ s ∈ [jobS (gateIn 1) true, jobS (gateIn 1) false, jobS armed false,
      jobS (rooted [9, 5]) false, { jobS armed false with launchCounter := 100 }], let m := jobM op 3
      ((s.port 0).next = none ∧ (s.port 0).sess = sess0 ∧ fld (s.port 0).status 31 28 = 3 ∧ s.powerState ≠ 2 ∧ s.powerState ≠ 4) ∧ 2 ≤ m.vc.toNat ∧
      etmosValid { m with len := BitVec.ofNat 6 (m.units.length + 4), units := List.replicate (m.units.length + 2) 0 } = true ∧
      s.routeStep { m with len := BitVec.ofNat 6 (m.units.length + 4) } = .deliver (opened m) ∧ (secured m).vc = 2 := by decide +kernel
  intro op ho s hs
  obtain ⟨h1, h2, h3, h4, h5⟩ := hc op ho s hs
  exact ⟨secured_reaches s _ h1 h2 h3 h4, h5⟩
theorem test_job_bodies : jobBody (opened (jobM 0x13 3)) = BitVec.ofNat 256 (7 <<< 224 + 9 <<< 200 + 3 <<< 196 + 20 <<< 164 + 100 <<< 64) ∧
    (jobS (gateIn 1) true).gateOf 7 [1] = some 2 ∧ (9 : Nat) ≠ (jobS armed false).ownNode ∧ (jobS armed false).gateOf 7 [2] = some 2 ∧
    (jobS (rooted [9, 5]) false).gateOf 7 [2] = some 2 ∧ (jobS armed false).gateOf 7 [1, 2] = some 2 := by decide +kernel
/-- What they do once they are taken: armed, or not where the counter is not locked; acknowledged by all, or not yet; refused; confirmed, or too late;
aborted. -/
theorem test_job_messages : (let st := fun (s : State) => fld (s.gate 2).reg 63 56
    st ((jobS (gateIn 1) true).takeJobArm 0 (opened (jobM 0x13 0))) = 0x20 ∧ st ((jobS (gateIn 1) false).takeJobArm 0 (opened (jobM 0x13 0))) = 0x10 ∧
    st ((jobS (rooted [9, 5]) false).takeArmAck (opened (jobM 0x14 0))) = 0x30 ∧
    (((jobS (rooted [9, 8]) false).takeArmAck (opened (jobM 0x14 0))).gate 2).acks = [5, 9] ∧
    st ((jobS (rooted [9, 5]) false).takeArmNack (opened (jobM 0x15 3))) = 0x53 ∧ st ((jobS armed false).takeJobConfirm 0 (opened (jobM 0x16 0))) = 0x30 ∧
    st ({ jobS armed false with launchCounter := 100 }.takeJobConfirm 0 (opened (jobM 0x16 0))) = 0x20 ∧
    st ((jobS armed false).takeJobAbort 0 (opened (jobM 0x17 3))) = 0x53) := by decide +kernel

-- nodes 8 and 9 are silent at count 80
theorem test_job_guard : (let s := { jobS (rooted [9, 8, 5]) false with launchCounter := 80 }
    (s.gate 2).root = true ∧ s.gateOf (fld (s.gate 2).reg 31 0) [2] = some 2 ∧ (s.gate 2).s.toNat - (s.gate 2).guard.toNat = 80 ∧
    ((after (.jobGuardExpiry 2) s).gate 2).reg = 0x5100000800000007) := by decide +kernel
theorem test_job_start_count : (let s := { up with launchCounter := 100, gates := [(2, { gateIn 3 with s := 100 }), (4, armed)], queues := [(3, qu 1 1 6 0 1)] }
    fld (s.ctx 1).status 29 28 = 1 ∧ (s.queue 3).st = 6 ∧ (s.queue 3).running = none ∧ (s.queue 3).stampAt = none ∧
    fld ((after (.jobStartCount 2) s).gate 2).reg 63 60 = 4 ∧
    ((after (.jobStartCount 2) s).queue 3).st = 2 ∧ fld ((after (.jobStartCount 4) s).gate 4).reg 63 60 = 6) := by decide +kernel

/-! ### Power, clocks and cooling (R397-R422) -/

/-- A quiet module in a power state, with its cores in WFI and coolant flowing; entering a state at a step. -/
def still (state : Nat) (p : Power := {}) (entering step : Nat := 0) (wake : Bool := false) : State :=
  { up with cores := (List.range 64).map (fun n => (n, { wfi := true })),
            power := { p with status := BitVec.ofNat 64 (put state 4 60 + put 1 1 57 + put 25 8 20), entering := BitVec.ofNat 2 entering,
                              entryStep := BitVec.ofNat 3 step, wakePending := wake } }
def sleepy : Power := { dozeAfter := 5, dormantAfter := 5, allowDormant := true }

theorem test_cluster_power_gate : (let s := { up with clusters := [(5, { clock := .clockGated, ls := [(0, 1)] })] }
    (s.cluster 5).runList = [] ∧ (s.cluster 5).kernel = none ∧ (s.cluster 5).clock = .clockGated ∧ s.timedOn = false ∧
    ((after (.clusterPowerGate 5) s).cluster 5).clock = .powerGated ∧ ((after (.clusterPowerGate 5) s).cluster 5).ls = []) := by decide +kernel
theorem test_doze_entry : (let s := still 1 sleepy
    s.modState = 1 ∧ s.powerState = 1 ∧ s.timedOn = false ∧ s.split = false ∧ s.quiet = true ∧ (after .dozeEntry s).powerState = 4 ∧
    (after .dozeEntry s).power.entering = 2) := by decide +kernel
/-- A core that runs, a policy with no limit, and timed mode each keep the module out of Doze. -/
theorem test_doze_stays : [{ still 1 sleepy with cores := [] }, still 1, { still 1 sleepy with timed := 1#128 <<< 63 }].all (fun s =>
    (after .dozeEntry s).powerState == 1) = true := by decide +kernel
theorem test_dormant_entry : (let s := { still 2 { sleepy with wakePending := true } with host := {} }
    s.powerState = 2 ∧ s.linkQuiet = true ∧ s.power.allowDormant = true ∧ s.timedOn = false ∧ s.split = false ∧ s.quiet = true ∧ s.updating = false ∧ s.gates = [] ∧ (after .dormantEntry s).powerState = 4 ∧
    (after .dormantEntry s).power.entering = 3 ∧ (after .dormantEntry { s with host := { attach := 2 } }).powerState = 2 ∧
    (after .dormantEntry { s with host := { attach := 2, cfg := [(17, 0xB)] } }).powerState = 4) := by decide +kernel
theorem test_sleep_entry_step : (let s := { still 4 sleepy 2 2 with links := [(6, { status := 0x20 })], clusters := [(5, { ls := [(0, 1)] })] }
    let u := { still 4 sleepy 2 3 with channels := [(7, { status := 0x20 })] }
    s.powerState = 4 ∧ (List.range 64).all (fun n => (s.core n).empty) = true ∧ s.coresHeard = true ∧ (after .sleepEntryStep s).power.entryStep = 3 ∧
    ((after .sleepEntryStep s).cluster 5).ls = [] ∧ fld ((after .sleepEntryStep s).linkEnd 6).status 7 4 = 0 ∧
    u.powerState = 4 ∧ (after .sleepEntryStep u).powerState = 2 ∧ fld ((after .sleepEntryStep u).channel 7).status 7 4 = 3) := by decide +kernel
/-- A core that holds a sector keeps step 2 of Doze waiting; a half whose dirty sectors are written back loses its lines in step 2 of Dormant. -/
theorem test_sleep_entry_waits : (let s := { still 4 sleepy 2 2 with cores := [(7, { l2 := [(1, { st := .shared })] })] }
    let u := { still 4 sleepy 3 2 with west := { lines := [(16, { valid := 3 })] } }
    (s.core 7).empty = false ∧ (after .sleepEntryStep s).powerState = 4 ∧ (after .sleepEntryStep s).power.entryStep = 2 ∧
    u.halfDirty false = false ∧ u.halfDirty true = false ∧ (after .sleepEntryStep u).power.entryStep = 3 ∧
    (after .sleepEntryStep u).west.lines.all (fun p => p.2.valid == 0) = true) := by decide +kernel
theorem test_sleep_entry_ends : (let s := { still 4 sleepy 3 4 with sec := { idKey := some 7 } }
    s.powerState = 4 ∧ (after .sleepEntryStep s).powerState = 3 ∧ (after .sleepEntryStep s).sec.idKey = none ∧
    (let u := { still 4 sleepy 3 1 true with coldStep := 5 }
     u.powerState = 4 ∧ u.split = false ∧ u.power.wakePending = true ∧ (after .sleepEntryStep u).powerState = 5 ∧
     (after .sleepEntryStep u).power.entering = 3)) := by decide +kernel
/-- Step 1 of Dormant waits for the channels to leave self-refresh; step 3 puts the ports to sleep and the link in L1; Split holds an entry that is
no emergency. -/
theorem test_sleep_entry_dormant : (let s := { still 4 sleepy 3 1 with channels := [(7, { status := 0x30 })] }
    let u := { still 4 sleepy 3 3 with ports := [(0, { status := 0x30000000 })] }
    fld ((after .sleepEntryStep s).channel 7).status 7 4 = 1 ∧ (after .sleepEntryStep s).power.entryStep = 1 ∧
    (after .sleepEntryStep u).power.entryStep = 4 ∧ (after .sleepEntryStep u).host.l1 = true ∧ ((after .sleepEntryStep u).port 0).asleep = true ∧
    ((after .sleepEntryStep u).port 0).sleepTold = true ∧ fld ((after .sleepEntryStep u).port 0).status 31 28 = 0 ∧
    (after .sleepEntryStep (still 4 { splitWest := true } 2 3)).power.entryStep = 3 ∧
    (after .sleepEntryStep (still 4 { splitWest := true, urgent := true } 2 3)).powerState = 2) := by decide +kernel
theorem test_wake_events : (let u := { still 2 with channels := [(7, { status := 0x30 })] }
    let cold := still 2 { stopHold := 1 }
    u.powerState = 2 ∧ u.mayWake = true ∧ cold.mayWake = false ∧ u.coldStep ≠ 0 ∧
    [Instr.clocheTimer, .smbusWake, .hostTlpWake].all (fun i => (after i (still 3)).powerState == 5) = true ∧
    [Instr.clocheTimer, .smbusWake].all (fun i => (after i u).powerState == 5 && fld ((after i u).channel 7).status 7 4 == 1 &&
      (after i cold).power.wakePending && (after i cold).powerState == 2 && (after i (still 4)).power.wakePending) = true) := by decide +kernel
theorem test_wake_complete : (let s := { still 5 {} 2 0 true with links := (List.range 7).map (fun l => (2 * l, { status := 0x20 })) }
    s.powerState = 5 ∧ s.trained = true ∧ (after .wakeComplete s).powerState = 1 ∧ (after .wakeComplete s).power.wakePending = false ∧
    ((after .wakeComplete { s with timed := 1#128 <<< 63 }).cluster 9).clock = .running) := by decide +kernel
/-- Split holds a wake; in Dormant and on the way there a host TLP is a wake event, elsewhere none. -/
theorem test_wake_waits : (let s := still 3 { splitWest := true }
    (after .clocheTimer s).powerState = 3 ∧ (after .clocheTimer s).power.wakePending = true ∧
    (after .hostTlpWake (still 4 {} 3 2)).power.wakePending = true ∧ after .hostTlpWake (still 2) = still 2 ∧
    after .wakeComplete (still 5 { splitWest := true } 3) = still 5 { splitWest := true } 3) := by decide +kernel
/-- A held wake event of Dormant leads on through Doze; a key that does not match the certificate is an identity failure. -/
theorem test_wake_recapture : (let s := still 5 { heldWake := true } 3
    s.mayWake = true ∧ s.sec.verified = false ∧ (after .wakeComplete s).powerState = 5 ∧ (after .wakeComplete s).power.entering = 2 ∧
    (after .wakeComplete s).sec.modPg = true ∧ (after .wakeComplete s).sec.idKey = none) := by decide +kernel
theorem test_wake_complete_dormant : (still 5 { stopHold := 1 } 3).mayWake = false ∧
    (after .wakeComplete (still 5 { stopHold := 1 } 3)).powerState = 2 ∧ (still 5 {} 3 0 true).mayWake = true ∧
    (after .wakeComplete (still 5 {} 3 0 true)).powerState = 5 ∧ (after .wakeComplete (still 5 {} 3 0 true)).power.entering = 2 := by decide +kernel
theorem test_spine_temperature : (let s := { still 2 with power := { status := 0x2000000000000000 } }
    s.powerState = 2 ∧ bit s.power.status 57 = false ∧ (after (.spineTemperatureSample 95) s).powerState = 4 ∧
    (after (.spineTemperatureSample 94) s).powerState = 2 ∧ (after (.spineTemperatureSample 95) (still 2)).powerState = 2) := by decide +kernel

def policyE : BitVec 512 := ent 0x60 1 (put 3000 32 448 + put 60 16 432 + put 10 16 416 + put 16 5 411 + put 8 4 407 + put 1 1 406)
def splitS : State := { adm policyE with power := { splitWest := true } }
theorem test_power_policy : AdminReady (adm policyE) false policyE 0x60 ∧ (adm policyE).split = false ∧
    accepted (.powerPolicy false) (adm policyE) policyE = true ∧
    (let p := (after (.powerPolicy false) (adm policyE)).power
     p.dozeAfter = 3000 ∧ p.dormantAfter = 60 ∧ p.gateAfter = 10 ∧ p.clusterMax = 16 ∧ p.coreMax = 8 ∧ p.allowDormant = true) := by
  unfold AdminReady Ready; decide +kernel
theorem test_power_policy_waits : AdminReady splitS false policyE 0x60 ∧ splitS.split = true ∧ fld policyE 415 411 ≠ splitS.power.clusterMax.toNat ∧
    (after (.powerPolicy false) splitS).power = splitS.power ∧ (after (.powerPolicy false) splitS).host.stream = [] := by
  unfold AdminReady Ready; decide +kernel
theorem test_power_sample : fld (after (.powerSample 2500 2400) up).power.status 39 28 = 2500 ∧ (after (.powerSample 2500 2400) up).power.avgSec = 2400 := by
  decide +kernel

theorem test_budgets : splitS.split = true ∧ (after .powerControlTick splitS).power.budgetWest = splitS.power.budgetWest ∧
    up.split = false ∧ (after .powerControlTick up).free = up.free + 2 := by decide +kernel

/-- A module under a cap of 300 W units that draws 1 W units more or less. -/
def drawing (ms : Nat) (p : Power := {}) : State := { up with power := { p with granted := 300, status := BitVec.ofNat 64 (put ms 12 28) } }
/-- Clock, duty, core clock and withholding after a tick. -/
def tick (s : State) : Nat × Nat × Nat × Bool :=
  let p := (after .powerControlTick s).power
  (p.capClk.toNat, p.capDuty.toNat, p.capCore.toNat, p.withhold)
theorem test_cap_steps_down : (drawing 3001).capInForce = 300 ∧ fld (drawing 3001).power.status 39 28 = 3001 ∧
    tick (drawing 3001) = (19, 16, 12, false) ∧ tick (drawing 3001 { capClk := 8 }) = (8, 15, 12, false) ∧
    tick (drawing 3001 { capClk := 8, capDuty := 4 }) = (8, 4, 11, false) ∧ tick (drawing 3001 { capClk := 8, capDuty := 4, capCore := 4 }) = (8, 4, 4, true) ∧
    (after .powerControlTick (drawing 3001)).throttled 1 0 0 = true := by decide +kernel
theorem test_cap_steps_up : tick (drawing 2900 { capClk := 10, calmTicks := 8 }) = (10, 16, 12, false) ∧
    tick (drawing 2900 { capClk := 10, calmTicks := 9 }) = (11, 16, 12, false) ∧ tick (drawing 2900 { capDuty := 9, calmTicks := 9 }) = (20, 10, 12, false) ∧
    tick (drawing 2900 { capCore := 9, capDuty := 9, calmTicks := 9 }) = (20, 9, 10, false) ∧
    tick (drawing 2900 { capCore := 9, withhold := true, calmTicks := 9 }) = (20, 16, 9, false) := by decide +kernel

theorem test_rail_overcurrent : tget 0 (after (.railOvercurrent 2) up).power.railSteps 2 = 1 ∧ (after (.railOvercurrent 2) up).sec.alertLow = true ∧
    bit (after (.railOvercurrent 2) up).power.status 50 = true ∧ 0 < railMax 2 ∧ (after (.railOvercurrent 2) up).pressDuty 5 = 15 ∧ railMax 13 = 0 := by decide +kernel
theorem test_rail_limiter_step : (let s := after (.railOvercurrent 2) up
    0 < tget 0 s.power.railSteps 2 ∧ tget 0 (after (.railLimiterStep 2 true) s).power.railSteps 2 = 2 ∧
    tget 0 (after (.railLimiterStep 2 false) s).power.railSteps 2 = 0 ∧
    ((after (.railLimiterStep 2 false) s).power.coalesced.map (fun c => c.since)) = [none]) := by decide +kernel
theorem test_droop : (after (.droop 4) up).clusterClock 4 = 10 ∧ (after (.droop 4) up).coreClock 4 = up.steadyCore 4 / 2 ∧ up.steadyCore 4 = 12 ∧
    (after (.droop 4) up).coreClock 5 = 12 ∧ (after (.droop 4) up).clusterClock 5 = 20 ∧
    tget 0 (after (.droop 4) (after (.droop 4) up)).power.droops 4 = 2 := by decide +kernel
theorem test_droop_release : (let s := after (.droop 4) up
    tget 0 s.power.droops 4 = 1 ∧ (after (.droopRelease 4) s).clusterClock 4 = 20 ∧ (after (.droopRelease 4) (after (.droop 4) s)).clusterClock 4 = 10) := by
  decide +kernel
theorem test_coalesce_window : (let s := { (after (.droopRelease 4) (after (.droop 5) (after (.droop 4) up))) with launchCounter := 9 }
    s.power.coalesced.length = 2 ∧ (after .throttleCoalesceWindow s).power.throttleNext = 2 ∧
    (after .throttleCoalesceWindow s).power.coalesced.map (fun c => (c.unit, c.since)) = [(5, some 9)]) := by decide +kernel

/-- Both halves in Split, with some heartbeats from the far agents. -/
def halvesS (w e : BitVec 5) : State := { up with power := { splitWest := true, splitEast := true, beatsWest := w, beatsEast := e, status := 1#64 <<< 58 } }
theorem test_heartbeats : (after (.heartbeat false true) (halvesS 15 16)).power.splitEnding = true ∧
    (after (.heartbeat true true) (halvesS 15 16)).power.splitEnding = false ∧ (after (.heartbeat true true) (halvesS 3 4)).power.beatsEast = 5 ∧
    after (.heartbeat true false) (halvesS 3 4) = halvesS 3 4 := by decide +kernel
theorem test_split_begins : up.inSplit true = false ∧ [Instr.splitNotice true, .heartbeatTimeout true false, .heartbeatTimeout true true].all (fun i =>
    let t := after i up
    t.inSplit true && !t.inSplit false && bit t.power.status 58 && t.throttled 8 2 2 && t.clusterClock 5 == 10 && t.coreClock 6 == 4 &&
      t.clusterClock 4 == 20) = true := by decide +kernel
def endingS (now : Word) : State :=
  { waiting with launchCounter := now, power := { splitWest := true, splitEast := true, splitEnding := true, westEpoch := 5, status := 1#64 <<< 58 } }
theorem test_split_release : (after .splitRelease (endingS 10000)).split = false ∧ (after .splitRelease (endingS 10000)).fabric.pendingGath = [] ∧
    (after .splitRelease (endingS 10000)).power.eastEpoch = (after .splitRelease (endingS 10000)).power.westEpoch ∧
    after .splitRelease (endingS 10001) = endingS 10001 := by decide +kernel
theorem test_split_timeout : (let s := { halvesS 0 0 with links := [(0, { status := 0x20 })] }
    s.split = true ∧ fld (s.linkEnd 0).status 7 4 = 2 ∧ ((after .splitTimeout s).linkEnd 1).flit.ordered = true ∧ up.split = false ∧
    after .splitTimeout up = up ∧ fld ((halvesS 0 0).linkEnd 0).status 7 4 ≠ 2 ∧ after .splitTimeout (halvesS 0 0) = halvesS 0 0) := by decide +kernel
/-- The sixteenth heartbeat ends Split; a half that misses heartbeats notifies the other, and Split begins again while its end waits. -/
theorem test_split_ends : (let t := after (.heartbeat false true) { halvesS 15 16 with power := { (halvesS 15 16).power with eastEpoch := 7 } }
    t.split = false ∧ bit t.power.status 58 = false ∧ t.power.eastEpoch = t.power.westEpoch ∧ t.inSplit true = true ∧
    (after (.splitNotice true) t).power.splitEnding = false ∧ bit (after (.splitNotice true) t).power.status 58 = true ∧
    (after (.heartbeatTimeout false true) up).power.noticeEast = true ∧ (after (.heartbeatTimeout true true) up).power.noticeWest = true ∧
    (after (.splitNotice true) (after (.heartbeatTimeout false true) up)).power.noticeEast = false) := by decide +kernel

/-- Power state, throttles of low flow and warm inlet, and cap. -/
def cooled (t : State) : Nat × Bool × Bool × Nat := (t.powerState, t.throttled 6 0 0, t.throttled 7 0 0, t.capInForce)
theorem test_coolant_sample : (let cooled := fun (flow inlet : BitVec 8) => cooled (after (.coolantSample flow inlet) (drawing 0))
    cooled 59 30 = (1, true, false, 200) ∧ cooled 60 45 = (1, false, false, 300) ∧ cooled 80 50 = (1, false, true, 270) ∧
    cooled 80 56 = (4, false, true, 210) ∧ fld ((after (.coolantSample 80 56) up).ctx 1).status 29 28 = 2 ∧
    bit (after (.coolantSample 60 16) { up with launchCounter := 1000000005, power := { flowSince := some 5 } }).power.status 57 = true) := by decide +kernel
theorem test_flow_loss : fld (drawing 0).power.status 19 12 < 40 ∧ (after .flowLoss (drawing 0)).throttled 6 0 0 = true ∧
    40 ≤ fld (after (.coolantSample 59 30) up).power.status 19 12 ∧
    after .flowLoss (after (.coolantSample 59 30) up) = after (.coolantSample 59 30) up ∧ (after .flowLoss (drawing 0)).powerState = 4 ∧
    fld ((after .flowLoss (drawing 0)).ctx 1).status 29 28 = 2 := by decide +kernel
theorem test_die_temperature : (after (.dieTemperatureSample 4 105) up).throttled 5 1 4 = true ∧ (after (.dieTemperatureSample 4 105) up).clusterClock 4 = 19 ∧
    (after (.dieTemperatureSample 4 104) up).throttled 5 1 4 = false ∧ (after (.dieTemperatureSample 4 102) (after (.dieTemperatureSample 4 105) up)).clusterClock 4 = 20 ∧
    (after (.dieTemperatureSample 4 115) up).powerState = 4 ∧ fld ((after (.dieTemperatureSample 4 115) up).ctx 1).status 29 28 = 2 := by decide +kernel
def warm : State := { up with stackTemp := [(5, 95)], power := { stackLevel := [(1, 2)] } }
theorem test_stack_temperature : warm.clusterClock 4 = 16 ∧ tget 0 (after (.stackTemperatureSample 5 93) warm).power.stackLevel 1 = 2 := by decide +kernel
theorem test_stack_temperature_stops : (after (.stackTemperatureSample 5 110) up).powerState = 4 := by decide +kernel
/-- A die that has cooled below 95 °C lets the module leave Doze. -/
theorem test_die_cools : (let s := still 2 { stopHold := 2, dieTemp := [(4, 96)] }
    bit s.power.stopHold 1 = true ∧ s.split = false ∧ (after (.dieTemperatureSample 4 94) s).mayWake = true ∧
    (after (.dieTemperatureSample 4 94) s).powerState = 5 ∧ bit (after (.dieTemperatureSample 4 94) s).power.stopHold 1 = false ∧
    (after (.dieTemperatureSample 4 95) s).powerState = 2) := by decide +kernel

/-! ### Timed mode and digests (R428-R442) -/

def timedE (on : Bool) : BitVec 512 := ent 0x61 1 (putb on 479)
/-- Enough budget, flow and a cool inlet, and a past breach in the register; or too little budget. -/
def timedS (on : Bool) (granted : BitVec 9 := 320) : State :=
  { adm (timedE on) with power := { granted := granted, status := 1#64 <<< 57 }, timed := BitVec.ofNat 128 (put 77 64 64 + put 3 4 58 + put 2 16 32),
                         clusters := [(5, { clock := .running })] }
theorem test_timed_mode : AdminReady (timedS true) false (timedE true) 0x61 ∧ (timedS true).timedBarred = false ∧
    AdminReady (timedS true 279) false (timedE true) 0x61 ∧ (timedS true 279).timedBarred = true ∧
    rejected (.timedMode false) (timedS true 279) (timedE true) 2 = true := by unfold AdminReady Ready; decide +kernel
def timedOff : State := { timedS false with timed := 3#128 <<< 62 }
theorem test_timed_mode_changes : (let t := after (.timedMode false) (timedS true)
    t.timed = BitVec.ofNat 128 (3 * 2 ^ 62 + 2 * 2 ^ 32) ∧ (t.cluster 4).clock = .running) ∧
    Ready timedOff 0 (timedE false) 0x61 ∧ Tbl.wf {} timedOff.clusters = true ∧
    (let t := after (.timedMode false) timedOff
     t.timed = 1#128 <<< 62 ∧ (t.cluster 5).clock = .clockGated) := by unfold Ready; decide +kernel

/-- A digest command of context 1: region, chunk size, record in host memory at 0x3000, Id 9. -/
def digE (x va len chunk : Nat) : BitVec 512 :=
  ent 0x64 1 (put x 12 468 + put va 48 420 + put len 40 380 + put chunk 5 375 + put 0x3000 48 327 + put 9 32 246 + putb true 245)
def digS (e : BitVec 512) (n : Nat) : State := { adm e with digests := List.replicate n { cmd := 0, gen := 0, next := 0, digests := [] } }
theorem test_region_digest : (let e := digE 1 0x40001000 4096 20
    AdminReady (digS e 7) false e 0x64 ∧ digestOk e = true ∧ fld ((digS e 7).ctx 1).status 29 28 = 1 ∧
    accepted (.regionDigest false) (digS e 7) e = true ∧ (after (.regionDigest false) (digS e 7)).digests.length = 8 ∧
    rejected (.regionDigest false) (digS e 8) e 3 = true) := by unfold AdminReady Ready; decide +kernel
theorem test_region_digest_rejected : (let e := digE 1 0x40001000 4097 20
    let u := digE 6 0x40001000 4096 20
    AdminReady (digS e 0) false e 0x64 ∧ digestOk e = false ∧ rejected (.regionDigest false) (digS e 0) e 1 = true ∧
    AdminReady (digS u 0) false u 0x64 ∧ digestOk u = true ∧ fld ((digS u 0).ctx 6).status 29 28 ≠ 1 ∧
    rejected (.regionDigest false) (digS u 0) u 2 = true) := by unfold AdminReady Ready; decide +kernel

/-- A digest under way with chunks of one sector: the bytes at 0x40001000 are 0x1001 and a leaf entry. -/
def digesting (va len : Nat) : State := { withQ [] with digests := [{ cmd := digE 1 va len 7, gen := 0, next := 0, digests := [] }] }
def readOk (s : State) (va : Nat) : Bool := match (State.digestRead 1 1 va s).1 with | .ok bs => bs.length == 128 | .error _ => false
theorem test_digest_chunk : readOk (digesting 0x40001000 256) 0x40001000 = true ∧ (digesting 0x40001000 256).tracksVA 1 0x40001000 128 = false ∧ Dig.chunks (digE 1 0x40001000 256 7) = 2 ∧
    ((after .digestChunkDone (digesting 0x40001000 256)).digests.map (fun j => (j.next, j.digests.map leNat))) =
      [(1, [0xe887b23bcabe62359ffbf53fff55495496a88b20f5216306898842938616c5e0c1fb2e4681fcacf2956df02538e0c44c])] := by
  decide +kernel
theorem test_digest_ends : readOk (digesting 0x40001000 128) 0x40001000 = true ∧ (digesting 0x40001000 128).tracksVA 1 0x40001000 128 = false ∧
    (digesting 0x80000000 128).tracksVA 1 0x80000000 128 = false ∧ Dig.chunks (digE 1 0x40001000 128 7) = 1 ∧
    (after .digestChunkDone (digesting 0x40001000 128)).digests = [] ∧
    (after .digestChunkDone (digesting 0x40001000 128)).host.stream.map (fun w => (w.addr, leNat w.bytes)) =
      [(0x3000, put 1 8 504 + put 9 32 464 + put 1 32 432 + 0x95acbe4e98a43e76c8a2ab39acf14f3ec61343a95932cef3611e342379dc32868c677891f133aa41ce715f43d2691ff8)] ∧
    (match (State.digestRead 1 1 0x80000000 (digesting 0x80000000 128)).1 with | .error e => e == (2, 0x80000000) | .ok _ => false) = true ∧
    (after .digestChunkDone (digesting 0x80000000 128)).host.stream.map (fun w => leNat w.bytes) =
      [put 2 8 504 + put 9 32 464 + put 1 32 432 + put 0x80000000 48 384] := by
  decide +kernel
/-- A chunk whose sector is under ordered reduction waits (R238). -/
theorem test_digest_waits : (let d := digesting 0x40001000 256
    let s := { d with west := { d.west with reds := [{ pa := 0x1000, ctx := 1, redId := 0, count := 2, next := 1 }] } }
    s.tracksVA 1 0x40001000 128 = true ∧ (after .digestChunkDone s).digests = s.digests ∧ (after .digestChunkDone s).sh = s.sh) := by decide +kernel

/-! ### Start-up, identity, test access and sideband (R443-R472) -/

def powered : State := { State.reset with sec := { modEn := true } }
theorem test_cold_start : powered.coldStep = 0 ∧ (after .coldStart powered).coldStep = 1 ∧ (after .coldStart powered).starting = true ∧
    (after .coldStart powered).sec.railsUp = [0xD] ∧ after .coldStart up = up ∧ State.reset.sec.modEn = false ∧
    after .coldStart State.reset = State.reset := by decide +kernel
theorem test_input_loss : (let s := { up with launchCounter := 9, sec := { flash := [(4, 7)], idKey := some 3 } }
    (after .inputLoss s).sec.flash = [(4, 7)] ∧ (after .inputLoss s).sec.idKey = none ∧ (after .inputLoss s).coldStep = 0 ∧
    (after .inputLoss s).launchCounter = 0 ∧ (after .inputLoss s).ctxs = []) := by decide +kernel
def enabled : State := { up with sec := { modEn := true } }
theorem test_mod_en_fall : enabled.coldStep ≠ 0 ∧ (after .modEnFall enabled).sec.shutting = true ∧
    fld ((after .modEnFall enabled).ctx 1).status 29 28 = 2 ∧ (after .modEnFall enabled).refuseWork = true ∧
    (after .modEnFall { enabled with west := { lines := [(16, { valid := 3 })] } }).west.lines.all (fun p => p.2.valid == 0) = true ∧
    (after .modEnFall { enabled with mem := [(9, 1)], starting := true }).mem = [] ∧ (after .modEnFall { enabled with starting := true }).starting = false ∧
    (after .modEnFall enabled).sec.railsUp = [0xD] ∧ (after .modEnFall powered).sec.modEn = false ∧ (after .modEnFall powered).sec.shutting = false := by decide +kernel
theorem test_mod_en_rise : (after .modEnFall enabled).sec.shutting = true ∧ (after .modEnRise (after .modEnFall enabled)).coldStep = 1 ∧
    bit (after .modEnRise (after .modEnFall enabled)).sec.alert 0 = true ∧
    up.sec.shutting = false ∧ (after .modEnRise up).sec.modEn = true ∧ (after .modEnRise up).coldStep = 15 := by decide +kernel

/-- A cold start in which a step has run. -/
def startingAt (step : BitVec 4) (flow : Bool := true) : State :=
  { State.reset with coldStep := step, starting := true, power := { status := BitVec.ofNat 64 (putb flow 57) }, sec := { verified := true } }
def settled (ls : List Nat) (step : BitVec 4) : State := { startingAt step with links := ls.map (fun l => (2 * l, { status := 0x20 })) }
theorem test_cold_steps : (let stepOf := fun (s : State) => (after (.coldStartStep {}) s).coldStep.toNat
    stepOf (startingAt 1) = 2 ∧ stepOf (startingAt 2 false) = 2 ∧ stepOf (startingAt 2) = 3 ∧ (startingAt 3).modState ≠ 2 ∧
    stepOf (startingAt 3) = 4 ∧ (startingAt 6).modState ≠ 3 ∧ stepOf (startingAt 6) = 7 ∧ stepOf (startingAt 7) = 8 ∧
    stepOf { startingAt 8 with channels := [(3, { status := 0x10 })] } = 8 ∧ (settled [3, 4, 5, 6] 10).linksSettled [3, 4, 5, 6] = true ∧
    stepOf (settled [3, 4, 5, 6] 10) = 11 ∧ (startingAt 11).coldStep = 11 ∧ (startingAt 11).starting = true ∧ stepOf (startingAt 12) = 15) := by decide +kernel
theorem test_cold_step_effects :
    bit (after (.coldStartStep { selfTestFail := 2 }) (startingAt 3)).power.status 59 = true ∧
    fld (after (.coldStartStep {}) (startingAt 3)).west.part 11 8 = 8 ∧
    (after (.coldStartStep {}) (startingAt 12)).modState = 1 := by decide +kernel
-- a port with a marked lane fails its link at step 3; every port that ran clean has passed
theorem test_cold_loop_back : (let t := after (.coldStartStep { loopBack := [{ port := 2, marks := [(1, 5)] }] }) (startingAt 2)
    (fld (t.linkEnd 2).status 7 4, fld (t.linkEnd 3).status 7 4, (t.linkEnd 4).tested, fld (t.linkEnd 4).status 7 4) = (3, 3, true, 4)) := by
  decide +kernel

/-- The fabric manager updates the flash: an update in a state, and in module state 1 or 3. -/
def updatingS (u : BitVec 4) (st : BitVec 4 := 1) : State :=
  { up with modState := st, fabric := { e2e := { up := true } }, sec := { update := u, full := [1, 2, 3], imageLen := 6000, flash := [(5000, 7), (70000, 7)] } }
/-- What a command answers: Update and Detail, then the last reply. -/
def answered (t : State) : List Nat := [t.sec.update.toNat, t.sec.detail.toNat] ++ (t.fabric.replies.flatten.map BitVec.toNat)
theorem test_ep_begin : [0, 4, 5, 6].all (fun u => answered (after (.epBegin 99 5) (updatingS u)) == [1, 0, 1, 0]) = true ∧
    [1, 2, 3].all (fun u => (answered (after (.epBegin 99 5) (updatingS u))).drop 3 == [8]) = true ∧
    (after (.epBegin 99 5) (updatingS 0)).sec.stagedLen = 99 := by decide +kernel
theorem test_ep_data : answered (after (.epData 512 [7, 8]) (updatingS 1)) = [1, 0, 1, 0] ∧
    readBytes (after (.epData 512 [7, 8]) (updatingS 1)).sec.staged 512 2 = [7, 8] ∧ (after (.epData 512 [7, 8]) (updatingS 1)).sec.stagedEnd = 514 ∧
    answered (after (.epData 512 [7, 8]) (updatingS 2)) = [2, 0, 2, 8] ∧ answered (after (.epData 511 [7, 8]) (updatingS 1)) = [1, 0, 1, 8] ∧
    answered (after (.epData 512 []) (updatingS 1)) = [1, 0, 1, 8] ∧ answered (after (.epData 512 (List.replicate 513 0)) (updatingS 1)) = [1, 0, 1, 8] := by
  decide +kernel
/-- In recovery the image is staged in the West scratchpad too. -/
theorem test_ep_data_recovery : (let s := { updatingS 1 3 with west := { part := 0x800 } }
    s.west.scratchWays = 8 ∧ s.west.reds = [] ∧ s.west.trans = [] ∧ s.west.bad = [] ∧
    (after (.epData 512 [7, 8]) s).viewByte (scratchBase + 513) = 8) := by decide +kernel
theorem test_ep_end_abort_status : answered (after .epEnd (updatingS 1)) = [2, 0, 2, 0] ∧ answered (after .epEnd (updatingS 2)) = [2, 0, 2, 8] ∧
    answered (after .epAbort (updatingS 2)) = [0, 0, 0, 0] ∧ answered (after .epAbort (updatingS 3)) = [3, 0, 3, 8] ∧
    answered (after .epStatus (updatingS 6)) = [6, 0, 6, 0] := by decide +kernel
/-- The digest of no bytes is not 0, so an image of none whose digest is given as 0 is rejected with Detail 1. -/
theorem test_ep_verify : answered (after .endpaperVerifyDone (updatingS 2)) = [5, 1] := by decide +kernel
theorem test_ep_programming : (let t := after (.endpaperProgrammingDone .written) (updatingS 3)
    flashBytes t.sec.flash 0 4 = [1, 2, 3, 0xFF] ∧ tget 0xFF t.sec.flash 5000 = 0xFF ∧ tget 0xFF t.sec.flash 70000 = 7 ∧ t.sec.imageLen = 3 ∧
    answered t = [4, 0]) ∧
    (updatingS 3 3).modState = 3 ∧ (after (.endpaperProgrammingDone .written) (updatingS 3 3)).coldStep = 2 ∧
    answered (after (.endpaperProgrammingDone .programError) (updatingS 3)) = [6, 6] ∧
    answered (after (.endpaperProgrammingDone .readBackMismatch) (updatingS 3)) = [6, 7] := by decide +kernel

/-- Evidence asked for with nonce 5 into host memory at 0x3000. -/
def attestE : BitVec 512 := ent 0x68 1 (put 5 256 224 + put 0x3000 48 176 + putb true 175)
def attestS (key : Option (BitVec 384)) : State := { adm attestE with host := { attach := 2, moduleId := 0x1122 }, sec := { idKey := key, meas := [(2, 6)] } }
theorem test_attest : AdminReady (attestS (some 9)) false attestE 0x68 ∧ (attestS (some 9)).host.attach = 2 ∧ bit attestE 175 = true ∧
    AdminReady (attestS none) false attestE 0x68 ∧ rejected (.attest false) (attestS none) attestE 2 = true := by unfold AdminReady Ready; decide +kernel
theorem test_attest_evidence : (let bs := ((attestS (some 9)).evidence (leBytes 32 5) 9).1
    (leAt bs 0 4, leAt bs 8 8, leAt bs 0x20 32, leAt bs 0xA0 48) = (0xA5C30419, 0x1122, 5, 6)) := by decide +kernel
/-- What goes to the host is cut at multiples of the max payload size. -/
theorem test_host_payload : (up.hostSendAll 0x3010 (List.replicate 200 7)).host.stream.map (fun w => (w.addr.toNat, w.bytes.length)) =
    [(0x3010, 112), (0x3080, 88)] := by decide +kernel
def extendE : BitVec 512 := ent 0x69 1 (put 5 384 96)
-- the SHA-384 digest of 48 bytes of 0 and 48 bytes that hold 5
def extended5 : BitVec 384 := 0xefa35c7e26b7e5dbafb5b461d2674a1f91fc56065578e654bc451d51b6e03380353f37a20f0a2f409031db1d442bdf1f
theorem test_measure_extend : AdminReady (adm extendE) false extendE 0x69 ∧ accepted (.measureExtend false) (adm extendE) extendE = true ∧
    tget 0 (after (.measureExtend false) (adm extendE)).sec.meas 7 = extended5 := by unfold AdminReady Ready; decide +kernel
theorem test_measure_register : (let s := { up with cores := [(3, { mode := 3 }), (4, { mode := 0 })] }
    (s.core 3).mode = 3 ∧ (s.core 4).mode ≠ 3 ∧
    after (.measureExtendRegister 4 5) s = s) := by decide +kernel

def locked (unlock : BitVec 4) (tries : BitVec 4 := 3) : State := { up with sec := { unlock := unlock, tries := tries, boundary := [true] } }
theorem test_port_bypassed : (after (.bypass true) (locked 0)).sec.shiftOut = [false] ∧
    (after (.ijtag [true, false]) (locked 0)).sec.shiftOut = [false, true] ∧ (after (.intest [true]) (locked 1)).sec.ir = 0xFF ∧
    (locked 0 0).sec.tries = 0 ∧ (after (.unlockToken [3]) (locked 0 0)).sec.shiftOut = [false, true, true, false, false, false, false, false] := by decide +kernel
theorem test_idcode : leNat ([0, 8, 16, 24].map (fun i => BitVec.ofNat 8 (((after .idcode (locked 0)).sec.shiftOut.drop i).take 8 |>.foldr
    (fun b a => 2 * a + b.toNat) 0))) = 0x20416B47 := by decide +kernel
theorem test_boundary : (after (.samplePreload [true] [false]) (locked 0)).sec.boundary = [false] ∧
    (after (.samplePreload [true] [false]) (locked 0)).sec.shiftOut = [true] ∧ (after (.extest [true] [false]) (locked 0)).sec.pins = [false] := by decide +kernel
theorem test_unlock : (after .unlockChal (locked 0)).sec.shiftOut.length = 288 ∧ (locked 0).tokenOk [] = false ∧
    (after (.unlockToken []) (locked 0)).sec.tries = 2 ∧ (after (.unlockToken []) (locked 0)).sec.lastResult = 2 := by decide +kernel
theorem test_unlocked_networks : (locked 1).sec.unlock ≠ 0 ∧ 2 ≤ (locked 2).sec.unlock.toNat ∧ (after (.intest [true]) (locked 2)).sec.ir = 0x04 := by
  decide +kernel

theorem test_sideband_reads : (let s := { up with host := { moduleId := 0x1122 }, sec := { alert := 6, alertLow := true } }
    s.coldStep ≠ 0 ∧ (after .smbusPowerStatus s).sec.smbus.length = 8 ∧ (after .smbusIdentity s).sec.smbus.take 2 = [0x22, 0x11] ∧
    (after .smbusIdentity (startingAt 3)).sec.smbus = List.replicate 32 0 ∧ (after .smbusModuleState s).sec.smbus = [0xF1] ∧
    pec [0x31, 0x32, 0x33, 0x34, 0x35, 0x36, 0x37, 0x38, 0x39] = 0xF4 ∧ (after .smbusModuleState s).sec.smbusPec = pec [0xC4, 3, 0xC5, 0xF1] ∧
    (after .smbusAlertCause s).sec.smbus = [6] ∧ (after .smbusAlertCause s).sec.alert = 0) := by decide +kernel
theorem test_sideband_alert : (let s := { up with sec := { alert := 6, alertLow := true } }
    (after .smbusAlertResponse s).sec.smbus = [0xC4] ∧ (after .smbusAlertResponse s).sec.alertLow = false ∧ (after .smbusAlertResponse s).sec.alert = 6 ∧
    up.sec.alertLow = false ∧ after .smbusAlertResponse up = up) := by decide +kernel

end Sys2Proof.Tests
end

section
/-!
SUPPORT. How a lane instruction of a thread group completes: the lanes of a mask, what each operation of a group changes and leaves,
and the frame of an instruction that writes registers only (R128, R134-R136, R143).
-/

namespace Sys2Proof.Machine

/-! ### Lanes of a mask -/

theorem mem_lanesOf {m : BitVec 32} {l : Nat} : l ∈ lanesOf m ↔ l < 32 ∧ m.getLsbD l = true := by
  simp [lanesOf]

theorem lanesOf_pairwise_lt (m : BitVec 32) : (lanesOf m).Pairwise (· < ·) := List.pairwise_lt_range.filter _

theorem lanesOf_nodup (m : BitVec 32) : (lanesOf m).Nodup := List.nodup_range.filter _

theorem getLsbD_foldl_or_shiftLeft (ls : List Nat) (k : Nat) : ∀ m : BitVec 32,
    (ls.foldl (fun m l => m ||| (1#32 <<< l)) m).getLsbD k = (m.getLsbD k || decide (k < 32 ∧ k ∈ ls)) := by
  induction ls with
  | nil => simp
  | cons l ls ih =>
    intro m
    have hone : (1#32 <<< l).getLsbD k = decide (k < 32 ∧ k = l) := by
      rw [BitVec.getLsbD_shiftLeft, BitVec.getLsbD_one, Bool.eq_iff_iff]
      simp only [Bool.and_eq_true, Bool.not_eq_true', decide_eq_true_eq, decide_eq_false_iff_not]
      omega
    simp only [List.foldl_cons, ih, BitVec.getLsbD_or, hone, Bool.or_assoc, List.mem_cons, and_or_left, Bool.decide_or]

/-- A mask put together from numbers has the bits of those that are lanes of a group (R160). -/
theorem maskOf_getLsbD (ls : List Nat) (k : Nat) : (maskOf ls).getLsbD k = decide (k < 32 ∧ k ∈ ls) := by
  simp [maskOf, getLsbD_foldl_or_shiftLeft]

/-- The first of rising numbers is the lowest of them. -/
theorem head?_eq_some_iff_of_pairwise_lt {ls : List Nat} (h : ls.Pairwise (· < ·)) {l : Nat} (hl : l ∈ ls) :
    ls.head? = some l ↔ ∀ m ∈ ls, l ≤ m := by
  cases ls with
  | nil => simp at hl
  | cons a ls =>
    have ha := (List.pairwise_cons.mp h).1
    rw [List.head?_cons, Option.some.injEq]
    constructor
    · rintro rfl m hm
      rcases List.mem_cons.mp hm with rfl | hm
      · exact Nat.le_refl _
      · exact Nat.le_of_lt (ha m hm)
    · intro hmin
      rcases List.mem_cons.mp hl with rfl | hl
      · rfl
      · exact absurd (ha l hl) (Nat.not_lt.mpr (hmin a List.mem_cons_self))

/-! ### Registers of a group -/

@[simp] theorem Group.getX_zero (a : Group) (l : Nat) : a.getX l 0 = 0 := rfl

theorem Group.setX_rest (a : Group) (l r : Nat) (v : Word) : a.setX l r v = { a with x := (a.setX l r v).x } := by
  unfold Group.setX; split <;> rfl

theorem Group.getX_setX (a : Group) {l r l' r' : Nat} (v : Word) (hr : r < 32) (hr' : r' < 32) :
    (a.setX l r v).getX l' r' = if r' = r ∧ r' ≠ 0 ∧ l' = l then v else a.getX l' r' := by
  by_cases h0 : r' = 0
  · simp [h0]
  by_cases hz : r = 0
  · rw [if_neg (by omega), Group.setX, if_pos hz]
  simp only [Group.setX, if_neg hz, Group.getX, if_neg h0]
  split
  · next h => rw [h.1, h.2.2, tget_tput_same]
  · next h => exact tget_tput_other _ _ _ (by omega)

theorem Group.setAll_cons (a : Group) (l : Nat) (ls : List Nat) (r : Nat) (v : Nat → Word) :
    a.setAll (l :: ls) r v = (a.setX l r (v l)).setAll ls r v := rfl

/-- Writing a register of some lanes changes integer registers alone. -/
theorem Group.setAll_rest (ls : List Nat) (r : Nat) (v : Nat → Word) : ∀ a : Group,
    a.setAll ls r v = { a with x := (a.setAll ls r v).x } := by
  induction ls with
  | nil => exact fun a => rfl
  | cons l ls ih =>
    intro a
    rw [Group.setAll_cons, ih, Group.setX_rest]

theorem Group.getX_setAll (ls : List Nat) {r l' r' : Nat} (v : Nat → Word) (hr : r < 32) (hr' : r' < 32) : ∀ a : Group,
    (a.setAll ls r v).getX l' r' = if r' = r ∧ r' ≠ 0 ∧ l' ∈ ls then v l' else a.getX l' r' := by
  induction ls with
  | nil => simp [Group.setAll]
  | cons l ls ih =>
    intro a
    rw [Group.setAll_cons, ih, Group.getX_setX _ _ hr hr']
    by_cases hlater : r' = r ∧ r' ≠ 0 ∧ l' ∈ ls
    · obtain ⟨hreg, hx0, hmem⟩ := hlater
      rw [if_pos ⟨hreg, hx0, hmem⟩, if_pos ⟨hreg, hx0, List.mem_cons_of_mem _ hmem⟩]
    rw [if_neg hlater]
    by_cases hfirst : r' = r ∧ r' ≠ 0 ∧ l' = l
    · obtain ⟨hreg, hx0, rfl⟩ := hfirst
      rw [if_pos ⟨hreg, hx0, rfl⟩, if_pos ⟨hreg, hx0, List.mem_cons_self⟩]
    · rw [if_neg hfirst, if_neg]
      rintro ⟨hreg, hx0, hmem⟩
      rcases List.mem_cons.mp hmem with hl | hl
      · exact hfirst ⟨hreg, hx0, hl⟩
      · exact hlater ⟨hreg, hx0, hl⟩

theorem iRd_lt (w : BitVec 32) : iRd w < 32 := Nat.mod_lt _ (by decide)

/-! ### Going on to the next instruction -/

/-- Noting an issue changes the livelock count and the marks of the entries alone (R143). -/
theorem Group.noteIssue_rest (a : Group) (e : Entry) :
    a.noteIssue e = { a with acqFails := (a.noteIssue e).acqFails, stack := (a.noteIssue e).stack } := by
  unfold Group.noteIssue; split <;> rfl

@[simp] theorem Group.noteIssue_getX (a : Group) (e : Entry) (l r : Nat) : (a.noteIssue e).getX l r = a.getX l r := by
  rw [Group.noteIssue_rest]; rfl

theorem Group.settleAcq_rest (a : Group) : a.settleAcq = { a with acqFails := a.settleAcq.acqFails, stack := a.settleAcq.stack } := by
  unfold Group.settleAcq; split <;> rfl

theorem Group.settleAcq_stack_congr {a b : Group} (h : a.stack = b.stack) : a.settleAcq.stack = b.settleAcq.stack := by
  simp only [Group.settleAcq, h]; split <;> simp [h]

theorem Group.joined_congr {a b : Group} (h : a.stack = b.stack) (e : Entry) : a.joined e = b.joined e := by
  simp only [Group.joined, h]

/-- An entry that goes on changes the stack and the livelock count alone. -/
theorem Group.advance_rest (a : Group) (e : Entry) :
    a.advance e = { a with acqFails := (a.advance e).acqFails, stack := (a.advance e).stack } := Group.settleAcq_rest _

/-- Where an entry goes on to depends on the stack alone. -/
theorem Group.advance_stack_congr {a b : Group} (h : a.stack = b.stack) (e : Entry) : (a.advance e).stack = (b.advance e).stack := by
  apply Group.settleAcq_stack_congr
  simp only [Group.joined_congr h, h]

/-! ### Retired instructions -/

/-- One more retired instruction for each lane of a list. -/
def retireLanes (ls : List Nat) (t : Tbl Word) : Tbl Word := ls.foldl (fun t l => tput 0 t l (tget 0 t l + 1)) t

theorem Group.retire_eq (a : Group) (m : BitVec 32) : a.retire m = { a with instret := retireLanes (lanesOf m) a.instret } := by
  have h : ∀ (ls : List Nat) (a : Group), ls.foldl (fun g l => { g with instret := tput 0 g.instret l (tget 0 g.instret l + 1) }) a =
      { a with instret := retireLanes ls a.instret } := by
    intro ls
    induction ls with
    | nil => exact fun a => rfl
    | cons l ls ih => exact fun a => ih _
  exact h _ a

theorem tget_retireLanes (l' : Nat) {ls : List Nat} (h : ls.Nodup) : ∀ t : Tbl Word,
    tget 0 (retireLanes ls t) l' = tget 0 t l' + if l' ∈ ls then 1 else 0 := by
  induction ls with
  | nil => simp [retireLanes]
  | cons l ls ih =>
    intro t
    obtain ⟨hl, hls⟩ := List.nodup_cons.mp h
    have hcons : retireLanes (l :: ls) t = retireLanes ls (tput 0 t l (tget 0 t l + 1)) := rfl
    rw [hcons, ih hls]
    by_cases hll : l' = l
    · subst hll; simp [hl]
    · rw [tget_tput_other _ _ _ hll]; simp [hll]

/-! ### Frames -/

theorem OnlyCluster.trans {s t u : State} {c : Nat} (h : OnlyCluster s t c) (k : OnlyCluster t u c) : OnlyCluster s u c := by
  obtain ⟨hs, hc⟩ := h
  obtain ⟨ks, kc⟩ := k
  refine ⟨?_, fun d hd => (kc d hd).trans (hc d hd)⟩
  rw [← ks] at hs
  exact hs

theorem OnlyGroup.trans {s t u : State} {c g : Nat} (h : OnlyGroup s t c g) (k : OnlyGroup t u c g) : OnlyGroup s u c g := by
  obtain ⟨hc, hs, hg⟩ := h
  obtain ⟨kc, ks, kg⟩ := k
  refine ⟨hc.trans kc, ?_, fun i hi => (kg i hi).trans (hg i hi)⟩
  rw [← ks] at hs
  exact hs

theorem State.modGroup_onlyGroup (s : State) (c g : Nat) (f : Group → Group) : OnlyGroup s (s.modGroup c g f) c g := by
  refine ⟨⟨rfl, fun d hd => s.modGroup_cluster_other g f hd⟩, ?_, fun i hi => s.modGroup_group_other c f hi⟩
  rw [State.modGroup, State.modCluster_cluster_same]
  rfl

/-! ### Completing a lane instruction -/

/-- The state in which a lane instruction that issues does its work: its issue is noted (R143). -/
def State.issued (s : State) (i : LC) : State := s.modGroup i.c i.g (fun k => k.noteIssue i.e)

/-- A group that issues a word of a row does the work of that row. -/
theorem Issues.laneStep {s : State} {i : LC} (h : Issues s i) {row : LaneRow → Bool} (hrow : row (laneRow i.w) = true)
    (f : State → LC → State) : s.laneStep i.c i.g row f = f (s.issued i) i := by
  obtain ⟨hfetch, htrap⟩ := h
  have htrap' : (exactTraps i.w && bit ((s.modGroup i.c i.g (fun k => k.noteIssue i.e)).ctx i.ctx).status 4) = false := htrap
  simp only [State.laneStep, hfetch, hrow, htrap', Bool.not_true, Bool.false_eq_true, if_false]
  rfl

/-- Of a group that changes from `a` to `b`, nothing differs but registers. -/
def Group.RegistersOnly (a b : Group) : Prop := b = { a with x := b.x, f := b.f, fcsr := b.fcsr }

theorem Group.setAll_registersOnly (a : Group) (ls : List Nat) (r : Nat) (v : Nat → Word) : a.RegistersOnly (a.setAll ls r v) := by
  rw [Group.setAll_rest]; rfl

/-- A group whose instruction has written registers alone, retired and gone on. -/
theorem Group.advance_retire_of_registersOnly {a k : Group} {e : Entry} (h : (a.noteIssue e).RegistersOnly k) (m : BitVec 32) :
    (k.retire m).advance e =
      { a with x := k.x, f := k.f, fcsr := k.fcsr, instret := retireLanes (lanesOf m) a.instret,
               stack := ((a.noteIssue e).advance e).stack, acqFails := ((k.retire m).advance e).acqFails } := by
  have hnote : { a.noteIssue e with x := k.x, f := k.f, fcsr := k.fcsr } =
      { a with x := k.x, f := k.f, fcsr := k.fcsr, stack := (a.noteIssue e).stack, acqFails := (a.noteIssue e).acqFails } := by
    rw [Group.noteIssue_rest]
  have hk := h.trans hnote
  have hstack : ((k.retire m).advance e).stack = ((a.noteIssue e).advance e).stack := by
    apply Group.advance_stack_congr
    rw [Group.retire_eq, hk]
  rw [Group.advance_rest, hstack, Group.retire_eq, hk]

theorem State.finish_onlyGroup (s : State) (i : LC) (F : Group → Group) : OnlyGroup s ((s.issued i).finish i F) i.c i.g :=
  (s.modGroup_onlyGroup _ _ _).trans (State.modGroup_onlyGroup _ _ _ _)

theorem State.finish_group (s : State) (i : LC) (F : Group → Group) :
    ((s.issued i).finish i F).group i.c i.g = ((F ((s.group i.c i.g).noteIssue i.e)).retire i.e.mask).advance i.e := by
  simp [State.finish, State.issued]

/-- An instruction whose work writes registers alone goes on as every lane instruction does, and leaves the registers its work has left. -/
theorem State.finish_of_registersOnly (s : State) (i : LC) (F : Group → Group)
    (h : ((s.group i.c i.g).noteIssue i.e).RegistersOnly (F ((s.group i.c i.g).noteIssue i.e))) :
    WentOn s ((s.issued i).finish i F) i ∧
    let b := ((s.issued i).finish i F).group i.c i.g
    let k := F ((s.group i.c i.g).noteIssue i.e)
    b.x = k.x ∧ b.f = k.f ∧ b.fcsr = k.fcsr := by
  have hb := s.finish_group i F
  rw [Group.advance_retire_of_registersOnly h] at hb
  unfold WentOn
  rw [hb]
  exact ⟨⟨rfl, rfl, rfl, rfl, fun l => tget_retireLanes l (lanesOf_nodup _) _, rfl⟩, rfl, rfl, rfl⟩

/-- An instruction that gives register `rd` of the lanes of its entry the values `v` is done as a lane instruction that writes an integer
register and nothing else. -/
theorem State.finish_setAll_laneDone (s : State) (i : LC) {rd : Nat} (hrd : rd < 32) (v : Nat → Word) :
    LaneDone s ((s.issued i).finish i (fun k => k.setAll i.lanes rd v)) i rd v := by
  have hregs := ((s.group i.c i.g).noteIssue i.e).setAll_registersOnly i.lanes rd v
  have hnote := (s.group i.c i.g).noteIssue_rest i.e
  obtain ⟨hwent, hx, hf, hfcsr⟩ := s.finish_of_registersOnly i (fun k => k.setAll i.lanes rd v) hregs
  refine ⟨s.finish_onlyGroup i _, hwent, fun l r hr => ?_, hf.trans ?_, hfcsr.trans ?_⟩
  · have hget := Group.getX_setAll i.lanes v hrd hr (l' := l) ((s.group i.c i.g).noteIssue i.e)
    rw [Group.noteIssue_getX] at hget
    rw [← hget, Group.getX, Group.getX, hx]
  · rw [Group.setAll_rest, hnote]
  · rw [Group.setAll_rest, hnote]

/-- The values that a completed instruction has written count for the active lanes alone. -/
theorem LaneDone.congr {s t : State} {i : LC} {rd : Nat} {v w : Nat → Word} (h : LaneDone s t i rd v) (hvw : ∀ l ∈ i.lanes, v l = w l) :
    LaneDone s t i rd w := by
  obtain ⟨honly, hwent, hwrites, hf, hfcsr⟩ := h
  refine ⟨honly, hwent, fun l r hr => ?_, hf, hfcsr⟩
  rw [hwrites l r hr]
  split
  · next hc => exact hvw l hc.2.2
  · rfl

end Sys2Proof.Machine
end

section
/-!
SUPPORT and the proof of O17. Votes and shuffles of a thread group (R164, R165): what each row gives an active lane, in the terms of
the spec's table "Group instructions".
-/

namespace Sys2Proof.Machine

/-! ### Every group instruction -/

@[simp] theorem LC.rs1_noteIssue (i : LC) (a : Group) (e : Entry) (l : Nat) : i.rs1 (a.noteIssue e) l = i.rs1 a l := a.noteIssue_getX e l _
@[simp] theorem LC.rs2_noteIssue (i : LC) (a : Group) (e : Entry) (l : Nat) : i.rs2 (a.noteIssue e) l = i.rs2 a l := a.noteIssue_getX e l _

/-- A group instruction that issues writes the row's values into rd of the active lanes, from the registers the group then holds. -/
theorem Issues.vote_laneDone {s : State} {i : LC} (h : Issues s i) {c : BitVec 7} {g : BitVec 6} (hc : i.c = c.toNat) (hg : i.g = g.toNat)
    {row : LaneRow} (hrow : laneRow i.w = row) (f : LC → Group → Nat → Word) :
    LaneDone s (s.vote c g row f) i (iRd i.w) (f i ((s.group i.c i.g).noteIssue i.e)) := by
  have hvote : s.vote c g row f =
      (s.issued i).finish i (fun k => k.setAll i.lanes (iRd i.w) (f i ((s.issued i).group i.c i.g))) := by
    rw [State.vote, ← hc, ← hg, h.laneStep (by simp [hrow])]
  have hgroup : (s.issued i).group i.c i.g = (s.group i.c i.g).noteIssue i.e := State.modGroup_group_same ..
  rw [hvote, hgroup]
  exact s.finish_setAll_laneDone i (iRd_lt _) _

/-- So a command that runs a group instruction gives the state in which it is done with any values that agree with the row's on the
active lanes. -/
theorem Issues.gives_vote {s : State} {i : LC} (h : Issues s i) {c : BitVec 7} {g : BitVec 6} (hc : i.c = c.toNat) (hg : i.g = g.toNat)
    {row : LaneRow} (hrow : laneRow i.w = row) {f : LC → Group → Nat → Word} {cmd : Instr} (hexec : exec cmd s = .next (s.vote c g row f))
    {v : Nat → Word} (hv : ∀ l ∈ i.lanes, f i ((s.group i.c i.g).noteIssue i.e) l = v l) :
    Gives cmd s (fun t => LaneDone s t i (iRd i.w) v) :=
  ⟨_, hexec, (h.vote_laneDone hc hg hrow f).congr hv⟩

theorem Gives.imp {cmd : Instr} {s : State} {P Q : State → Prop} (h : Gives cmd s P) (hPQ : ∀ t, P t → Q t) : Gives cmd s Q := by
  obtain ⟨t, ht, hp⟩ := h
  exact ⟨t, ht, hPQ t hp⟩

/-! ### The values of the rows -/

theorem foldl_add_eq_sum_map (ls : List Nat) (x : Nat → Word) : ls.foldl (fun a m => a + x m) 0 = (ls.map x).sum := by
  rw [List.sum_eq_foldl, List.foldl_map]

/-- Going through values and keeping the later where its key is less ends with one of them whose key is least. -/
theorem foldl_keep_least (key : Word → Int) (vs : List Word) : ∀ v : Word,
    let m := vs.foldl (fun a x => if key x < key a then x else a) v
    m ∈ v :: vs ∧ ∀ x ∈ v :: vs, key m ≤ key x := by
  induction vs with
  | nil => simp
  | cons w vs ih =>
    intro v m
    obtain ⟨hmem, hle⟩ := ih (if key w < key v then w else v)
    obtain ⟨hu, hvs⟩ := List.forall_mem_cons.mp hle
    have hkept : key (if key w < key v then w else v) ≤ min (key v) (key w) := by
      split <;> omega
    have hm := Int.le_trans hu hkept
    have hv := Int.le_trans hm (Int.min_le_left ..)
    have hw := Int.le_trans hm (Int.min_le_right ..)
    refine ⟨?_, List.forall_mem_cons.mpr ⟨hv, List.forall_mem_cons.mpr ⟨hw, hvs⟩⟩⟩
    rcases List.mem_cons.mp hmem with hfirst | hlater
    · rw [show m = _ from hfirst]
      split <;> simp
    · exact List.mem_cons_of_mem _ (List.mem_cons_of_mem _ hlater)

/-- What the extremes are least by: the signed value, or for a maximum its negative. -/
def extremeKey (isMax : Bool) (x : Word) : Int := if isMax then -x.toInt else x.toInt

theorem extreme_least (isMax : Bool) {vs : List Word} (hvs : vs ≠ []) :
    extreme isMax vs ∈ vs ∧ ∀ x ∈ vs, extremeKey isMax (extreme isMax vs) ≤ extremeKey isMax x := by
  obtain ⟨v, vs, rfl⟩ := List.exists_cons_of_ne_nil hvs
  have hkeep : extreme isMax (v :: vs) = vs.foldl (fun a x => if extremeKey isMax x < extremeKey isMax a then x else a) v := by
    cases isMax <;> simp [extreme, extremeKey]
  rw [hkeep]
  exact foldl_keep_least _ vs v

/-- The extreme of the active lanes' values is one of them, and none of them goes beyond it. -/
theorem extreme_map (isMax : Bool) {ls : List Nat} (x : Nat → Word) (hls : ls ≠ []) :
    (∃ l ∈ ls, extreme isMax (ls.map x) = x l) ∧ ∀ l ∈ ls, extremeKey isMax (extreme isMax (ls.map x)) ≤ extremeKey isMax (x l) := by
  obtain ⟨hmem, hleast⟩ := extreme_least isMax (vs := ls.map x) (by simpa using hls)
  obtain ⟨l, hl, hx⟩ := List.mem_map.mp hmem
  exact ⟨⟨l, hl, hx.symm⟩, fun m hm => hleast _ (List.mem_map_of_mem hm)⟩

/-- The ballot of lanes has the bits of those lanes; bits 63 to 32 are 0. -/
theorem zeroExtend_maskOf_getLsbD (ls : List Nat) (k : Nat) : ((maskOf ls).zeroExtend 64).getLsbD k = decide (k < 32 ∧ k ∈ ls) := by
  rw [BitVec.getLsbD_setWidth, maskOf_getLsbD, Bool.eq_iff_iff]
  simp only [Bool.and_eq_true, decide_eq_true_eq]
  exact ⟨fun hk => hk.2, fun hk => ⟨by omega, hk⟩⟩

/-- A shuffle from a lane of the entry gives that lane's rs1, from any other lane number the lane's own (R165). -/
theorem shuffled_natCast (i : LC) (k : Group) (l src : Nat) :
    shuffled i k l src = if src ∈ i.lanes then i.rs1 k src else i.rs1 k l := by
  have hactive : (0 ≤ (src : Int) ∧ (src : Int) < 32 ∧ i.e.mask.getLsbD src) ↔ src ∈ i.lanes := by
    rw [LC.lanes, mem_lanesOf]
    exact ⟨fun ⟨_, hlt, hbit⟩ => ⟨by omega, hbit⟩, fun ⟨hlt, hbit⟩ => ⟨by omega, by omega, hbit⟩⟩
  simp only [shuffled, Int.toNat_natCast, hactive]

/-- A shuffle from below lane 0 gives the lane's own rs1 (R165). -/
theorem shuffled_of_neg (i : LC) (k : Group) (l : Nat) {src : Int} (h : src < 0) : shuffled i k l src = i.rs1 k l := by
  rw [shuffled, if_neg (by omega)]

/-! ### The obligation -/

/-- Settles O17: a group instruction writes its row's values into the active lanes (`Issues.gives_vote`), and these values are the ones that
R164 and R165 name. -/
theorem groupVotesAndShuffles : Obligations.GroupVotesAndShuffles := by
  unfold Obligations.GroupVotesAndShuffles
  refine ⟨fun c g s i hc hg h => ?votes, fun c g s i hc hg h => ?shuffles⟩
  case votes =>
    intro x rd
    have hx : ∀ l, i.rs1 ((s.group i.c i.g).noteIssue i.e) l = x l := LC.rs1_noteIssue i _ _
    refine ⟨fun hrow => ?vany, fun hrow => ?vall, fun hrow => ?ballot, fun hrow => ?elect, fun hrow => ?vsum, fun hrow => ?vprefix,
      fun hrow => ?vmin, fun hrow => ?vmax⟩
    case vany => exact h.gives_vote hc hg hrow rfl (fun l _ => by simp [hx])
    case vall => exact h.gives_vote hc hg hrow rfl (fun l _ => by simp [hx])
    case ballot =>
      refine (h.gives_vote hc hg hrow rfl (fun l _ => rfl)).imp (fun t ht => ⟨_, ht, fun k => ?_⟩)
      rw [zeroExtend_maskOf_getLsbD]
      simp [hx]
    case elect =>
      refine h.gives_vote hc hg hrow rfl (fun l hl => ?_)
      exact ite_congr (propext (head?_eq_some_iff_of_pairwise_lt (lanesOf_pairwise_lt _) hl)) (fun _ => rfl) (fun _ => rfl)
    case vsum => exact h.gives_vote hc hg hrow rfl (fun l _ => by simp only [hx, foldl_add_eq_sum_map])
    case vprefix => exact h.gives_vote hc hg hrow rfl (fun l _ => by simp only [hx, foldl_add_eq_sum_map])
    case vmin =>
      refine (h.gives_vote hc hg hrow rfl (fun l _ => rfl)).imp (fun t ht => ⟨_, ht, fun hne => ?_⟩)
      rw [funext hx]
      exact extreme_map false x hne
    case vmax =>
      refine (h.gives_vote hc hg hrow rfl (fun l _ => rfl)).imp (fun t ht => ⟨_, ht, fun hne => ?_⟩)
      rw [funext hx]
      obtain ⟨hmem, hleast⟩ := extreme_map true x hne
      exact ⟨hmem, fun l hl => Int.le_of_neg_le_neg (hleast l hl)⟩
  case shuffles =>
    intro x n from_ rd
    have hx : ∀ l, i.rs1 ((s.group i.c i.g).noteIssue i.e) l = x l := LC.rs1_noteIssue i _ _
    have hn : ∀ l, (i.rs2 ((s.group i.c i.g).noteIssue i.e) l).toNat % 32 = n l := fun l => by rw [LC.rs2_noteIssue]; rfl
    have hfrom : ∀ l src, shuffled i ((s.group i.c i.g).noteIssue i.e) l (src : Nat) = from_ l (some src) := fun l src => by
      rw [shuffled_natCast, hx, hx]
    refine ⟨fun hrow => ?shfl, fun hrow => ?shflXor, fun hrow => ?shflUp, fun hrow => ?shflDown⟩
    case shfl => exact h.gives_vote hc hg hrow rfl (fun l _ => by rw [hfrom, hn])
    case shflXor => exact h.gives_vote hc hg hrow rfl (fun l _ => by rw [hfrom, hn])
    case shflUp =>
      refine h.gives_vote hc hg hrow rfl (fun l _ => ?_)
      rw [hn]
      split
      · next hle => rw [← Int.natCast_sub hle, hfrom]
      · next hlt => exact (shuffled_of_neg i _ l (by omega)).trans (hx l)
    case shflDown => exact h.gives_vote hc hg hrow rfl (fun l _ => by rw [hn, ← Int.natCast_add, hfrom])

end Sys2Proof.Machine
end

section
/-!
SUPPORT. Fields of a vector: what each field is after one of them has been replaced.
-/

namespace Sys2Proof.Machine

variable {w : Nat}

/-- Bits below the field, the field and bits above it lie side by side. -/
theorem setBits_eq (v n lo x : Nat) : setBits v n lo x = 2 ^ lo * (2 ^ n * (v >>> (lo + n)) + x % 2 ^ n) + v % 2 ^ lo := by
  rw [setBits, put, Nat.shiftLeft_eq, Nat.shiftLeft_eq, Nat.pow_add, Nat.mul_add, Nat.mul_comm (v >>> (lo + n)), Nat.mul_assoc,
    Nat.mul_comm (x % 2 ^ n)]

theorem setBits_testBit (v n lo x i : Nat) :
    (setBits v n lo x).testBit i = if lo ≤ i ∧ i < lo + n then x.testBit (i - lo) else v.testBit i := by
  rw [setBits_eq, Nat.testBit_two_pow_mul_add _ (Nat.mod_lt _ (Nat.two_pow_pos _))]
  by_cases hlow : i < lo
  · simp [hlow, Nat.not_le.mpr hlow, Nat.testBit_mod_two_pow]
  rw [if_neg hlow, Nat.testBit_two_pow_mul_add _ (Nat.mod_lt _ (Nat.two_pow_pos _))]
  by_cases hin : i - lo < n
  · rw [if_pos hin, if_pos ⟨by omega, by omega⟩, Nat.testBit_mod_two_pow, decide_eq_true hin, Bool.true_and]
  · rw [if_neg hin, if_neg (by omega), Nat.testBit_shiftRight]
    congr 1
    omega

theorem fld_testBit (v : BitVec w) (hi lo i : Nat) : (fld v hi lo).testBit i = (decide (i < hi + 1 - lo) && v.getLsbD (lo + i)) := by
  rw [fld, Nat.testBit_mod_two_pow, Nat.testBit_shiftRight, BitVec.getLsbD]

theorem setF_getLsbD (v : BitVec w) (hi lo x i : Nat) :
    (setF v hi lo x).getLsbD i = (decide (i < w) && if lo ≤ i ∧ i < lo + (hi + 1 - lo) then x.testBit (i - lo) else v.getLsbD i) := by
  rw [setF, BitVec.getLsbD_ofNat, setBits_testBit, BitVec.getLsbD]

/-- A replaced field is the new value, cut to its width. -/
theorem fld_setF_same (v : BitVec w) {hi lo : Nat} (x : Nat) (h : hi < w) : fld (setF v hi lo x) hi lo = x % 2 ^ (hi + 1 - lo) := by
  refine Nat.eq_of_testBit_eq (fun i => ?_)
  rw [fld_testBit, setF_getLsbD, Nat.testBit_mod_two_pow]
  by_cases hi' : i < hi + 1 - lo
  · rw [decide_eq_true (by omega : lo + i < w), if_pos ⟨by omega, by omega⟩, Nat.add_sub_cancel_left, Bool.true_and]
  · rw [decide_eq_false hi', Bool.false_and, Bool.false_and]

/-- A field wholly below or above a replaced one stays. -/
theorem fld_setF_other (v : BitVec w) {hi lo hi' lo' : Nat} (x : Nat) (h : hi' < lo ∨ hi < lo') :
    fld (setF v hi lo x) hi' lo' = fld v hi' lo' := by
  refine Nat.eq_of_testBit_eq (fun i => ?_)
  rw [fld_testBit, fld_testBit, setF_getLsbD]
  by_cases hi : i < hi' + 1 - lo'
  · rw [if_neg (by omega)]
    by_cases hw : lo' + i < w
    · rw [decide_eq_true hw, Bool.true_and]
    · rw [BitVec.getLsbD_of_ge v _ (by omega), Bool.and_false]
  · rw [decide_eq_false hi, Bool.false_and, Bool.false_and]

/-- A field is less than its width allows. -/
theorem fld_lt (v : BitVec w) (hi lo : Nat) : fld v hi lo < 2 ^ (hi + 1 - lo) := Nat.mod_lt _ (Nat.two_pow_pos _)

theorem fld_setB_other (v : BitVec w) {i hi lo : Nat} (b : Bool) (h : hi < i ∨ i < lo) : fld (setB v i b) hi lo = fld v hi lo :=
  fld_setF_other v _ h

end Sys2Proof.Machine
end

section
/-!
SUPPORT. A fabric message that reaches the unit its command names: what receiving it does (R365, R373, R376, R385), and what is left
as it was by messages that leave over the broadcast tree (R392, R394).
-/

namespace Sys2Proof.Machine

/-! ### Receiving -/

theorem State.modPort_lookupNode (s : State) (i : Nat) (f : EPort → EPort) (n : Nat) :
    ((s.modPort i f).lookupNode n).1 = (s.lookupNode n).1 := by
  rw [State.lookupNode, State.lookupNode, State.modPort_fabric]
  cases s.fabric.routeCache.find? (fun e => e.1.toNat == n) <;> rfl

/-- No port has a part in a route step. -/
theorem State.modPort_routeStep (s : State) (i : Nat) (f : EPort → EPort) (m : EMsg) : (s.modPort i f).routeStep m = s.routeStep m := by
  have hnode : (s.modPort i f).ownNode = s.ownNode := rfl
  have hepoch : ∀ m, (s.modPort i f).epochOk m = s.epochOk m := fun _ => rfl
  simp only [State.routeStep, hnode, hepoch, State.modPort_lookupNode]

/-- A message that reaches this module and is no handshake step is handed on as it was opened, once its port stands as opening has left it. -/
theorem Reaches.receiveEtmos {s : State} {p : BitVec 4} {m u : EMsg} {b : EPort} (h : Reaches s p m u b) (hop : ¬(m.vc = 2 ∧ m.op = 0x11))
    (f : State → EMsg → State) : s.receiveEtmos p m f = f (s.modPort p.toNat (fun _ => b)) u := by
  obtain ⟨hport, hup, hvalid, hdoze, hdormant, hopen, hroute⟩ := h
  have hasleep : ¬((s.powerState = 2 ∨ s.powerState = 4) ∧ (m.vc = 0 ∨ m.vc = 2)) := fun ⟨hpower, _⟩ => hpower.elim hdoze hdormant
  have htraining : ¬(p.toNat < 12 ∧ fld (s.port p.toNat).status 31 28 = 2 ∧ m.vc = 2 ∧ m.op = 0x11) := fun ⟨_, _, hm⟩ => hop hm
  have htaken : ¬(12 ≤ p.toNat ∨ fld (s.port p.toNat).status 31 28 ≠ 3) := by omega
  simp only [State.receiveEtmos, if_neg htraining, if_neg htaken, hvalid, Bool.not_true, Bool.false_eq_true, if_false, if_neg hasleep,
    hopen, if_neg hop, State.modPort_routeStep, hroute]

theorem Reaches.onMsg {s : State} {p : BitVec 4} {m u : EMsg} {b : EPort} (h : Reaches s p m u b) {vc op : Nat} (hvc : m.vc.toNat = vc)
    (hop : m.op.toNat = op) (hne : op ≠ 0x11) (f : State → EMsg → State) :
    s.onMsg p m vc op f = f (s.modPort p.toNat (fun _ => b)) u := by
  have hhandshake : ¬(m.vc = 2 ∧ m.op = 0x11) := fun ⟨_, ho⟩ => hne (by rw [← hop, ho]; rfl)
  rw [State.onMsg, if_neg (by omega), h.receiveEtmos hhandshake]

/-! ### The broadcast tree -/

theorem Carried.gates {s t : State} (h : Carried s t) : t.gates = s.gates := by rw [h]
theorem Carried.launchCounter {s t : State} (h : Carried s t) : t.launchCounter = s.launchCounter := by rw [h]

/-- A message for a neighbour whose port takes it is message traffic alone. -/
theorem State.sendNeighbour_carried (s : State) {i : Nat} (m : EMsg) (h : (s.port i).takes = true) : Carried s (s.sendNeighbour i m) := by
  rw [State.sendNeighbour, State.leaveBy, if_pos h]
  exact s.send_carried _

theorem State.broadcastJob_carried (s : State) (op : Nat) (us : List (BitVec 128)) (except : Option Nat) :
    Carried s (s.broadcastJob op us except) := by
  refine foldl_rel Carried.refl Carried.trans _ (fun s i => ?_) _ s
  dsimp only
  split
  · next hsends =>
    simp only [Bool.and_eq_true] at hsends
    exact s.sendNeighbour_carried _ hsends.1.2
  · exact Carried.refl s

/-! Passing on the outcome of a job changes message traffic and the list of forwarded arms alone. -/

theorem State.settleJob_gates (s : State) (p : BitVec 4) (op : Nat) (m : EMsg) : (s.settleJob p op m).gates = s.gates :=
  (State.broadcastJob_carried ..).gates
theorem State.settleJob_queues (s : State) (p : BitVec 4) (op : Nat) (m : EMsg) : (s.settleJob p op m).queues = s.queues :=
  (State.broadcastJob_carried ..).queues
theorem State.settleJob_launchCounter (s : State) (p : BitVec 4) (op : Nat) (m : EMsg) :
    (s.settleJob p op m).launchCounter = s.launchCounter := (State.broadcastJob_carried ..).launchCounter

end Sys2Proof.Machine
end

section
/-!
SUPPORT and the proof of O50. The gates of a job and their queues (R390, R391, R394): what a gate's register and a queue's State are
after the changes that the outcome of a job makes.
-/

namespace Sys2Proof.Machine

/-! ### Gates -/

theorem State.gate_eq_of_gates {s t : State} (h : t.gates = s.gates) (g : Nat) : t.gate g = s.gate g := by rw [State.gate, h, State.gate]

theorem State.gateOf_eq_of_gates {s t : State} (h : t.gates = s.gates) (job : Nat) (states : List Nat) :
    t.gateOf job states = s.gateOf job states := by
  simp only [State.gateOf, State.gate_eq_of_gates h]

theorem State.modPort_gateOf (s : State) (i : Nat) (f : EPort → EPort) (job : Nat) (states : List Nat) :
    (s.modPort i f).gateOf job states = s.gateOf job states := State.gateOf_eq_of_gates (s.modPort_gates i f) job states

theorem Gate.setState_state (k : Gate) (st reason node : Nat) : fld (k.setState st reason node).reg 63 60 = st % 16 := by
  rw [Gate.setState, fld_setF_other _ _ (by decide), fld_setF_other _ _ (by decide)]
  exact fld_setF_same _ _ (by decide)

theorem Gate.setState_reason (k : Gate) (st reason node : Nat) : fld (k.setState st reason node).reg 59 56 = reason % 2 ^ 4 := by
  rw [Gate.setState, fld_setF_other _ _ (by decide), fld_setF_same _ _ (by decide)]

theorem Gate.setState_failNode (k : Gate) (st reason node : Nat) : fld (k.setState st reason node).reg 55 32 = node % 2 ^ 24 := by
  rw [Gate.setState, fld_setF_same _ _ (by decide)]

theorem Gate.setState_job (k : Gate) (st reason node : Nat) : fld (k.setState st reason node).reg 31 0 = fld k.reg 31 0 := by
  rw [Gate.setState, fld_setF_other _ _ (by decide), fld_setF_other _ _ (by decide), fld_setF_other _ _ (by decide)]

/-- The outcome of a job that reaches a gate: that gate is in the new state for the same job, the other gates and all queues are as before. -/
def GateSettled (s t : State) (g st reason node : Nat) : Prop :=
  ((∀ h, h ≠ g → t.gate h = s.gate h) ∧ t.queues = s.queues) ∧ t.gate g = (s.gate g).setState st reason node

/-- A message about a job that changes the gate it names, once it has been passed on. -/
theorem State.modGate_settleJob_settled (s : State) (p : BitVec 4) (op : Nat) (m : EMsg) (g st reason node : Nat) :
    GateSettled s ((s.settleJob p op m).modGate g (fun k => k.setState st reason node)) g st reason node := by
  have hgates := State.gate_eq_of_gates (s.settleJob_gates p op m)
  refine ⟨⟨fun h hh => ?_, s.settleJob_queues p op m⟩, ?_⟩
  · rw [State.modGate_gate_other _ _ hh, hgates]
  · rw [State.modGate_gate_same, hgates]

/-- A JobConfirm before S confirms the armed gate of its job (R394). -/
theorem State.takeJobConfirm_settled (s : State) (p : BitVec 4) (m : EMsg) {g : Nat}
    (hgate : s.gateOf (fld (jobBody m) 255 224) [2] = some g) (hearly : s.launchCounter.toNat < (s.gate g).s.toNat) :
    GateSettled s (s.takeJobConfirm p m) g 3 0 0 := by
  have hgates := s.settleJob_gates p 0x16 m
  simp only [State.takeJobConfirm, State.gateOf_eq_of_gates hgates, hgate, State.gate_eq_of_gates hgates, State.settleJob_launchCounter,
    if_pos hearly]
  exact s.modGate_settleJob_settled ..

/-- A JobAbort aborts the set or armed gate of its job, with the reason and node that it carries (R394). -/
theorem State.takeJobAbort_settled (s : State) (p : BitVec 4) (m : EMsg) {g : Nat}
    (hgate : s.gateOf (fld (jobBody m) 255 224) [1, 2] = some g) :
    GateSettled s (s.takeJobAbort p m) g 5 (fld (jobBody m) 199 196) (fld (jobBody m) 223 200) := by
  have hgates := s.settleJob_gates p 0x17 m
  simp only [State.takeJobAbort, State.gateOf_eq_of_gates hgates, hgate]
  exact s.modGate_settleJob_settled ..

/-- A port that a message has been taken from has no part in the outcome of a job. -/
theorem GateSettled.of_modPort {s t : State} {i g st reason node : Nat} {f : EPort → EPort}
    (h : GateSettled (s.modPort i f) t g st reason node) : GateSettled s t g st reason node := by
  simpa only [GateSettled, State.modPort_gate, State.modPort_queues] using h

section
variable {s : State} {p : BitVec 4} {m u : EMsg} {b : EPort} {g : Nat}

theorem stepJobConfirm_settled (h : Reaches s p m u b) (hvc : m.vc = 2) (hop : m.op = 0x16)
    (hgate : s.gateOf (fld (jobBody u) 255 224) [2] = some g) (hearly : s.launchCounter.toNat < (s.gate g).s.toNat) :
    GateSettled s (stepJobConfirm p m s) g 3 0 0 := by
  rw [stepJobConfirm, h.onMsg (by rw [hvc]; rfl) (by rw [hop]; rfl) (by decide)]
  refine GateSettled.of_modPort (State.takeJobConfirm_settled _ p u ?_ ?_)
  · rwa [State.modPort_gateOf]
  · rwa [State.modPort_launchCounter, State.modPort_gate]

theorem stepJobAbort_settled (h : Reaches s p m u b) (hvc : m.vc = 2) (hop : m.op = 0x17)
    (hgate : s.gateOf (fld (jobBody u) 255 224) [1, 2] = some g) :
    GateSettled s (stepJobAbort p m s) g 5 (fld (jobBody u) 199 196) (fld (jobBody u) 223 200) := by
  rw [stepJobAbort, h.onMsg (by rw [hvc]; rfl) (by rw [hop]; rfl) (by decide)]
  refine GateSettled.of_modPort (State.takeJobAbort_settled _ p u ?_)
  rwa [State.modPort_gateOf]

end

/-! ### The State of a queue -/

@[simp] theorem Queue.setSt_st (k : Queue) (v : Nat) : (k.setSt v).st = v % 16 := fld_setF_same _ _ (by decide)
@[simp] theorem Queue.setSt_head (k : Queue) (v : Nat) : (k.setSt v).head = k.head := fld_setF_other _ _ (by decide)
@[simp] theorem Queue.setSt_tail (k : Queue) (v : Nat) : (k.setSt v).tail = k.tail := fld_setF_other _ _ (by decide)
@[simp] theorem Queue.setSt_held (k : Queue) (v : Nat) : (k.setSt v).held = k.held := rfl
@[simp] theorem Queue.setSt_running (k : Queue) (v : Nat) : (k.setSt v).running = k.running := rfl
@[simp] theorem Queue.setSt_stampAt (k : Queue) (v : Nat) : (k.setSt v).stampAt = k.stampAt := rfl
@[simp] theorem Queue.setArmed_st (k : Queue) (b : Bool) : (k.setArmed b).st = k.st := fld_setB_other _ _ (by decide)

/-- Only a queue that is stopped shows State 6 once it has settled. -/
theorem Queue.settle_st_ne_stopped {k : Queue} (h : k.st ≠ 6) : k.settle.st ≠ 6 := by
  unfold Queue.settle
  repeat' split
  all_goals simp [h]

/-- A queue that may go on, and neither runs an entry nor waits for a stamp, fetches while it has entries and is idle otherwise (R314). -/
theorem Queue.settle_st_of_nothing_runs {k : Queue} (hst : ¬(k.st = 6 ∨ k.st = 7 ∨ k.st = 0)) (hrun : k.running = none)
    (hstamp : k.stampAt = none) : k.settle.st = if k.head ≠ k.tail ∨ k.held ≠ 0 then 2 else 1 := by
  have hfence : k.fence = none := by rw [Queue.fence, hrun]
  simp only [Queue.settle, if_neg hst, hfence, hstamp, hrun, Option.isSome_none, Bool.false_eq_true, if_false]
  by_cases hmore : k.head ≠ k.tail
  · simp [hmore]
  · by_cases hheld : k.held ≠ 0 <;> simp [hmore, hheld]

/-- A queue that a gate lets go on (R391, R394). -/
def Queue.released (k : Queue) : Queue := if k.st = 6 then (k.setSt 5).settle else k

theorem Queue.released_st_ne_stopped {k : Queue} (h : k.st = 6) : k.released.st ≠ 6 := by
  rw [Queue.released, if_pos h]
  exact Queue.settle_st_ne_stopped (by simp)

theorem Queue.released_st {k : Queue} (h : k.st = 6) (hrun : k.running = none) (hstamp : k.stampAt = none) :
    k.released.st = if k.head ≠ k.tail ∨ k.held ≠ 0 then 2 else 1 := by
  have hgoes : (k.setSt 5).settle.st = if (k.setSt 5).head ≠ (k.setSt 5).tail ∨ (k.setSt 5).held ≠ 0 then 2 else 1 :=
    Queue.settle_st_of_nothing_runs (by simp) ((k.setSt_running 5).trans hrun) ((k.setSt_stampAt 5).trans hstamp)
  rw [Queue.released, if_pos h, hgoes, Queue.setSt_head, Queue.setSt_tail, Queue.setSt_held]

/-! ### The queues of a gate -/

theorem foldl_modQueue_rest (f : Queue → Queue) (ns : List Nat) : ∀ s : State,
    { ns.foldl (fun s n => s.modQueue n f) s with queues := s.queues } = s := by
  induction ns with
  | nil => exact fun s => rfl
  | cons n ns ih => exact fun s => congrArg (fun t => { t with queues := s.queues }) (ih (s.modQueue n f))

theorem foldl_modQueue_queue (f : Queue → Queue) (n : Nat) {ns : List Nat} (h : ns.Nodup) : ∀ s : State,
    (ns.foldl (fun s n => s.modQueue n f) s).queue n = if n ∈ ns then f (s.queue n) else s.queue n := by
  induction ns with
  | nil => simp
  | cons m ns ih =>
    intro s
    obtain ⟨hm, hns⟩ := List.nodup_cons.mp h
    rw [List.foldl_cons, ih hns]
    by_cases hnm : n = m
    · subst hnm
      simp [hm]
    · simp [hnm, State.modQueue_queue_other _ _ hnm]

theorem Gate.queues_nodup (k : Gate) : k.queues.Nodup :=
  List.Pairwise.map _ (fun _ _ hne heq => hne (Nat.add_left_cancel heq)) List.nodup_range

theorem State.releaseQueues_rest (s : State) (k : Gate) : { s.releaseQueues k with queues := s.queues } = s := by
  unfold State.releaseQueues
  split
  · rfl
  · exact foldl_modQueue_rest Queue.released _ s

theorem State.releaseQueues_gate (s : State) (k : Gate) (g : Nat) : (s.releaseQueues k).gate g = s.gate g :=
  State.gate_eq_of_gates (congrArg State.gates (s.releaseQueues_rest k)) g

/-- The queues of a gate whose context is open are released, and all others are left as they were. -/
theorem State.releaseQueues_queue (s : State) (k : Gate) (n : Nat) : (s.releaseQueues k).queue n =
    if fld (s.ctx k.ctx.toNat).status 29 28 = 1 ∧ n ∈ k.queues then (s.queue n).released else s.queue n := by
  unfold State.releaseQueues
  by_cases hopen : fld (s.ctx k.ctx.toNat).status 29 28 = 1
  · simp only [hopen, true_and, if_neg (not_not_intro rfl)]
    exact foldl_modQueue_queue Queue.released n k.queues_nodup s
  · simp [hopen]

/-! ### The counter reaches S -/

/-- A gate that changes and releases queues changes gates and queues alone. -/
theorem State.modGate_releaseQueues_rest (s : State) (g : Nat) (f : Gate → Gate) (k : Gate) :
    { (s.modGate g f).releaseQueues k with gates := s.gates, queues := s.queues } = s :=
  congrArg (fun t => { t with gates := s.gates }) ((s.modGate g f).releaseQueues_rest k)

theorem State.modGate_rest (s : State) (g : Nat) (f : Gate → Gate) : { s.modGate g f with gates := s.gates } = s := rfl

/-- A confirmed gate at S is started, and lets its queues go on (R394). -/
theorem stepJobStartCount_of_confirmed {gate : BitVec 4} {s : State} (hs : (s.gate gate.toNat).s.toNat ≤ s.launchCounter.toNat)
    (hst : fld (s.gate gate.toNat).reg 63 60 = 3) :
    stepJobStartCount gate s = (s.modGate gate.toNat (fun k => k.setState 4 0 0)).releaseQueues (s.gate gate.toNat) := by
  rw [stepJobStartCount, if_neg (Nat.not_lt.mpr hs), if_pos hst]

/-- An armed gate at S is missed (R394). -/
theorem stepJobStartCount_of_armed {gate : BitVec 4} {s : State} (hs : (s.gate gate.toNat).s.toNat ≤ s.launchCounter.toNat)
    (hst : fld (s.gate gate.toNat).reg 63 60 = 2) :
    stepJobStartCount gate s = s.modGate gate.toNat (fun k => k.setState 6 0 0) := by
  rw [stepJobStartCount, if_neg (Nat.not_lt.mpr hs), if_neg (by omega), if_pos hst]

/-! ### The obligation -/

/-- Settles O50: a JobConfirm or JobAbort that reaches a member settles its gate (`stepJobConfirm_settled`,
`stepJobAbort_settled`), and when the counter has reached S a confirmed gate releases its queues (`State.releaseQueues_queue`). -/
theorem jobOutcomes : Obligations.JobOutcomes := by
  unfold Obligations.JobOutcomes
  refine ⟨fun p m u b g s hreaches hvc => ⟨fun hop hgate hearly => ?confirm, fun hop hgate => ?abort⟩, ?count⟩
  case confirm =>
    obtain ⟨hothers, hself⟩ := stepJobConfirm_settled hreaches hvc hop hgate hearly
    refine ⟨_, rfl, hothers, ?_, ?_⟩
    · rw [hself, Gate.setState_state]
    · rw [hself, Gate.setState_job]
  case abort =>
    obtain ⟨hothers, hself⟩ := stepJobAbort_settled hreaches hvc hop hgate
    refine ⟨_, rfl, hothers, ?_, ?_, ?_, ?_⟩
    · rw [hself, Gate.setState_state]
    · rw [hself, Gate.setState_reason, Nat.mod_eq_of_lt (fld_lt (jobBody u) 199 196 : _ < 2 ^ 4)]
    · rw [hself, Gate.setState_failNode, Nat.mod_eq_of_lt (fld_lt (jobBody u) 223 200 : _ < 2 ^ 24)]
    · rw [hself, Gate.setState_job]
  case count =>
    intro g s k hs
    refine ⟨fun hst => ?started, fun hst => ?missed⟩
    case started =>
      refine ⟨_, congrArg Host.Outcome.next (stepJobStartCount_of_confirmed hs hst),
        s.modGate_releaseQueues_rest .., ?_, fun h hh => ?_, fun hopen n hn hstopped => ?_, fun n hn => ?_⟩
      · rw [State.releaseQueues_gate, State.modGate_gate_same, Gate.setState_state]
      · rw [State.releaseQueues_gate, State.modGate_gate_other _ _ hh]
      · rw [State.releaseQueues_queue, State.modGate_ctx, State.modGate_queue, if_pos ⟨hopen, hn⟩]
        exact ⟨Queue.released_st_ne_stopped hstopped, Queue.released_st hstopped⟩
      · rw [State.releaseQueues_queue, if_neg (fun hreleased => hn hreleased.2), State.modGate_queue]
    case missed =>
      refine ⟨_, congrArg Host.Outcome.next (stepJobStartCount_of_armed hs hst), s.modGate_rest .., ?_, fun h hh => s.modGate_gate_other _ hh⟩
      rw [State.modGate_gate_same, Gate.setState_state]

end Sys2Proof.Machine
end

section
/-!
SUPPORT. The completion of a queue's entry (R313, R319): an event only adds to what has been sent to the host, and an entry that a command
has begun has finished once the command completes it.
-/

namespace Sys2Proof.Machine

/-! ### Memory and the host link -/

@[simp] theorem State.filterNote_host (s : State) (h : Bool) (pa : Nat) (r : Bool) : (s.filterNote h pa r).host = s.host := by
  unfold State.filterNote
  repeat' split
  all_goals simp [State.countDead]

@[simp] theorem State.countErrs_host (s : State) (ch : Nat) (es : List SymErr) : (s.countErrs ch es).host = s.host := by
  unfold State.countErrs
  dsimp only
  split <;> simp

@[simp] theorem State.dropCoreCopies_host (s : State) (pa : Nat) : (s.dropCoreCopies pa).host = s.host := by
  have hcores : ∀ (ns : List Nat) (g : ZCore → ZCore), (ns.foldl (fun s n => s.modCore n g) s).host = s.host := fun ns g =>
    foldl_rel (R := fun s t : State => t.host = s.host) (fun _ => rfl) (fun h k => k.trans h) (fun s n => s.modCore n g) (fun _ _ => rfl) ns s
  unfold State.dropCoreCopies
  dsimp only
  split
  · rfl
  · simp [hcores]

@[simp] theorem State.pokeSector_host (s : State) (pa : Nat) (d : Sector) : (s.pokeSector pa d).host = s.host := by
  unfold State.pokeSector State.pokeHome
  dsimp only
  repeat' split
  all_goals simp

@[simp] theorem State.pokeMasked_host (s : State) (pa : Nat) (d : Sector) (m : BitVec 128) (x : Option Nat) :
    (s.pokeMasked pa d m x).host = s.host := by
  unfold State.pokeMasked State.countFetch
  repeat' split
  all_goals simp

theorem State.logAt_host (s : State) (off : Nat) (bs : List Byte) : (s.logAt off bs).host = s.host := by
  unfold State.logAt
  split
  · rfl
  · exact s.pokeMasked_host ..

theorem State.eventInterrupt_host (s : State) : s.eventInterrupt.host = s.host := by
  unfold State.eventInterrupt
  generalize (List.range 64).foldl _ s.cores = c
  rfl

/-- A record that enters the event log leaves the host link as it was. -/
theorem State.logRecord_host (s : State) (r : BitVec 512) : (s.logRecord r).host = s.host := by
  rw [State.logRecord, State.eventInterrupt_host, State.logAt_host]

/-! ### What has been sent to the host stays sent -/

theorem State.hostSend_stream_prefix (s : State) (w : HostWrite) : s.host.stream <+: (s.hostSend w).host.stream := by
  unfold State.hostSend
  split
  · exact List.prefix_append ..
  · exact List.prefix_rfl

theorem State.signal_stream_prefix (s : State) (v : Nat) : s.host.stream <+: (s.signal v).host.stream := by
  unfold State.signal
  dsimp only
  repeat' split
  case isTrue => exact List.prefix_rfl
  case isTrue => exact List.prefix_rfl
  all_goals exact s.hostSend_stream_prefix _

theorem State.msi_stream_prefix (s : State) (v : Nat) : s.host.stream <+: (s.msi v).host.stream := by
  unfold State.msi
  split
  · exact s.signal_stream_prefix v
  · exact List.prefix_rfl

theorem State.raise_stream_prefix (s : State) (r : BitVec 512) (v : Nat) : s.host.stream <+: (s.raise r v).host.stream := by
  rw [← s.logRecord_host r]
  unfold State.raise
  split
  · exact (State.hostSend_stream_prefix ..).trans (State.msi_stream_prefix ..)
  · exact List.prefix_rfl

/-- An event adds to what has been sent to the host and takes nothing of it away. -/
theorem State.event_stream_prefix (s : State) (cls : Nat) (x : Option Nat) (payload v : Nat) :
    s.host.stream <+: (s.event cls x payload v).host.stream := by
  unfold State.event
  repeat' split
  · exact List.prefix_rfl
  · exact List.prefix_rfl
  · exact s.raise_stream_prefix ..

/-! ### The queue of an entry that runs and completes -/

theorem Queue.setSt_rest (k : Queue) (v : Nat) : k.setSt v = { k with reg := (k.setSt v).reg } := rfl
theorem Queue.setSt_setArmed_rest (k : Queue) (v : Nat) (b : Bool) :
    (k.setSt v).setArmed b = { k with reg := ((k.setSt v).setArmed b).reg } := rfl

/-- Settling changes the state register alone. -/
theorem Queue.settle_rest (k : Queue) : k.settle = { k with reg := k.settle.reg } := by
  unfold Queue.settle
  repeat' split
  · rfl
  · exact k.setSt_rest 4
  · exact k.setSt_rest 3
  · exact k.setSt_rest 5
  · exact k.setSt_setArmed_rest 2 false
  · exact k.setSt_rest 2
  · exact k.setSt_setArmed_rest 1 true

@[simp] theorem Queue.setSt_done (k : Queue) (v : Nat) : (k.setSt v).done = k.done := fld_setF_other _ _ (by decide)
@[simp] theorem Queue.setArmed_done (k : Queue) (b : Bool) : (k.setArmed b).done = k.done := fld_setB_other _ _ (by decide)
theorem Queue.setDone_done (k : Queue) (v : Nat) : (k.setDone v).done = v % 2 ^ 64 := fld_setF_same _ _ (by decide)

@[simp] theorem Queue.settle_done (k : Queue) : k.settle.done = k.done := by
  unfold Queue.settle
  repeat' split
  all_goals simp

/-- A queue as its first fetched entry begins (R314). -/
def Queue.begun (k : Queue) (e : BitVec 512) : Queue :=
  { k with fetched := k.fetched.drop 1, running := some e, dispatched := false, started := false }.settle

/-- A queue as its running entry completes (R313). -/
def Queue.completed (k : Queue) : Queue :=
  ({ k with running := none, dispatched := false, started := false }.setDone ((k.done + 1) % 2 ^ 64)).settle

theorem Queue.begun_running (k : Queue) (e : BitVec 512) : (k.begun e).running = some e := by rw [Queue.begun, Queue.settle_rest]
theorem Queue.begun_done (k : Queue) (e : BitVec 512) : (k.begun e).done = k.done := Queue.settle_done _
theorem Queue.completed_running (k : Queue) : k.completed.running = none := by rw [Queue.completed, Queue.settle_rest]; rfl

theorem Queue.completed_done (k : Queue) : k.completed.done = (k.done + 1) % 2 ^ 64 := by
  rw [Queue.completed, Queue.settle_done, Queue.setDone_done, Nat.mod_mod]

/-- Two queues have the same completion ring (R319). -/
def Queue.SameRing (k l : Queue) : Prop :=
  l.cplHost = k.cplHost ∧ l.suspended = k.suspended ∧ l.cpl = k.cpl ∧ l.cplLog2 = k.cplLog2

theorem Queue.begun_sameRing (k : Queue) (e : BitVec 512) : k.SameRing (k.begun e) := by
  rw [Queue.begun, Queue.settle_rest]; exact ⟨rfl, rfl, rfl, rfl⟩

theorem Queue.completed_sameRing (k : Queue) : k.SameRing k.completed := by
  rw [Queue.completed, Queue.settle_rest]; exact ⟨rfl, rfl, rfl, rfl⟩

/-- The slot of the record of the entry that brings Done to its new value is the one that Done named before (R319). -/
theorem Queue.completed_slot (k : Queue) : (k.completed.done + 2 ^ 64 - 1) % 2 ^ 64 = k.done := by
  have hdone : k.done < 2 ^ 64 := fld_lt k.reg 127 64
  rw [Queue.completed_done]
  omega

/-! ### Completing an entry -/

theorem State.beginEntry_queue_same (s : State) (q : Nat) (e : BitVec 512) : (s.beginEntry q e).queue q = (s.queue q).begun e :=
  s.modQueue_queue_same q _

theorem State.beginEntry_queue_other (s : State) {q p : Nat} (e : BitVec 512) (h : p ≠ q) : (s.beginEntry q e).queue p = s.queue p :=
  s.modQueue_queue_other _ h

/-- The running entry completes: its queue counts it, and its record is written. -/
theorem State.complete_of_running {s : State} {q : Nat} {e : BitVec 512} (h : (s.queue q).running = some e) (status info num replays : Nat) :
    s.complete q status info num replays =
      (s.modQueue q Queue.completed).writeCpl q (q * 65536 + Ent.stamp e) status replays info num (bit e 486) := by
  rw [State.complete, h]; rfl

/-- The record of an entry of a queue whose ring lies in host memory is sent to an attached host (R319). -/
theorem State.writeCpl_mem_stream {s : State} {q : Nat} (hring : (s.queue q).cplHost = true) (hgoes : (s.queue q).suspended = false)
    (hhost : s.host.attach = 2) (id status replays info num : Nat) (notify : Bool) :
    { addr := BitVec.ofNat 64 ((s.queue q).cpl.toNat + ((s.queue q).done + 2 ^ 64 - 1) % 2 ^ 64 % 2 ^ (s.queue q).cplLog2.toNat * 32),
      bytes := leBytes 32 (cplRecord id status replays (s.queue q).done info num s.launchCounter.toNat) : HostWrite }
      ∈ (s.writeCpl q id status replays info num notify).host.stream := by
  simp only [State.writeCpl, hring, hgoes, if_true, Bool.false_eq_true, if_false, s.hostSend_attached _ hhost]
  split
  · exact (State.event_stream_prefix ..).subset (List.mem_append_right _ List.mem_cons_self)
  · exact List.mem_append_right _ List.mem_cons_self

/-- An entry of queue `q` that has begun, and whose command has left queue, host link and launch counter alone since, has finished once it is
completed. -/
theorem State.complete_finished {s u : State} {q : Nat} {e : BitVec 512} (hqueues : u.queues = (s.beginEntry q e).queues)
    (hlink : u.host = s.host) (htime : u.launchCounter = s.launchCounter) (status info num replays : Nat) :
    Finished s (u.complete q status info num replays) q e status info num replays := by
  have hbegun : u.queue q = (s.queue q).begun e := by
    rw [← s.beginEntry_queue_same, State.queue, hqueues, State.queue]
  have hrun : (u.queue q).running = some e := by rw [hbegun, Queue.begun_running]
  have hdone : (u.queue q).done = (s.queue q).done := by rw [hbegun, Queue.begun_done]
  have hcompleted : (u.modQueue q Queue.completed).queue q = (u.queue q).completed := u.modQueue_queue_same q _
  have hq : (u.complete q status info num replays).queue q = (u.queue q).completed := by
    rw [State.complete_of_running hrun, ← hcompleted, State.queue, (State.writeCpl_recorded ..).queues, State.queue]
  refine ⟨?_, ?_, fun hring hgoes hattach => ?_⟩
  · rw [hq, Queue.completed_running]
  · rw [hq, Queue.completed_done, hdone]
  · obtain ⟨bhost, bsusp, bcpl, blog⟩ := (s.queue q).begun_sameRing e
    obtain ⟨chost, csusp, ccpl, clog⟩ := (u.queue q).completed_sameRing
    rw [hbegun] at chost csusp ccpl clog
    have hsent := State.writeCpl_mem_stream (s := u.modQueue q Queue.completed) (q := q)
      (by rw [hcompleted, hbegun, chost, bhost, hring]) (by rw [hcompleted, hbegun, csusp, bsusp, hgoes])
      (by rw [State.modQueue_host, hlink, hattach]) (q * 65536 + Ent.stamp e) status replays info num (bit e 486)
    rw [hcompleted, Queue.completed_slot, Queue.completed_done, hdone, hbegun, ccpl, bcpl, clog, blog, State.modQueue_launchCounter,
      htime] at hsent
    rwa [State.complete_of_running hrun]

/-! ### What a completion leaves as it was -/

theorem Recorded.timed {s t : State} (h : Recorded s t) : t.timed = s.timed := by rw [h.rest]
theorem Recorded.power {s t : State} (h : Recorded s t) : t.power = s.power := by rw [h.rest]

theorem State.complete_timed (s : State) (q status info num replays : Nat) : (s.complete q status info num replays).timed = s.timed :=
  (s.complete_recorded q status info num replays).timed
theorem State.complete_power (s : State) (q status info num replays : Nat) : (s.complete q status info num replays).power = s.power :=
  (s.complete_recorded q status info num replays).power
theorem State.complete_clusters (s : State) (q status info num replays : Nat) :
    (s.complete q status info num replays).clusters = s.clusters := (s.complete_recorded q status info num replays).clusters

/-! ### Admin commands -/

/-- The state in which an admin command does its work: its entry runs, and its queue is the one served last (R313). -/
def State.adminBegun (s : State) (aq : Bool) (e : BitVec 512) : State := { s.beginEntry (if aq then 1 else 0) e with adminLast := aq }

section
variable (s : State) (aq : Bool) (e : BitVec 512)

@[simp] theorem State.adminBegun_queues : (s.adminBegun aq e).queues = (s.beginEntry (if aq then 1 else 0) e).queues := by
  unfold State.adminBegun; rfl
@[simp] theorem State.adminBegun_host : (s.adminBegun aq e).host = s.host := by unfold State.adminBegun; rfl
@[simp] theorem State.adminBegun_launchCounter : (s.adminBegun aq e).launchCounter = s.launchCounter := by unfold State.adminBegun; rfl
@[simp] theorem State.adminBegun_clusters : (s.adminBegun aq e).clusters = s.clusters := by unfold State.adminBegun; rfl
@[simp] theorem State.adminBegun_cluster (c : Nat) : (s.adminBegun aq e).cluster c = s.cluster c := by unfold State.adminBegun; rfl
@[simp] theorem State.adminBegun_power : (s.adminBegun aq e).power = s.power := by unfold State.adminBegun; rfl
@[simp] theorem State.adminBegun_timed : (s.adminBegun aq e).timed = s.timed := by unfold State.adminBegun; rfl

end

/-- A command that is ready does its work once its entry has begun. -/
theorem AdminReady.admin_eq {s : State} {aq : Bool} {op : Nat} {e : BitVec 512} (h : AdminReady s aq e op)
    (f : State → Nat → BitVec 512 → State) : s.admin aq op f = f (s.adminBegun aq e) (if aq then 1 else 0) e := h.run f

/-- What a record and an event change is all that differs once the queues and the admin queue served last are put back. -/
theorem Recorded.onlyRecords {u t : State} (h : Recorded u t) (ks : Tbl Queue) (b : Bool) :
    OnlyRecords { u with queues := ks, adminLast := b } { t with queues := ks, adminLast := b } := by
  refine ⟨?_, fun x => ?_⟩
  · rw [h.rest]
  · have hx : { t.ctx x with counter := (u.ctx x).counter } = u.ctx x := by rw [h.counts x]
    exact hx

/-- Completing an entry, where only its queue and the admin queue served last had changed. -/
theorem State.complete_onlyEntry (s : State) {q : Nat} {ks : Tbl Queue} (aq : Bool) (h : ∀ p, p ≠ q → tget {} ks p = s.queue p)
    (status info num replays : Nat) :
    OnlyEntry s ({ s with queues := ks, adminLast := aq }.complete q status info num replays) q :=
  ⟨(State.complete_recorded _ q status info num replays).onlyRecords s.queues s.adminLast,
    fun p hp => (State.complete_other _ q status info num replays p hp).trans (h p hp)⟩

/-- A rejected admin command changes its queue, and what a completion record and an event may touch. -/
theorem State.reject_adminBegun_onlyEntry (s : State) (aq : Bool) (e : BitVec 512) (info : Nat) :
    OnlyEntry s ((s.adminBegun aq e).reject (if aq then 1 else 0) info) (if aq then 1 else 0) :=
  s.complete_onlyEntry aq (fun _ hp => s.beginEntry_queue_other e hp) 8 info 0 0

/-- A rejected admin command has finished with status 0x08 and its Info (R331). -/
theorem State.reject_adminBegun_finished (s : State) (aq : Bool) (e : BitVec 512) (info : Nat) :
    Finished s ((s.adminBegun aq e).reject (if aq then 1 else 0) info) (if aq then 1 else 0) e 8 info :=
  State.complete_finished (s.adminBegun_queues aq e) (s.adminBegun_host aq e) (s.adminBegun_launchCounter aq e) 8 info 0 0

end Sys2Proof.Machine
end

section
/-!
SUPPORT and the proof of O56. Timed mode (R428, R429, R432): what beginning and ending it leave in the timed status register, the power
unit and the clusters.
-/

namespace Sys2Proof.Machine

/-! ### The timed status register -/

theorem getLsbD_setB_same {w : Nat} (v : BitVec w) {i : Nat} (b : Bool) (h : i < w) : (setB v i b).getLsbD i = b := by
  rw [setB, setF_getLsbD]
  cases b <;> simp [h]

theorem getLsbD_setB_other {w : Nat} (v : BitVec w) {i j : Nat} (b : Bool) (h : j ≠ i) : (setB v i b).getLsbD j = v.getLsbD j := by
  rw [setB, setF_getLsbD, if_neg (by omega)]
  by_cases hj : j < w
  · simp [hj]
  · simp [hj, BitVec.getLsbD_of_ge v j (by omega)]

theorem armTimed_on (v : BitVec 128) : bit (armTimed v) 63 = true := by
  rw [armTimed, bit, getLsbD_setB_other _ _ (by decide), getLsbD_setB_same _ _ (by decide)]

theorem armTimed_intact (v : BitVec 128) : bit (armTimed v) 62 = true := getLsbD_setB_same _ _ (by decide)

theorem armTimed_firstBreach (v : BitVec 128) : fld (armTimed v) 127 64 = 0 := by
  rw [armTimed, fld_setB_other _ _ (by decide), fld_setB_other _ _ (by decide), fld_setF_other _ _ (by decide), fld_setF_same _ _ (by decide),
    Nat.zero_mod]

theorem armTimed_lastKind (v : BitVec 128) : fld (armTimed v) 61 58 = 0 := by
  rw [armTimed, fld_setB_other _ _ (by decide), fld_setB_other _ _ (by decide), fld_setF_same _ _ (by decide), Nat.zero_mod]

theorem armTimed_counters (v : BitVec 128) : fld (armTimed v) 57 0 = fld v 57 0 := by
  rw [armTimed, fld_setB_other _ _ (by decide), fld_setB_other _ _ (by decide), fld_setF_other _ _ (by decide),
    fld_setF_other _ _ (by decide)]

/-! ### When timed mode may begin -/

/-- The cap is held in units of 10 W. -/
theorem State.timedBarred_iff (s : State) : s.timedBarred = true ↔
    10 * s.capInForce < 2800 ∨ s.split = true ∨ bit s.power.status 57 = false ∨ 45 < fld s.power.status 27 20 := by
  have hcap : 10 * s.capInForce < 2800 ↔ s.capInForce < 280 := by omega
  simp only [State.timedBarred, hcap, Bool.or_eq_true, decide_eq_true_eq, Bool.not_eq_true', or_assoc]

/-- Beginning the entry of the command has no part in whether timed mode may begin. -/
theorem State.adminBegun_timedBarred (s : State) (aq : Bool) (e : BitVec 512) : (s.adminBegun aq e).timedBarred = s.timedBarred := rfl

/-! ### Beginning and ending timed mode -/

/-- The register is armed and the clocks are set to 1.6 and 2.0 GHz (R428, R432). -/
def State.timedArmed (s : State) : State :=
  { s with timed := armTimed s.timed, power := { s.power with timedMax := 16, timedCore := 8 } }

/-- Timed mode is on, and every cluster's clock runs (R429). -/
def State.timedBegun (s : State) : State := s.timedArmed.runForTimed

/-- Timed mode is off, and a cluster with no kernel is clock-gated again (R398, R428). -/
def State.timedEnded (s : State) : State :=
  { s with timed := setB s.timed 63 false, clusters := tmap {} s.clusters (fun _ u => u.gateIdle) }

/-- A table changed once at each of a list of keys reads as the changed value there, and as before elsewhere. -/
theorem tget_foldl_tmod {α : Type} [DecidableEq α] (d : α) (f : α → α) (n : Nat) {ns : List Nat} (h : ns.Nodup) : ∀ t : Tbl α,
    tget d (ns.foldl (fun t n => tmod d t n f) t) n = if n ∈ ns then f (tget d t n) else tget d t n := by
  induction ns with
  | nil => simp
  | cons m ns ih =>
    intro t
    obtain ⟨hm, hns⟩ := List.nodup_cons.mp h
    rw [List.foldl_cons, ih hns]
    by_cases hnm : n = m
    · subst hnm
      simp [hm]
    · simp [hnm, tget_tmod_other _ _ _ hnm]

theorem State.runForTimed_rest (s : State) : s.runForTimed = { s with clusters := s.runForTimed.clusters } := by
  unfold State.runForTimed
  generalize (List.range 128).foldl _ s.clusters = us
  split <;> rfl

/-- In timed mode the clock of each of the 128 clusters runs, and nothing else of a cluster changes (R429). -/
theorem State.runForTimed_cluster {s : State} (hon : s.timedOn = true) {c : Nat} (hc : c < 128) :
    s.runForTimed.cluster c = { s.cluster c with clock := .running } := by
  rw [State.runForTimed, if_pos hon, State.cluster, tget_foldl_tmod _ _ _ List.nodup_range, if_pos (List.mem_range.mpr hc), State.cluster]

theorem State.timedBegun_cluster (s : State) {c : Nat} (hc : c < 128) :
    s.timedBegun.cluster c = { s.cluster c with clock := .running } := by
  have hon : s.timedArmed.timedOn = true := by rw [State.timedOn, State.timedArmed, armTimed_on]
  have hsame : s.timedArmed.cluster c = s.cluster c := by unfold State.timedArmed; rfl
  rw [State.timedBegun, State.runForTimed_cluster hon hc, hsame]

section
variable (s : State)

@[simp] theorem State.timedBegun_queues : s.timedBegun.queues = s.queues := by
  rw [State.timedBegun, State.runForTimed_rest, State.timedArmed]
@[simp] theorem State.timedBegun_host : s.timedBegun.host = s.host := by
  rw [State.timedBegun, State.runForTimed_rest, State.timedArmed]
@[simp] theorem State.timedBegun_launchCounter : s.timedBegun.launchCounter = s.launchCounter := by
  rw [State.timedBegun, State.runForTimed_rest, State.timedArmed]
@[simp] theorem State.timedBegun_timed : s.timedBegun.timed = armTimed s.timed := by
  rw [State.timedBegun, State.runForTimed_rest, State.timedArmed]
@[simp] theorem State.timedBegun_power : s.timedBegun.power = { s.power with timedMax := 16, timedCore := 8 } := by
  rw [State.timedBegun, State.runForTimed_rest, State.timedArmed]

@[simp] theorem State.timedEnded_queues : s.timedEnded.queues = s.queues := by rw [State.timedEnded]
@[simp] theorem State.timedEnded_host : s.timedEnded.host = s.host := by rw [State.timedEnded]
@[simp] theorem State.timedEnded_launchCounter : s.timedEnded.launchCounter = s.launchCounter := by rw [State.timedEnded]
@[simp] theorem State.timedEnded_timed : s.timedEnded.timed = setB s.timed 63 false := by rw [State.timedEnded]
@[simp] theorem State.timedEnded_power : s.timedEnded.power = s.power := by rw [State.timedEnded]

end

theorem State.timedEnded_cluster {s : State} (h : Tbl.wf {} s.clusters = true) (c : Nat) :
    s.timedEnded.cluster c = (s.cluster c).gateIdle :=
  tget_tmap (f := fun _ u => Cluster.gateIdle u) (fun _ => rfl) (Tbl.wf_iff.mp h).1 c

section
variable {s : State} {aq : Bool} {e : BitVec 512}

theorem stepTimedMode_enable (h : AdminReady s aq e 0x61) (hon : bit e 479 = true) (hfree : s.timedBarred = false) :
    stepTimedMode aq s = (s.adminBegun aq e).timedBegun.adminDone (if aq then 1 else 0) := by
  rw [stepTimedMode, h.admin_eq, if_pos hon, State.adminBegun_timedBarred, hfree, if_neg Bool.false_ne_true]
  rfl

theorem stepTimedMode_barred (h : AdminReady s aq e 0x61) (hon : bit e 479 = true) (hbarred : s.timedBarred = true) :
    stepTimedMode aq s = (s.adminBegun aq e).reject (if aq then 1 else 0) 2 := by
  rw [stepTimedMode, h.admin_eq, if_pos hon, State.adminBegun_timedBarred, if_pos hbarred]

theorem stepTimedMode_end (h : AdminReady s aq e 0x61) (hoff : bit e 479 = false) :
    stepTimedMode aq s = (s.adminBegun aq e).timedEnded.adminDone (if aq then 1 else 0) := by
  rw [stepTimedMode, h.admin_eq, hoff, if_neg Bool.false_ne_true]
  rfl

end

/-! ### The obligation -/

/-- Settles O56: the command rejects Enable = 1 where timed mode is barred (`State.timedBarred_iff`), and otherwise completes with the mode
begun (`State.timedBegun_timed`, `State.timedBegun_power`, `State.timedBegun_cluster`) or ended (`State.timedEnded_cluster`). -/
theorem timedMode : Obligations.TimedMode := by
  unfold Obligations.TimedMode
  intro aq s e q hready
  refine ⟨fun hon hcap hsplit hflow hinlet => ?enable, fun hon hbarred => ?barred, fun hoff => ?ends⟩
  case enable =>
    have hfree : s.timedBarred = false := by
      rw [← Bool.not_eq_true, State.timedBarred_iff, hsplit, hflow]
      simp only [Bool.false_eq_true, Bool.true_eq_false, false_or]
      omega
    have htimed : ((s.adminBegun aq e).timedBegun.adminDone q).timed = armTimed s.timed := by
      rw [State.adminDone, State.complete_timed, State.timedBegun_timed, State.adminBegun_timed]
    have hpower : ((s.adminBegun aq e).timedBegun.adminDone q).power = { s.power with timedMax := 16, timedCore := 8 } := by
      rw [State.adminDone, State.complete_power, State.timedBegun_power, State.adminBegun_power]
    have hmode : ((s.adminBegun aq e).timedBegun.adminDone q).timedOn = true := by rw [State.timedOn, htimed, armTimed_on]
    refine ⟨_, congrArg Host.Outcome.next (stepTimedMode_enable hready hon hfree), ?_, hmode, ?_, ?_, ?_, ?_, ?_, ?_, hpower, fun c hc => ?_⟩
    · exact State.complete_finished (by simp) (by simp) (by simp) 0 0 0 0
    · rw [htimed, armTimed_intact]
    · rw [htimed, armTimed_firstBreach]
    · rw [htimed, armTimed_lastKind]
    · rw [htimed, armTimed_counters]
    · rw [State.clusterTop, if_pos hmode, hpower]; rfl
    · rw [State.coreTop, if_pos hmode, hpower]; rfl
    · rw [State.cluster, State.adminDone, State.complete_clusters, ← State.cluster, State.timedBegun_cluster _ hc, State.adminBegun_cluster]
  case barred =>
    exact ⟨_, congrArg Host.Outcome.next (stepTimedMode_barred hready hon (s.timedBarred_iff.mpr hbarred)),
      s.reject_adminBegun_onlyEntry aq e 2, s.reject_adminBegun_finished aq e 2⟩
  case ends =>
    have htimed : ((s.adminBegun aq e).timedEnded.adminDone q).timed = setB s.timed 63 false := by
      rw [State.adminDone, State.complete_timed, State.timedEnded_timed, State.adminBegun_timed]
    refine ⟨_, congrArg Host.Outcome.next (stepTimedMode_end hready hoff), ?_, ?_, ?_, fun i hi => ?_, fun hwf c => ?_⟩
    · exact State.complete_finished (by simp) (by simp) (by simp) 0 0 0 0
    · rw [State.timedOn, htimed, bit, getLsbD_setB_same _ _ (by decide)]
    · rw [State.adminDone, State.complete_power, State.timedEnded_power, State.adminBegun_power]
    · rw [htimed, getLsbD_setB_other _ _ (by omega)]
    · have hwf' : Tbl.wf {} (s.adminBegun aq e).clusters = true := by rwa [State.adminBegun_clusters]
      rw [State.cluster, State.adminDone, State.complete_clusters, ← State.cluster, State.timedEnded_cluster hwf', State.adminBegun_cluster]

end Sys2Proof.Machine
end
